-- ==== Sys2Proof/Word.lean ====
section
/-!
DEFINITION. The widths of the MC88110 (00_scope.md R10): byte, half word, word, double word, the 80-bit
extended register, and the 5-bit register number.
-/

namespace Sys2Proof

/-- A byte, the unit an address names (R10). -/
abbrev Byte := BitVec 8

/-- A word: a general register, an address, an instruction (R10, R21, R360). -/
abbrev Word := BitVec 32

/-- A double word: a register pair (R10, R24). -/
abbrev DWord := BitVec 64

/-- An extended register (R27). -/
abbrev XWord := BitVec 80

/-- A register number, the 5-bit fields D, S1 and S2 (R361). -/
abbrev RegNum := BitVec 5

end Sys2Proof
end

