-- ==== Sys2Proof/Syntax.lean ====
section
/-!
DEFINITION. The syntax of the MC88110: one constructor of Instr for each row of spec/opcode_table.json, its fields
in the row's order from the most significant bit down (30_encoding.md R365 to R410). Operand codes that a row leaves
free but the spec calls unused stay in the syntax (FpSize.unused, PackSize.nibble, the second source field of the
control-register writes): WellFormed excludes them, and the meanings raise the exception R364 gives them.
-/

namespace Sys2Proof

/-- The size codes T1, T2 and TD of the floating-point instructions (R376). -/
inductive FpSize where
  /-- 00, single precision. -/
  | single
  /-- 01, double precision. -/
  | double
  /-- 10, double-extended precision, in the extended register file only. -/
  | ext
  /-- 11, unused: a word that holds it is a reserved encoding (R376). -/
  | unused
  deriving DecidableEq, Repr

/-- The field size code T of the graphics instructions (R376). -/
inductive PackSize where
  /-- 00, 4-bit fields (punpk.n only). -/
  | nibble
  /-- 01, 8-bit fields. -/
  | byte
  /-- 10, 16-bit fields. -/
  | half
  /-- 11, 32-bit fields. -/
  | word
  deriving DecidableEq, Repr

/-- Every instruction of spec/opcode_table.json, one constructor a row. -/
inductive Instr where
  /-- ld.d xD,rS1,SI16 (R606). -/
  | ldXrfDImm (d s1 : RegNum) (imm : BitVec 16)
  /-- ld xD,rS1,SI16 (R606). -/
  | ldXrfImm (d s1 : RegNum) (imm : BitVec 16)
  /-- ld.hu rD,rS1,SI16 (R601). -/
  | ldHuImm (d s1 : RegNum) (imm : BitVec 16)
  /-- ld.bu rD,rS1,SI16 (R601). -/
  | ldBuImm (d s1 : RegNum) (imm : BitVec 16)
  /-- ld.d rD,rS1,SI16 (R601). -/
  | ldDImm (d s1 : RegNum) (imm : BitVec 16)
  /-- ld rD,rS1,SI16 (R601). -/
  | ldImm (d s1 : RegNum) (imm : BitVec 16)
  /-- ld.h rD,rS1,SI16 (R601). -/
  | ldHImm (d s1 : RegNum) (imm : BitVec 16)
  /-- ld.b rD,rS1,SI16 (R601). -/
  | ldBImm (d s1 : RegNum) (imm : BitVec 16)
  /-- st.d rD,rS1,SI16 (R610). -/
  | stDImm (d s1 : RegNum) (imm : BitVec 16)
  /-- st rD,rS1,SI16 (R610). -/
  | stImm (d s1 : RegNum) (imm : BitVec 16)
  /-- st.h rD,rS1,SI16 (R610). -/
  | stHImm (d s1 : RegNum) (imm : BitVec 16)
  /-- st.b rD,rS1,SI16 (R610). -/
  | stBImm (d s1 : RegNum) (imm : BitVec 16)
  /-- st.d xD,rS1,SI16 (R607). -/
  | stXrfDImm (d s1 : RegNum) (imm : BitVec 16)
  /-- st xD,rS1,SI16 (R607). -/
  | stXrfImm (d s1 : RegNum) (imm : BitVec 16)
  /-- st.x xD,rS1,SI16 (R607). -/
  | stXrfXImm (d s1 : RegNum) (imm : BitVec 16)
  /-- ld.x xD,rS1,SI16 (R606). -/
  | ldXrfXImm (d s1 : RegNum) (imm : BitVec 16)
  /-- and rD,rS1,IMM16 (R421). -/
  | andImm (d s1 : RegNum) (imm : BitVec 16)
  /-- and.u rD,rS1,IMM16 (R421). -/
  | andUImm (d s1 : RegNum) (imm : BitVec 16)
  /-- mask rD,rS1,IMM16 (R424). -/
  | maskImm (d s1 : RegNum) (imm : BitVec 16)
  /-- mask.u rD,rS1,IMM16 (R424). -/
  | maskUImm (d s1 : RegNum) (imm : BitVec 16)
  /-- xor rD,rS1,IMM16 (R423). -/
  | xorImm (d s1 : RegNum) (imm : BitVec 16)
  /-- xor.u rD,rS1,IMM16 (R423). -/
  | xorUImm (d s1 : RegNum) (imm : BitVec 16)
  /-- or rD,rS1,IMM16 (R422). -/
  | orImm (d s1 : RegNum) (imm : BitVec 16)
  /-- or.u rD,rS1,IMM16 (R422). -/
  | orUImm (d s1 : RegNum) (imm : BitVec 16)
  /-- addu rD,rS1,IMM16 (R443). -/
  | adduImm (d s1 : RegNum) (imm : BitVec 16)
  /-- subu rD,rS1,IMM16 (R445). -/
  | subuImm (d s1 : RegNum) (imm : BitVec 16)
  /-- divu rD,rS1,IMM16 (R457). -/
  | divuImm (d s1 : RegNum) (imm : BitVec 16)
  /-- mulu rD,rS1,IMM16 (R454). -/
  | muluImm (d s1 : RegNum) (imm : BitVec 16)
  /-- add rD,rS1,SIMM16 (R442). -/
  | addImm (d s1 : RegNum) (imm : BitVec 16)
  /-- sub rD,rS1,SIMM16 (R444). -/
  | subImm (d s1 : RegNum) (imm : BitVec 16)
  /-- divs rD,rS1,SIMM16 (R456). -/
  | divsImm (d s1 : RegNum) (imm : BitVec 16)
  /-- cmp rD,rS1,SIMM16 (R452). -/
  | cmpImm (d s1 : RegNum) (imm : BitVec 16)
  /-- ldcr rD,crS (R640). -/
  | ldcr (d : RegNum) (cr : BitVec 6)
  /-- stcr rS1,crD (R641). -/
  | stcr (s1 : RegNum) (cr : BitVec 6) (s2 : RegNum)
  /-- xcr rD,rS1,crS/D (R642). -/
  | xcr (d s1 : RegNum) (cr : BitVec 6) (s2 : RegNum)
  /-- fldcr rD,fcrS (R643). -/
  | fldcr (d : RegNum) (cr : BitVec 6)
  /-- fstcr rS1,fcrD (R644). -/
  | fstcr (s1 : RegNum) (cr : BitVec 6) (s2 : RegNum)
  /-- fxcr rD,rS1,fcrS/D (R645). -/
  | fxcr (d s1 : RegNum) (cr : BitVec 6) (s2 : RegNum)
  /-- br{.n} D26 (R663). -/
  | br (n : Bool) (disp : BitVec 26)
  /-- bsr{.n} D26 (R664). -/
  | bsr (n : Bool) (disp : BitVec 26)
  /-- bb0{.n} B5,rS1,D16 (R665). -/
  | bb0 (n : Bool) (b : BitVec 5) (s1 : RegNum) (disp : BitVec 16)
  /-- bb1{.n} B5,rS1,D16 (R666). -/
  | bb1 (n : Bool) (b : BitVec 5) (s1 : RegNum) (disp : BitVec 16)
  /-- bcnd{.n} M5,rS1,D16 (R667). -/
  | bcnd (n : Bool) (m : BitVec 5) (s1 : RegNum) (disp : BitVec 16)
  /-- clr rD,rS1,W5<O5> (R471). -/
  | clrImm (d s1 : RegNum) (w o : BitVec 5)
  /-- set rD,rS1,W5<O5> (R472). -/
  | setImm (d s1 : RegNum) (w o : BitVec 5)
  /-- ext rD,rS1,W5<O5> (R473). -/
  | extImm (d s1 : RegNum) (w o : BitVec 5)
  /-- extu rD,rS1,W5<O5> (R474). -/
  | extuImm (d s1 : RegNum) (w o : BitVec 5)
  /-- mak rD,rS1,W5<O5> (R475). -/
  | makImm (d s1 : RegNum) (w o : BitVec 5)
  /-- rot rD,rS1,<O5> (R476). -/
  | rotImm (d s1 : RegNum) (o : BitVec 5)
  /-- tb0 B5,rS1,VEC9 (R681). -/
  | tb0 (b : BitVec 5) (s1 : RegNum) (vec : BitVec 9)
  /-- tb1 B5,rS1,VEC9 (R682). -/
  | tb1 (b : BitVec 5) (s1 : RegNum) (vec : BitVec 9)
  /-- tcnd M5,rS1,VEC9 (R683). -/
  | tcnd (m : BitVec 5) (s1 : RegNum) (vec : BitVec 9)
  /-- ld.d{.usr} xD,rS1,rS2 | xD,rS1[rS2] (R606). -/
  | ldXrfD (d s1 : RegNum) (scaled usr : Bool) (s2 : RegNum)
  /-- ld{.usr} xD,rS1,rS2 | xD,rS1[rS2] (R606). -/
  | ldXrf (d s1 : RegNum) (scaled usr : Bool) (s2 : RegNum)
  /-- ld.x{.usr} xD,rS1,rS2 | xD,rS1[rS2] (R606). -/
  | ldXrfX (d s1 : RegNum) (scaled usr : Bool) (s2 : RegNum)
  /-- st.d{.usr}{.wt} xD,rS1,rS2 | xD,rS1[rS2] (R607). -/
  | stXrfD (d s1 : RegNum) (scaled usr wt : Bool) (s2 : RegNum)
  /-- st{.usr}{.wt} xD,rS1,rS2 | xD,rS1[rS2] (R607). -/
  | stXrf (d s1 : RegNum) (scaled usr wt : Bool) (s2 : RegNum)
  /-- st.x{.usr}{.wt} xD,rS1,rS2 | xD,rS1[rS2] (R607). -/
  | stXrfX (d s1 : RegNum) (scaled usr wt : Bool) (s2 : RegNum)
  /-- xmem.bu{.usr} rD,rS1,rS2 | rD,rS1[rS2] (R630). -/
  | xmemBu (d s1 : RegNum) (scaled usr : Bool) (s2 : RegNum)
  /-- xmem{.usr} rD,rS1,rS2 | rD,rS1[rS2] (R630). -/
  | xmem (d s1 : RegNum) (scaled usr : Bool) (s2 : RegNum)
  /-- ld.hu{.usr} rD,rS1,rS2 | rD,rS1[rS2] (R601). -/
  | ldHu (d s1 : RegNum) (scaled usr : Bool) (s2 : RegNum)
  /-- ld.bu{.usr} rD,rS1,rS2 | rD,rS1[rS2] (R601). -/
  | ldBu (d s1 : RegNum) (scaled usr : Bool) (s2 : RegNum)
  /-- ld.d{.usr} rD,rS1,rS2 | rD,rS1[rS2] (R601). -/
  | ldD (d s1 : RegNum) (scaled usr : Bool) (s2 : RegNum)
  /-- ld{.usr} rD,rS1,rS2 | rD,rS1[rS2] (R601). -/
  | ld (d s1 : RegNum) (scaled usr : Bool) (s2 : RegNum)
  /-- ld.h{.usr} rD,rS1,rS2 | rD,rS1[rS2] (R601). -/
  | ldH (d s1 : RegNum) (scaled usr : Bool) (s2 : RegNum)
  /-- ld.b{.usr} rD,rS1,rS2 | rD,rS1[rS2] (R601). -/
  | ldB (d s1 : RegNum) (scaled usr : Bool) (s2 : RegNum)
  /-- st.d{.usr}{.wt} rD,rS1,rS2 | rD,rS1[rS2] (R610). -/
  | stD (d s1 : RegNum) (scaled usr wt : Bool) (s2 : RegNum)
  /-- st{.usr}{.wt} rD,rS1,rS2 | rD,rS1[rS2] (R610). -/
  | st (d s1 : RegNum) (scaled usr wt : Bool) (s2 : RegNum)
  /-- st.h{.usr}{.wt} rD,rS1,rS2 | rD,rS1[rS2] (R610). -/
  | stH (d s1 : RegNum) (scaled usr wt : Bool) (s2 : RegNum)
  /-- st.b{.usr}{.wt} rD,rS1,rS2 | rD,rS1[rS2] (R610). -/
  | stB (d s1 : RegNum) (scaled usr wt : Bool) (s2 : RegNum)
  /-- lda.d rD,rS1[rS2] (R635). -/
  | ldaD (d s1 s2 : RegNum)
  /-- lda rD,rS1[rS2] (R635). -/
  | lda (d s1 s2 : RegNum)
  /-- lda.h rD,rS1[rS2] (R635). -/
  | ldaH (d s1 s2 : RegNum)
  /-- lda.x rD,rS1[rS2] (R635). -/
  | ldaX (d s1 s2 : RegNum)
  /-- and{.c} rD,rS1,rS2 (R421). -/
  | andReg (d s1 : RegNum) (c : Bool) (s2 : RegNum)
  /-- xor{.c} rD,rS1,rS2 (R423). -/
  | xorReg (d s1 : RegNum) (c : Bool) (s2 : RegNum)
  /-- or{.c} rD,rS1,rS2 (R422). -/
  | orReg (d s1 : RegNum) (c : Bool) (s2 : RegNum)
  /-- addu{.ci,.co,.cio} rD,rS1,rS2 (R443). -/
  | adduReg (d s1 : RegNum) (ci co : Bool) (s2 : RegNum)
  /-- subu{.ci,.co,.cio} rD,rS1,rS2 (R445). -/
  | subuReg (d s1 : RegNum) (ci co : Bool) (s2 : RegNum)
  /-- add{.ci,.co,.cio} rD,rS1,rS2 (R442). -/
  | addReg (d s1 : RegNum) (ci co : Bool) (s2 : RegNum)
  /-- sub{.ci,.co,.cio} rD,rS1,rS2 (R444). -/
  | subReg (d s1 : RegNum) (ci co : Bool) (s2 : RegNum)
  /-- divu rD,rS1,rS2 (R457). -/
  | divuReg (d s1 s2 : RegNum)
  /-- divu.d rD,rS1,rS2 (R458). -/
  | divuD (d s1 s2 : RegNum)
  /-- mulu rD,rS1,rS2 (R454). -/
  | muluReg (d s1 s2 : RegNum)
  /-- mulu.d rD,rS1,rS2 (R455). -/
  | muluD (d s1 s2 : RegNum)
  /-- muls rD,rS1,rS2 (R453). -/
  | muls (d s1 s2 : RegNum)
  /-- divs rD,rS1,rS2 (R456). -/
  | divsReg (d s1 s2 : RegNum)
  /-- cmp rD,rS1,rS2 (R452). -/
  | cmpReg (d s1 s2 : RegNum)
  /-- clr rD,rS1,rS2 (R471). -/
  | clrReg (d s1 s2 : RegNum)
  /-- set rD,rS1,rS2 (R472). -/
  | setReg (d s1 s2 : RegNum)
  /-- ext rD,rS1,rS2 (R473). -/
  | extReg (d s1 s2 : RegNum)
  /-- extu rD,rS1,rS2 (R474). -/
  | extuReg (d s1 s2 : RegNum)
  /-- mak rD,rS1,rS2 (R475). -/
  | makReg (d s1 s2 : RegNum)
  /-- rot rD,rS1,rS2 (R476). -/
  | rotReg (d s1 s2 : RegNum)
  /-- jmp{.n} rS2 (R671). -/
  | jmp (n : Bool) (s2 : RegNum)
  /-- jsr{.n} rS2 (R672). -/
  | jsr (n : Bool) (s2 : RegNum)
  /-- ff1 rD,rS2 (R477). -/
  | ff1 (d s2 : RegNum)
  /-- ff0 rD,rS2 (R478). -/
  | ff0 (d s2 : RegNum)
  /-- tbnd rS1,rS2 (R684). -/
  | tbndReg (s1 s2 : RegNum)
  /-- tbnd rS1,IMM16 (R684). -/
  | tbndImm (s1 : RegNum) (imm : BitVec 16)
  /-- rte (R686). -/
  | rte
  /-- illop1 (R688). -/
  | illop1
  /-- illop2 (R688). -/
  | illop2
  /-- illop3 (R688). -/
  | illop3
  /-- fmul.<TD><T1><T2> rD,rS1,rS2 | xD,xS1,xS2 (R503). -/
  | fmul (d s1 : RegNum) (x : Bool) (t1 t2 td : FpSize) (s2 : RegNum)
  /-- fadd.<TD><T1><T2> rD,rS1,rS2 | xD,xS1,xS2 (R501). -/
  | fadd (d s1 : RegNum) (x : Bool) (t1 t2 td : FpSize) (s2 : RegNum)
  /-- fsub.<TD><T1><T2> rD,rS1,rS2 | xD,xS1,xS2 (R502). -/
  | fsub (d s1 : RegNum) (x : Bool) (t1 t2 td : FpSize) (s2 : RegNum)
  /-- fdiv.<TD><T1><T2> rD,rS1,rS2 | xD,xS1,xS2 (R504). -/
  | fdiv (d s1 : RegNum) (x : Bool) (t1 t2 td : FpSize) (s2 : RegNum)
  /-- fcvt.<TD><T2> rD,rS2 | xD,xS2 (R506). -/
  | fcvt (d : RegNum) (x : Bool) (t2 td : FpSize) (s2 : RegNum)
  /-- fsqrt.<TD><T2> rD,rS2 | xD,xS2 (R505). -/
  | fsqrt (d : RegNum) (x : Bool) (t2 td : FpSize) (s2 : RegNum)
  /-- flt.<TD>s rD,rS2 | xD,rS2 (R507). -/
  | flt (d : RegNum) (x : Bool) (td : FpSize) (s2 : RegNum)
  /-- fcmp.s<T1><T2> rD,rS1,rS2 | rD,xS1,xS2 (R511). -/
  | fcmp (d s1 : RegNum) (x : Bool) (t1 t2 : FpSize) (s2 : RegNum)
  /-- fcmpu.s<T1><T2> rD,rS1,rS2 | rD,xS1,xS2 (R512). -/
  | fcmpu (d s1 : RegNum) (x : Bool) (t1 t2 : FpSize) (s2 : RegNum)
  /-- int.s<T2> rD,rS2 | rD,xS2 (R508). -/
  | int (d : RegNum) (x : Bool) (t2 : FpSize) (s2 : RegNum)
  /-- nint.s<T2> rD,rS2 | rD,xS2 (R509). -/
  | nint (d : RegNum) (x : Bool) (t2 : FpSize) (s2 : RegNum)
  /-- trnc.s<T2> rD,rS2 | rD,xS2 (R510). -/
  | trnc (d : RegNum) (x : Bool) (t2 : FpSize) (s2 : RegNum)
  /-- mov.s rD,xS2 | mov.d rD,xS2 (R513). -/
  | movToGrf (d : RegNum) (dbl : Bool) (s2 : RegNum)
  /-- mov.s xD,rS2 | mov.d xD,rS2 (R513). -/
  | movToXrf (d : RegNum) (dbl : Bool) (s2 : RegNum)
  /-- mov xD,xS2 (R513). -/
  | movXrf (d s2 : RegNum)
  /-- pmul rD,rS1,rS2 (R570). -/
  | pmul (d s1 s2 : RegNum)
  /-- padd{.b,.h} rD,rS1,rS2 (R563). -/
  | padd (d s1 : RegNum) (t : PackSize) (s2 : RegNum)
  /-- padds.u{.b,.h} rD,rS1,rS2 (R564). -/
  | paddsU (d s1 : RegNum) (t : PackSize) (s2 : RegNum)
  /-- padds.us{.b,.h} rD,rS1,rS2 (R564). -/
  | paddsUs (d s1 : RegNum) (t : PackSize) (s2 : RegNum)
  /-- padds.s{.b,.h} rD,rS1,rS2 (R564). -/
  | paddsS (d s1 : RegNum) (t : PackSize) (s2 : RegNum)
  /-- psub{.b,.h} rD,rS1,rS2 (R565). -/
  | psub (d s1 : RegNum) (t : PackSize) (s2 : RegNum)
  /-- psubs.u{.b,.h} rD,rS1,rS2 (R567). -/
  | psubsU (d s1 : RegNum) (t : PackSize) (s2 : RegNum)
  /-- psubs.us{.b,.h} rD,rS1,rS2 (R567). -/
  | psubsUs (d s1 : RegNum) (t : PackSize) (s2 : RegNum)
  /-- psubs.s{.b,.h} rD,rS1,rS2 (R567). -/
  | psubsS (d s1 : RegNum) (t : PackSize) (s2 : RegNum)
  /-- pcmp rD,rS1,rS2 (R569). -/
  | pcmp (d s1 s2 : RegNum)
  /-- ppack.r.t rD,rS1,rS2 (R572). -/
  | ppack (d s1 : RegNum) (r : BitVec 4) (t : PackSize) (s2 : RegNum)
  /-- punpk.n | punpk.b | punpk.h rD,rS1 (R571). -/
  | punpk (d s1 : RegNum) (t : PackSize)
  /-- prot rD,rS1,<O6> (R573). -/
  | protImm (d s1 : RegNum) (r : BitVec 4)
  /-- prot rD,rS1,rS2 (R573). -/
  | protReg (d s1 s2 : RegNum)
  deriving DecidableEq, Repr

end Sys2Proof
end

