-- ==== Sys2Proof/WellFormed.lean ====
section
/-!
DEFINITION. Which terms of Instr are instructions of the MC88110: the operand codes the spec calls unused or
reserved are excluded (30_encoding.md R362, R369, R376, R410). A word that decodes to an ill-formed term raises the
exception of its opcode space when it executes (R364).
-/

namespace Sys2Proof

/-- A floating-point size code that the register file x (true: extended registers) admits (R375, R376). -/
def FpSize.legal (x : Bool) : FpSize → Bool
  | .single => true
  | .double => true
  | .ext => x
  | .unused => false

/-- The field sizes of padd, padds, psub and psubs (R376, R410). -/
def PackSize.addLegal : PackSize → Bool
  | .nibble => false
  | .byte => true
  | .half => true
  | .word => true

/-- The field sizes of punpk (R410). -/
def PackSize.unpackLegal : PackSize → Bool
  | .nibble => true
  | .byte => true
  | .half => true
  | .word => false

/-- The six rotate and size pairs of ppack (44_graphics.md R572). -/
def ppackLegal (r : BitVec 4) : PackSize → Bool
  | .nibble => false
  | .byte => r == 8#4
  | .half => r == 4#4 || r == 8#4
  | .word => r == 2#4 || r == 4#4 || r == 8#4

/-- The instruction is one the spec defines, every operand code included. -/
def Instr.wf : Instr → Bool
  | .ldXrfDImm .. => true
  | .ldXrfImm .. => true
  | .ldHuImm .. => true
  | .ldBuImm .. => true
  | .ldDImm .. => true
  | .ldImm .. => true
  | .ldHImm .. => true
  | .ldBImm .. => true
  | .stDImm .. => true
  | .stImm .. => true
  | .stHImm .. => true
  | .stBImm .. => true
  | .stXrfDImm .. => true
  | .stXrfImm .. => true
  | .stXrfXImm .. => true
  | .ldXrfXImm .. => true
  | .andImm .. => true
  | .andUImm .. => true
  | .maskImm .. => true
  | .maskUImm .. => true
  | .xorImm .. => true
  | .xorUImm .. => true
  | .orImm .. => true
  | .orUImm .. => true
  | .adduImm .. => true
  | .subuImm .. => true
  | .divuImm .. => true
  | .muluImm .. => true
  | .addImm .. => true
  | .subImm .. => true
  | .divsImm .. => true
  | .cmpImm .. => true
  | .ldcr .. => true
  | .stcr s1 _ s2 => s1 == s2
  | .xcr _ s1 _ s2 => s1 == s2
  | .fldcr .. => true
  | .fstcr s1 _ s2 => s1 == s2
  | .fxcr _ s1 _ s2 => s1 == s2
  | .br .. => true
  | .bsr .. => true
  | .bb0 .. => true
  | .bb1 .. => true
  | .bcnd .. => true
  | .clrImm .. => true
  | .setImm .. => true
  | .extImm .. => true
  | .extuImm .. => true
  | .makImm .. => true
  | .rotImm .. => true
  | .tb0 .. => true
  | .tb1 .. => true
  | .tcnd .. => true
  | .ldXrfD .. => true
  | .ldXrf .. => true
  | .ldXrfX .. => true
  | .stXrfD .. => true
  | .stXrf .. => true
  | .stXrfX .. => true
  | .xmemBu .. => true
  | .xmem .. => true
  | .ldHu .. => true
  | .ldBu .. => true
  | .ldD .. => true
  | .ld .. => true
  | .ldH .. => true
  | .ldB .. => true
  | .stD .. => true
  | .st .. => true
  | .stH .. => true
  | .stB .. => true
  | .ldaD .. => true
  | .lda .. => true
  | .ldaH .. => true
  | .ldaX .. => true
  | .andReg .. => true
  | .xorReg .. => true
  | .orReg .. => true
  | .adduReg .. => true
  | .subuReg .. => true
  | .addReg .. => true
  | .subReg .. => true
  | .divuReg .. => true
  | .divuD .. => true
  | .muluReg .. => true
  | .muluD .. => true
  | .muls .. => true
  | .divsReg .. => true
  | .cmpReg .. => true
  | .clrReg .. => true
  | .setReg .. => true
  | .extReg .. => true
  | .extuReg .. => true
  | .makReg .. => true
  | .rotReg .. => true
  | .jmp .. => true
  | .jsr .. => true
  | .ff1 .. => true
  | .ff0 .. => true
  | .tbndReg .. => true
  | .tbndImm .. => true
  | .rte => true
  | .illop1 => true
  | .illop2 => true
  | .illop3 => true
  | .fmul _ _ x t1 t2 td _ => t1.legal x && t2.legal x && td.legal x
  | .fadd _ _ x t1 t2 td _ => t1.legal x && t2.legal x && td.legal x
  | .fsub _ _ x t1 t2 td _ => t1.legal x && t2.legal x && td.legal x
  | .fdiv _ _ x t1 t2 td _ => t1.legal x && t2.legal x && td.legal x
  | .fcvt _ x t2 td _ => t2.legal x && td.legal x
  | .fsqrt _ x t2 td _ => t2.legal x && td.legal x
  | .flt _ x td _ => td.legal x
  | .fcmp _ _ x t1 t2 _ => t1.legal x && t2.legal x
  | .fcmpu _ _ x t1 t2 _ => t1.legal x && t2.legal x
  | .int _ x t2 _ => t2.legal x
  | .nint _ x t2 _ => t2.legal x
  | .trnc _ x t2 _ => t2.legal x
  | .movToGrf .. => true
  | .movToXrf .. => true
  | .movXrf .. => true
  | .pmul .. => true
  | .padd _ _ t _ => t.addLegal
  | .paddsU _ _ t _ => t.addLegal
  | .paddsUs _ _ t _ => t.addLegal
  | .paddsS _ _ t _ => t.addLegal
  | .psub _ _ t _ => t.addLegal
  | .psubsU _ _ t _ => t.addLegal
  | .psubsUs _ _ t _ => t.addLegal
  | .psubsS _ _ t _ => t.addLegal
  | .pcmp .. => true
  | .ppack _ _ r t _ => ppackLegal r t
  | .punpk _ _ t => t.unpackLegal
  | .protImm .. => true
  | .protReg .. => true

/-- Well-formedness as a proposition. -/
abbrev Instr.WellFormed (i : Instr) : Prop := i.wf = true

end Sys2Proof
end

