-- ==== Sys2Proof/Decode.lean ====
section
/-!
DEFINITION. Decoding and encoding (30_encoding.md). A word is an instruction when it matches a row of
spec/opcode_table.json with every constant bit as printed (R362); every other word is reserved and is rejected by the
name of the opcode space whose exception it raises (R364). The instruction word is the big-endian word at its address
(R360).
-/

namespace Sys2Proof

/-- The opcode spaces of R364: the base processor and the seven special function units. -/
inductive OpcodeSpace where
  | base | sfu1 | sfu2 | sfu3 | sfu4 | sfu5 | sfu6 | sfu7
  deriving DecidableEq, Repr

/-- Why a byte sequence is not an instruction. -/
inductive Reject where
  /-- Fewer than the four bytes of a word (R360). -/
  | truncated
  /-- A reserved encoding of that opcode space (R364). -/
  | reserved (space : OpcodeSpace)
  deriving DecidableEq, Repr

/-! ### Fields of a word (R361, R365) -/

/-- Bits 31 to 26, the major opcode. -/
def opField (w : Word) : BitVec 6 := w.extractLsb' 26 6
/-- Bits 25 to 21: D, B5 or M5. -/
def dField (w : Word) : BitVec 5 := w.extractLsb' 21 5
/-- Bits 20 to 16: S1. -/
def s1Field (w : Word) : BitVec 5 := w.extractLsb' 16 5
/-- Bits 15 to 0: an immediate, a displacement or a sub-opcode with S2. -/
def loField (w : Word) : BitVec 16 := w.extractLsb' 0 16
/-- Bits 25 to 0: D26. -/
def d26Field (w : Word) : BitVec 26 := w.extractLsb' 0 26

/-! ### Fields of the low half -/

/-- Bits 15 to 10, the sub-opcode of the formats TRI, XMEMX and BF10. -/
def subField (lo : BitVec 16) : BitVec 6 := lo.extractLsb' 10 6
/-- Bits 9 to 5: W5, or the option bits S, U and T. -/
def midField (lo : BitVec 16) : BitVec 5 := lo.extractLsb' 5 5
/-- Bits 4 to 0: S2 or O5. -/
def s2Field (lo : BitVec 16) : BitVec 5 := lo.extractLsb' 0 5
/-- Bits 8 to 0: VEC9 (R374). -/
def vecField (lo : BitVec 16) : BitVec 9 := lo.extractLsb' 0 9
/-- Bits 15 to 14: OP of the format CR (R369). -/
def crOpField (lo : BitVec 16) : BitVec 2 := lo.extractLsb' 14 2
/-- Bits 13 to 11: SFU of the format CR (R369). -/
def crSfuField (lo : BitVec 16) : BitVec 3 := lo.extractLsb' 11 3
/-- Bits 10 to 5: the control register number (R369). -/
def crField (lo : BitVec 16) : BitVec 6 := lo.extractLsb' 5 6
/-- Bit 15: R of the floating-point instructions (R368). -/
def fpFileField (lo : BitVec 16) : BitVec 1 := lo.extractLsb' 15 1
/-- Bits 14 to 11: the floating-point operation (R368). -/
def fpOpField (lo : BitVec 16) : BitVec 4 := lo.extractLsb' 11 4
/-- Bits 10 to 9: T1 (R368). -/
def t1Field (lo : BitVec 16) : BitVec 2 := lo.extractLsb' 9 2
/-- Bits 8 to 7: T2 (R368). -/
def t2Field (lo : BitVec 16) : BitVec 2 := lo.extractLsb' 7 2
/-- Bits 6 to 5: TD, or the graphics field size T (R368). -/
def tdField (lo : BitVec 16) : BitVec 2 := lo.extractLsb' 5 2
/-- Bits 15 to 11: the graphics operation (R368). -/
def gfxOpField (lo : BitVec 16) : BitVec 5 := lo.extractLsb' 11 5
/-- Bits 10 to 7: the rotate count R, or 00 and the saturation mode S (R368). -/
def gfxRotField (lo : BitVec 16) : BitVec 4 := lo.extractLsb' 7 4

/-- A one-bit field as a flag. -/
def flag (b : BitVec 1) : Bool := b == 1#1

/-- The size a floating-point size code names (R376). -/
def FpSize.ofCode (c : BitVec 2) : FpSize :=
  if c = 0#2 then .single else if c = 1#2 then .double else if c = 2#2 then .ext else .unused

/-- The code of a floating-point size (R376). -/
def FpSize.code : FpSize → BitVec 2
  | .single => 0#2
  | .double => 1#2
  | .ext => 2#2
  | .unused => 3#2

/-- The field size a graphics size code names (R376). -/
def PackSize.ofCode (c : BitVec 2) : PackSize :=
  if c = 0#2 then .nibble else if c = 1#2 then .byte else if c = 2#2 then .half else .word

/-- The code of a graphics field size (R376). -/
def PackSize.code : PackSize → BitVec 2
  | .nibble => 0#2
  | .byte => 1#2
  | .half => 2#2
  | .word => 3#2

/-! ### The decoder -/

/-- The instruction if the constant bits are as printed, else the rejection (R362). -/
def need (ok : Bool) (space : OpcodeSpace) (i : Instr) : Except Reject Instr :=
  if ok then .ok i else .error (.reserved space)

/-- The format CR, major opcode 100000 (R369, R385): an SFU field of 2 to 7, and OP 00 with any SFU, is that SFU's
exception; every other malformed word is of the base processor's space (R364 (1) and (5)). -/
def decodeCr (d s1 : BitVec 5) (lo : BitVec 16) : Except Reject Instr :=
  let cr := crField lo
  let s2 := s2Field lo
  match (crSfuField lo).toNat with
  | 0 =>
    match (crOpField lo).toNat with
    | 1 => need (s1 == 0#5 && s2 == 0#5) .base (.ldcr d cr)
    | 2 => need (d == 0#5) .base (.stcr s1 cr s2)
    | 3 => .ok (.xcr d s1 cr s2)
    | _ => .error (.reserved .base)
  | 1 =>
    match (crOpField lo).toNat with
    | 1 => need (s1 == 0#5 && s2 == 0#5) .base (.fldcr d cr)
    | 2 => need (d == 0#5) .base (.fstcr s1 cr s2)
    | 3 => .ok (.fxcr d s1 cr s2)
    | _ => .error (.reserved .sfu1)
  | 2 => .error (.reserved .sfu2)
  | 3 => .error (.reserved .sfu3)
  | 4 => .error (.reserved .sfu4)
  | 5 => .error (.reserved .sfu5)
  | 6 => .error (.reserved .sfu6)
  | _ => .error (.reserved .sfu7)

/-- The floating-point instructions, major opcode 100001 (R400, R404, R405). -/
def decodeFp (d s1 : BitVec 5) (lo : BitVec 16) : Except Reject Instr :=
  let x := flag (fpFileField lo)
  let t1 := t1Field lo
  let t2 := t2Field lo
  let td := tdField lo
  let s2 := s2Field lo
  match (fpOpField lo).toNat with
  | 0 => .ok (.fmul d s1 x (.ofCode t1) (.ofCode t2) (.ofCode td) s2)
  | 1 => need (s1 == 0#5 && t1 == 0#2) .sfu1 (.fcvt d x (.ofCode t2) (.ofCode td) s2)
  | 4 => need (s1 == 0#5 && !x && (t1 == 0#2 || t1 == 1#2) && t2 == 0#2) .sfu1
      (.flt d (t1 == 1#2) (.ofCode td) s2)
  | 5 => .ok (.fadd d s1 x (.ofCode t1) (.ofCode t2) (.ofCode td) s2)
  | 6 => .ok (.fsub d s1 x (.ofCode t1) (.ofCode t2) (.ofCode td) s2)
  | 7 =>
    if td = 0#2 then .ok (.fcmp d s1 x (.ofCode t1) (.ofCode t2) s2)
    else need (td == 1#2) .sfu1 (.fcmpu d s1 x (.ofCode t1) (.ofCode t2) s2)
  | 8 =>
    if s1 = 0#5 ∧ td = 0#2 then
      if x then
        if t1 = 1#2 then need (t2 == 2#2) .sfu1 (.movXrf d s2)
        else need (t1 == 0#2 && (t2 == 0#2 || t2 == 1#2)) .sfu1 (.movToGrf d (t2 == 1#2) s2)
      else need (t1 == 1#2 && (t2 == 0#2 || t2 == 1#2)) .sfu1 (.movToXrf d (t2 == 1#2) s2)
    else .error (.reserved .sfu1)
  | 9 => need (s1 == 0#5 && t1 == 0#2 && td == 0#2) .sfu1 (.int d x (.ofCode t2) s2)
  | 10 => need (s1 == 0#5 && t1 == 0#2 && td == 0#2) .sfu1 (.nint d x (.ofCode t2) s2)
  | 11 => need (s1 == 0#5 && t1 == 0#2 && td == 0#2) .sfu1 (.trnc d x (.ofCode t2) s2)
  | 14 => .ok (.fdiv d s1 x (.ofCode t1) (.ofCode t2) (.ofCode td) s2)
  | 15 => need (s1 == 0#5 && t1 == 0#2) .sfu1 (.fsqrt d x (.ofCode t2) (.ofCode td) s2)
  | _ => .error (.reserved .sfu1)

/-- The graphics instructions, major opcode 100010 (R410). -/
def decodeGfx (d s1 : BitVec 5) (lo : BitVec 16) : Except Reject Instr :=
  let r := gfxRotField lo
  let t := tdField lo
  let s2 := s2Field lo
  match (gfxOpField lo).toNat with
  | 0 => need (r == 0#4 && t == 0#2) .sfu2 (.pmul d s1 s2)
  | 4 =>
    match r.toNat with
    | 0 => .ok (.padd d s1 (.ofCode t) s2)
    | 1 => .ok (.paddsU d s1 (.ofCode t) s2)
    | 2 => .ok (.paddsUs d s1 (.ofCode t) s2)
    | 3 => .ok (.paddsS d s1 (.ofCode t) s2)
    | _ => .error (.reserved .sfu2)
  | 6 =>
    match r.toNat with
    | 0 => .ok (.psub d s1 (.ofCode t) s2)
    | 1 => .ok (.psubsU d s1 (.ofCode t) s2)
    | 2 => .ok (.psubsUs d s1 (.ofCode t) s2)
    | 3 => .ok (.psubsS d s1 (.ofCode t) s2)
    | _ => .error (.reserved .sfu2)
  | 7 => need (r == 0#4 && t == 3#2) .sfu2 (.pcmp d s1 s2)
  | 12 => .ok (.ppack d s1 r (.ofCode t) s2)
  | 13 => need (r == 0#4 && s2 == 0#5) .sfu2 (.punpk d s1 (.ofCode t))
  | 14 => need (t == 0#2 && s2 == 0#5) .sfu2 (.protImm d s1 r)
  | 15 => need (r == 0#4 && t == 0#2) .sfu2 (.protReg d s1 s2)
  | _ => .error (.reserved .sfu2)

/-- The option bits S (bit 9), U (bit 8) and T (bit 7) of the middle field (R377). -/
def scaledBit (m : BitVec 5) : Bool := m.getLsbD 4
/-- The user-space option U. -/
def usrBit (m : BitVec 5) : Bool := m.getLsbD 3
/-- The store-through option T. -/
def wtBit (m : BitVec 5) : Bool := m.getLsbD 2
/-- Bits 7 to 5 are zero, as every form but the stores has them. -/
def low3Zero (m : BitVec 5) : Bool := m.extractLsb' 0 3 == 0#3
/-- Bits 6 to 5 are zero, as the stores have them. -/
def low2Zero (m : BitVec 5) : Bool := m.extractLsb' 0 2 == 0#2

/-- Major opcode 111100: indexed XRF accesses, bit-field immediates, traps (R390). -/
def decodeF0 (d s1 : BitVec 5) (lo : BitVec 16) : Except Reject Instr :=
  let m := midField lo
  let s2 := s2Field lo
  match (subField lo).toNat with
  | 4 => need (low3Zero m) .base (.ldXrfD d s1 (scaledBit m) (usrBit m) s2)
  | 5 => need (low3Zero m) .base (.ldXrf d s1 (scaledBit m) (usrBit m) s2)
  | 6 => need (low3Zero m) .base (.ldXrfX d s1 (scaledBit m) (usrBit m) s2)
  | 8 => need (low2Zero m) .base (.stXrfD d s1 (scaledBit m) (usrBit m) (wtBit m) s2)
  | 9 => need (low2Zero m) .base (.stXrf d s1 (scaledBit m) (usrBit m) (wtBit m) s2)
  | 10 => need (low2Zero m) .base (.stXrfX d s1 (scaledBit m) (usrBit m) (wtBit m) s2)
  | 32 => .ok (.clrImm d s1 m s2)
  | 34 => .ok (.setImm d s1 m s2)
  | 36 => .ok (.extImm d s1 m s2)
  | 38 => .ok (.extuImm d s1 m s2)
  | 40 => .ok (.makImm d s1 m s2)
  | 42 => need (m == 0#5) .base (.rotImm d s1 s2)
  | 52 => need (!scaledBit m) .base (.tb0 d s1 (vecField lo))
  | 54 => need (!scaledBit m) .base (.tb1 d s1 (vecField lo))
  | 58 => need (!scaledBit m) .base (.tcnd d s1 (vecField lo))
  | _ => .error (.reserved .base)

/-- Major opcode 111101, the triadic register forms (R392). -/
def decodeF1 (d s1 : BitVec 5) (lo : BitVec 16) : Except Reject Instr :=
  let m := midField lo
  let s2 := s2Field lo
  match (subField lo).toNat with
  | 0 => need (low3Zero m) .base (.xmemBu d s1 (scaledBit m) (usrBit m) s2)
  | 1 => need (low3Zero m) .base (.xmem d s1 (scaledBit m) (usrBit m) s2)
  | 2 => need (low3Zero m) .base (.ldHu d s1 (scaledBit m) (usrBit m) s2)
  | 3 => need (low3Zero m) .base (.ldBu d s1 (scaledBit m) (usrBit m) s2)
  | 4 => need (low3Zero m) .base (.ldD d s1 (scaledBit m) (usrBit m) s2)
  | 5 => need (low3Zero m) .base (.ld d s1 (scaledBit m) (usrBit m) s2)
  | 6 => need (low3Zero m) .base (.ldH d s1 (scaledBit m) (usrBit m) s2)
  | 7 => need (low3Zero m) .base (.ldB d s1 (scaledBit m) (usrBit m) s2)
  | 8 => need (low2Zero m) .base (.stD d s1 (scaledBit m) (usrBit m) (wtBit m) s2)
  | 9 => need (low2Zero m) .base (.st d s1 (scaledBit m) (usrBit m) (wtBit m) s2)
  | 10 => need (low2Zero m) .base (.stH d s1 (scaledBit m) (usrBit m) (wtBit m) s2)
  | 11 => need (low2Zero m) .base (.stB d s1 (scaledBit m) (usrBit m) (wtBit m) s2)
  | 12 => need (m == 16#5) .base (.ldaD d s1 s2)
  | 13 => need (m == 16#5) .base (.lda d s1 s2)
  | 14 => need (m == 16#5) .base (.ldaH d s1 s2)
  | 15 => need (m == 16#5) .base (.ldaX d s1 s2)
  | 16 => need (m == 0#5) .base (.andReg d s1 false s2)
  | 17 => need (m == 0#5) .base (.andReg d s1 true s2)
  | 20 => need (m == 0#5) .base (.xorReg d s1 false s2)
  | 21 => need (m == 0#5) .base (.xorReg d s1 true s2)
  | 22 => need (m == 0#5) .base (.orReg d s1 false s2)
  | 23 => need (m == 0#5) .base (.orReg d s1 true s2)
  | 24 => need (low3Zero m) .base (.adduReg d s1 (scaledBit m) (usrBit m) s2)
  | 25 => need (low3Zero m) .base (.subuReg d s1 (scaledBit m) (usrBit m) s2)
  | 26 => if m = 8#5 then .ok (.divuD d s1 s2) else need (m == 0#5) .base (.divuReg d s1 s2)
  | 27 =>
    if m = 8#5 then .ok (.muluD d s1 s2)
    else if m = 16#5 then .ok (.muls d s1 s2)
    else need (m == 0#5) .base (.muluReg d s1 s2)
  | 28 => need (low3Zero m) .base (.addReg d s1 (scaledBit m) (usrBit m) s2)
  | 29 => need (low3Zero m) .base (.subReg d s1 (scaledBit m) (usrBit m) s2)
  | 30 => need (m == 0#5) .base (.divsReg d s1 s2)
  | 31 => need (m == 0#5) .base (.cmpReg d s1 s2)
  | 32 => need (m == 0#5) .base (.clrReg d s1 s2)
  | 34 => need (m == 0#5) .base (.setReg d s1 s2)
  | 36 => need (m == 0#5) .base (.extReg d s1 s2)
  | 38 => need (m == 0#5) .base (.extuReg d s1 s2)
  | 40 => need (m == 0#5) .base (.makReg d s1 s2)
  | 42 => need (m == 0#5) .base (.rotReg d s1 s2)
  | 48 => need (d == 0#5 && s1 == 0#5 && m == 0#5) .base (.jmp false s2)
  | 49 => need (d == 0#5 && s1 == 0#5 && m == 0#5) .base (.jmp true s2)
  | 50 => need (d == 0#5 && s1 == 0#5 && m == 0#5) .base (.jsr false s2)
  | 51 => need (d == 0#5 && s1 == 0#5 && m == 0#5) .base (.jsr true s2)
  | 58 => need (s1 == 0#5 && m == 0#5) .base (.ff1 d s2)
  | 59 => need (s1 == 0#5 && m == 0#5) .base (.ff0 d s2)
  | 62 => need (d == 0#5 && m == 0#5) .base (.tbndReg s1 s2)
  | 63 =>
    if d = 0#5 ∧ s1 = 0#5 ∧ m = 0#5 then
      match s2.toNat with
      | 0 => .ok .rte
      | 1 => .ok .illop1
      | 2 => .ok .illop2
      | 3 => .ok .illop3
      | _ => .error (.reserved .base)
    else .error (.reserved .base)
  | _ => .error (.reserved .base)

/-- The instruction a word stands for, or the opcode space of a reserved word (R363, R364, R380). -/
def decodeWord (w : Word) : Except Reject Instr :=
  let d := dField w
  let s1 := s1Field w
  let lo := loField w
  match (opField w).toNat with
  | 0 => .ok (.ldXrfDImm d s1 lo)
  | 1 => .ok (.ldXrfImm d s1 lo)
  | 2 => .ok (.ldHuImm d s1 lo)
  | 3 => .ok (.ldBuImm d s1 lo)
  | 4 => .ok (.ldDImm d s1 lo)
  | 5 => .ok (.ldImm d s1 lo)
  | 6 => .ok (.ldHImm d s1 lo)
  | 7 => .ok (.ldBImm d s1 lo)
  | 8 => .ok (.stDImm d s1 lo)
  | 9 => .ok (.stImm d s1 lo)
  | 10 => .ok (.stHImm d s1 lo)
  | 11 => .ok (.stBImm d s1 lo)
  | 12 => .ok (.stXrfDImm d s1 lo)
  | 13 => .ok (.stXrfImm d s1 lo)
  | 14 => .ok (.stXrfXImm d s1 lo)
  | 15 => .ok (.ldXrfXImm d s1 lo)
  | 16 => .ok (.andImm d s1 lo)
  | 17 => .ok (.andUImm d s1 lo)
  | 18 => .ok (.maskImm d s1 lo)
  | 19 => .ok (.maskUImm d s1 lo)
  | 20 => .ok (.xorImm d s1 lo)
  | 21 => .ok (.xorUImm d s1 lo)
  | 22 => .ok (.orImm d s1 lo)
  | 23 => .ok (.orUImm d s1 lo)
  | 24 => .ok (.adduImm d s1 lo)
  | 25 => .ok (.subuImm d s1 lo)
  | 26 => .ok (.divuImm d s1 lo)
  | 27 => .ok (.muluImm d s1 lo)
  | 28 => .ok (.addImm d s1 lo)
  | 29 => .ok (.subImm d s1 lo)
  | 30 => .ok (.divsImm d s1 lo)
  | 31 => .ok (.cmpImm d s1 lo)
  | 32 => decodeCr d s1 lo
  | 33 => decodeFp d s1 lo
  | 34 => decodeGfx d s1 lo
  | 35 => .error (.reserved .sfu3)
  | 36 => .error (.reserved .sfu4)
  | 37 => .error (.reserved .sfu5)
  | 38 => .error (.reserved .sfu6)
  | 39 => .error (.reserved .sfu7)
  | 48 => .ok (.br false (d26Field w))
  | 49 => .ok (.br true (d26Field w))
  | 50 => .ok (.bsr false (d26Field w))
  | 51 => .ok (.bsr true (d26Field w))
  | 52 => .ok (.bb0 false d s1 lo)
  | 53 => .ok (.bb0 true d s1 lo)
  | 54 => .ok (.bb1 false d s1 lo)
  | 55 => .ok (.bb1 true d s1 lo)
  | 58 => .ok (.bcnd false d s1 lo)
  | 59 => .ok (.bcnd true d s1 lo)
  | 60 => decodeF0 d s1 lo
  | 61 => decodeF1 d s1 lo
  | 62 => need (d == 0#5) .base (.tbndImm s1 lo)
  | _ => .error (.reserved .base)

/-- The word whose four bytes are given, the first the most significant (R360). -/
def wordOfBytes (b0 b1 b2 b3 : Byte) : Word := b0 ++ b1 ++ b2 ++ b3

/-- The four bytes of a word, most significant first (R360). -/
def bytesOfWord (w : Word) : List Byte :=
  [w.extractLsb' 24 8, w.extractLsb' 16 8, w.extractLsb' 8 8, w.extractLsb' 0 8]

/-- Decodes one instruction from a byte sequence and gives the bytes that follow it. -/
def decode : List Byte → Except Reject (Instr × List Byte)
  | b0 :: b1 :: b2 :: b3 :: rest =>
    match decodeWord (wordOfBytes b0 b1 b2 b3) with
    | .ok i => .ok (i, rest)
    | .error e => .error e
  | _ => .error .truncated

/-- The decoder's answer on an instruction's bits as spec/opcode_table.json numbers them: every instruction is one
32-bit word (R360), stored most significant byte first. -/
def decodeTableWord (_nbits w : Nat) : Option Instr :=
  match decode (bytesOfWord (BitVec.ofNat 32 w)) with
  | .ok (i, _) => some i
  | .error _ => none

/-! ### The encoder -/

/-- A word from its major opcode, D, S1 and low half (R365). -/
def wordOf (op : BitVec 6) (d s1 : BitVec 5) (lo : BitVec 16) : Word := op ++ d ++ s1 ++ lo

/-- A low half from a 6-bit sub-opcode, the middle field and S2 (formats TRI, XMEMX and BF10, R365). -/
def loTri (sub : BitVec 6) (mid s2 : BitVec 5) : BitVec 16 := sub ++ mid ++ s2

/-- The middle field of a load, exchange or carry form: S, U (or I, O) and 000 (R377, R392). -/
def midLoad (s u : Bool) : BitVec 5 := BitVec.ofBool s ++ BitVec.ofBool u ++ 0#3

/-- The middle field of a store: S, U, T and 00 (R377). -/
def midStore (s u t : Bool) : BitVec 5 := BitVec.ofBool s ++ BitVec.ofBool u ++ BitVec.ofBool t ++ 0#2

/-- A low half of the format VEC9 (R365). -/
def loVec (sub : BitVec 7) (vec : BitVec 9) : BitVec 16 := sub ++ vec

/-- A low half of the format CR (R369). -/
def loCr (op : BitVec 2) (sfu : BitVec 3) (cr : BitVec 6) (s2 : BitVec 5) : BitVec 16 := op ++ sfu ++ cr ++ s2

/-- A low half of a floating-point instruction (R368). -/
def loFp (x : Bool) (op : BitVec 4) (t1 t2 td : BitVec 2) (s2 : BitVec 5) : BitVec 16 :=
  BitVec.ofBool x ++ op ++ t1 ++ t2 ++ td ++ s2

/-- A low half of a graphics instruction (R368). -/
def loGfx (op : BitVec 5) (r : BitVec 4) (t : BitVec 2) (s2 : BitVec 5) : BitVec 16 := op ++ r ++ t ++ s2

/-- A word of the format BR26: 5-bit opcode, N, D26 (R370). -/
def wordBr26 (op : BitVec 5) (n : Bool) (disp : BitVec 26) : Word := op ++ BitVec.ofBool n ++ disp

/-- The major opcode of the format BR16: 5-bit opcode and N (R370). -/
def opBr16 (op : BitVec 5) (n : Bool) : BitVec 6 := op ++ BitVec.ofBool n

/-- The word of an instruction (30_encoding.md R380 to R410). -/
def encode : Instr → Word
  | .ldXrfDImm d s1 imm => wordOf 0b000000#6 d s1 imm
  | .ldXrfImm d s1 imm => wordOf 0b000001#6 d s1 imm
  | .ldHuImm d s1 imm => wordOf 0b000010#6 d s1 imm
  | .ldBuImm d s1 imm => wordOf 0b000011#6 d s1 imm
  | .ldDImm d s1 imm => wordOf 0b000100#6 d s1 imm
  | .ldImm d s1 imm => wordOf 0b000101#6 d s1 imm
  | .ldHImm d s1 imm => wordOf 0b000110#6 d s1 imm
  | .ldBImm d s1 imm => wordOf 0b000111#6 d s1 imm
  | .stDImm d s1 imm => wordOf 0b001000#6 d s1 imm
  | .stImm d s1 imm => wordOf 0b001001#6 d s1 imm
  | .stHImm d s1 imm => wordOf 0b001010#6 d s1 imm
  | .stBImm d s1 imm => wordOf 0b001011#6 d s1 imm
  | .stXrfDImm d s1 imm => wordOf 0b001100#6 d s1 imm
  | .stXrfImm d s1 imm => wordOf 0b001101#6 d s1 imm
  | .stXrfXImm d s1 imm => wordOf 0b001110#6 d s1 imm
  | .ldXrfXImm d s1 imm => wordOf 0b001111#6 d s1 imm
  | .andImm d s1 imm => wordOf 0b010000#6 d s1 imm
  | .andUImm d s1 imm => wordOf 0b010001#6 d s1 imm
  | .maskImm d s1 imm => wordOf 0b010010#6 d s1 imm
  | .maskUImm d s1 imm => wordOf 0b010011#6 d s1 imm
  | .xorImm d s1 imm => wordOf 0b010100#6 d s1 imm
  | .xorUImm d s1 imm => wordOf 0b010101#6 d s1 imm
  | .orImm d s1 imm => wordOf 0b010110#6 d s1 imm
  | .orUImm d s1 imm => wordOf 0b010111#6 d s1 imm
  | .adduImm d s1 imm => wordOf 0b011000#6 d s1 imm
  | .subuImm d s1 imm => wordOf 0b011001#6 d s1 imm
  | .divuImm d s1 imm => wordOf 0b011010#6 d s1 imm
  | .muluImm d s1 imm => wordOf 0b011011#6 d s1 imm
  | .addImm d s1 imm => wordOf 0b011100#6 d s1 imm
  | .subImm d s1 imm => wordOf 0b011101#6 d s1 imm
  | .divsImm d s1 imm => wordOf 0b011110#6 d s1 imm
  | .cmpImm d s1 imm => wordOf 0b011111#6 d s1 imm
  | .ldcr d cr => wordOf 0b100000#6 d 0#5 (loCr 0b01#2 0b000#3 cr 0#5)
  | .stcr s1 cr s2 => wordOf 0b100000#6 0#5 s1 (loCr 0b10#2 0b000#3 cr s2)
  | .xcr d s1 cr s2 => wordOf 0b100000#6 d s1 (loCr 0b11#2 0b000#3 cr s2)
  | .fldcr d cr => wordOf 0b100000#6 d 0#5 (loCr 0b01#2 0b001#3 cr 0#5)
  | .fstcr s1 cr s2 => wordOf 0b100000#6 0#5 s1 (loCr 0b10#2 0b001#3 cr s2)
  | .fxcr d s1 cr s2 => wordOf 0b100000#6 d s1 (loCr 0b11#2 0b001#3 cr s2)
  | .br n disp => wordBr26 0b11000#5 n disp
  | .bsr n disp => wordBr26 0b11001#5 n disp
  | .bb0 n b s1 disp => wordOf (opBr16 0b11010#5 n) b s1 disp
  | .bb1 n b s1 disp => wordOf (opBr16 0b11011#5 n) b s1 disp
  | .bcnd n m s1 disp => wordOf (opBr16 0b11101#5 n) m s1 disp
  | .clrImm d s1 w o => wordOf 0b111100#6 d s1 (loTri 0b100000#6 w o)
  | .setImm d s1 w o => wordOf 0b111100#6 d s1 (loTri 0b100010#6 w o)
  | .extImm d s1 w o => wordOf 0b111100#6 d s1 (loTri 0b100100#6 w o)
  | .extuImm d s1 w o => wordOf 0b111100#6 d s1 (loTri 0b100110#6 w o)
  | .makImm d s1 w o => wordOf 0b111100#6 d s1 (loTri 0b101000#6 w o)
  | .rotImm d s1 o => wordOf 0b111100#6 d s1 (loTri 0b101010#6 0#5 o)
  | .tb0 b s1 vec => wordOf 0b111100#6 b s1 (loVec 0b1101000#7 vec)
  | .tb1 b s1 vec => wordOf 0b111100#6 b s1 (loVec 0b1101100#7 vec)
  | .tcnd m s1 vec => wordOf 0b111100#6 m s1 (loVec 0b1110100#7 vec)
  | .ldXrfD d s1 scaled usr s2 => wordOf 0b111100#6 d s1 (loTri 0b000100#6 (midLoad scaled usr) s2)
  | .ldXrf d s1 scaled usr s2 => wordOf 0b111100#6 d s1 (loTri 0b000101#6 (midLoad scaled usr) s2)
  | .ldXrfX d s1 scaled usr s2 => wordOf 0b111100#6 d s1 (loTri 0b000110#6 (midLoad scaled usr) s2)
  | .stXrfD d s1 scaled usr wt s2 => wordOf 0b111100#6 d s1 (loTri 0b001000#6 (midStore scaled usr wt) s2)
  | .stXrf d s1 scaled usr wt s2 => wordOf 0b111100#6 d s1 (loTri 0b001001#6 (midStore scaled usr wt) s2)
  | .stXrfX d s1 scaled usr wt s2 => wordOf 0b111100#6 d s1 (loTri 0b001010#6 (midStore scaled usr wt) s2)
  | .xmemBu d s1 scaled usr s2 => wordOf 0b111101#6 d s1 (loTri 0b000000#6 (midLoad scaled usr) s2)
  | .xmem d s1 scaled usr s2 => wordOf 0b111101#6 d s1 (loTri 0b000001#6 (midLoad scaled usr) s2)
  | .ldHu d s1 scaled usr s2 => wordOf 0b111101#6 d s1 (loTri 0b000010#6 (midLoad scaled usr) s2)
  | .ldBu d s1 scaled usr s2 => wordOf 0b111101#6 d s1 (loTri 0b000011#6 (midLoad scaled usr) s2)
  | .ldD d s1 scaled usr s2 => wordOf 0b111101#6 d s1 (loTri 0b000100#6 (midLoad scaled usr) s2)
  | .ld d s1 scaled usr s2 => wordOf 0b111101#6 d s1 (loTri 0b000101#6 (midLoad scaled usr) s2)
  | .ldH d s1 scaled usr s2 => wordOf 0b111101#6 d s1 (loTri 0b000110#6 (midLoad scaled usr) s2)
  | .ldB d s1 scaled usr s2 => wordOf 0b111101#6 d s1 (loTri 0b000111#6 (midLoad scaled usr) s2)
  | .stD d s1 scaled usr wt s2 => wordOf 0b111101#6 d s1 (loTri 0b001000#6 (midStore scaled usr wt) s2)
  | .st d s1 scaled usr wt s2 => wordOf 0b111101#6 d s1 (loTri 0b001001#6 (midStore scaled usr wt) s2)
  | .stH d s1 scaled usr wt s2 => wordOf 0b111101#6 d s1 (loTri 0b001010#6 (midStore scaled usr wt) s2)
  | .stB d s1 scaled usr wt s2 => wordOf 0b111101#6 d s1 (loTri 0b001011#6 (midStore scaled usr wt) s2)
  | .ldaD d s1 s2 => wordOf 0b111101#6 d s1 (loTri 0b001100#6 0b10000#5 s2)
  | .lda d s1 s2 => wordOf 0b111101#6 d s1 (loTri 0b001101#6 0b10000#5 s2)
  | .ldaH d s1 s2 => wordOf 0b111101#6 d s1 (loTri 0b001110#6 0b10000#5 s2)
  | .ldaX d s1 s2 => wordOf 0b111101#6 d s1 (loTri 0b001111#6 0b10000#5 s2)
  | .andReg d s1 c s2 => wordOf 0b111101#6 d s1 (loTri (0b01000#5 ++ BitVec.ofBool c) 0#5 s2)
  | .xorReg d s1 c s2 => wordOf 0b111101#6 d s1 (loTri (0b01010#5 ++ BitVec.ofBool c) 0#5 s2)
  | .orReg d s1 c s2 => wordOf 0b111101#6 d s1 (loTri (0b01011#5 ++ BitVec.ofBool c) 0#5 s2)
  | .adduReg d s1 ci co s2 => wordOf 0b111101#6 d s1 (loTri 0b011000#6 (midLoad ci co) s2)
  | .subuReg d s1 ci co s2 => wordOf 0b111101#6 d s1 (loTri 0b011001#6 (midLoad ci co) s2)
  | .addReg d s1 ci co s2 => wordOf 0b111101#6 d s1 (loTri 0b011100#6 (midLoad ci co) s2)
  | .subReg d s1 ci co s2 => wordOf 0b111101#6 d s1 (loTri 0b011101#6 (midLoad ci co) s2)
  | .divuReg d s1 s2 => wordOf 0b111101#6 d s1 (loTri 0b011010#6 0b00000#5 s2)
  | .divuD d s1 s2 => wordOf 0b111101#6 d s1 (loTri 0b011010#6 0b01000#5 s2)
  | .muluReg d s1 s2 => wordOf 0b111101#6 d s1 (loTri 0b011011#6 0b00000#5 s2)
  | .muluD d s1 s2 => wordOf 0b111101#6 d s1 (loTri 0b011011#6 0b01000#5 s2)
  | .muls d s1 s2 => wordOf 0b111101#6 d s1 (loTri 0b011011#6 0b10000#5 s2)
  | .divsReg d s1 s2 => wordOf 0b111101#6 d s1 (loTri 0b011110#6 0b00000#5 s2)
  | .cmpReg d s1 s2 => wordOf 0b111101#6 d s1 (loTri 0b011111#6 0b00000#5 s2)
  | .clrReg d s1 s2 => wordOf 0b111101#6 d s1 (loTri 0b100000#6 0b00000#5 s2)
  | .setReg d s1 s2 => wordOf 0b111101#6 d s1 (loTri 0b100010#6 0b00000#5 s2)
  | .extReg d s1 s2 => wordOf 0b111101#6 d s1 (loTri 0b100100#6 0b00000#5 s2)
  | .extuReg d s1 s2 => wordOf 0b111101#6 d s1 (loTri 0b100110#6 0b00000#5 s2)
  | .makReg d s1 s2 => wordOf 0b111101#6 d s1 (loTri 0b101000#6 0b00000#5 s2)
  | .rotReg d s1 s2 => wordOf 0b111101#6 d s1 (loTri 0b101010#6 0b00000#5 s2)
  | .jmp n s2 => wordOf 0b111101#6 0#5 0#5 (loTri (0b11000#5 ++ BitVec.ofBool n) 0#5 s2)
  | .jsr n s2 => wordOf 0b111101#6 0#5 0#5 (loTri (0b11001#5 ++ BitVec.ofBool n) 0#5 s2)
  | .ff1 d s2 => wordOf 0b111101#6 d 0#5 (loTri 0b111010#6 0b00000#5 s2)
  | .ff0 d s2 => wordOf 0b111101#6 d 0#5 (loTri 0b111011#6 0b00000#5 s2)
  | .tbndReg s1 s2 => wordOf 0b111101#6 0#5 s1 (loTri 0b111110#6 0b00000#5 s2)
  | .tbndImm s1 imm => wordOf 0b111110#6 0#5 s1 imm
  | .rte => wordOf 0b111101#6 0#5 0#5 (loTri 0b111111#6 0#5 0#5)
  | .illop1 => wordOf 0b111101#6 0#5 0#5 (loTri 0b111111#6 0#5 1#5)
  | .illop2 => wordOf 0b111101#6 0#5 0#5 (loTri 0b111111#6 0#5 2#5)
  | .illop3 => wordOf 0b111101#6 0#5 0#5 (loTri 0b111111#6 0#5 3#5)
  | .fmul d s1 x t1 t2 td s2 => wordOf 0b100001#6 d s1 (loFp x 0b0000#4 t1.code t2.code td.code s2)
  | .fadd d s1 x t1 t2 td s2 => wordOf 0b100001#6 d s1 (loFp x 0b0101#4 t1.code t2.code td.code s2)
  | .fsub d s1 x t1 t2 td s2 => wordOf 0b100001#6 d s1 (loFp x 0b0110#4 t1.code t2.code td.code s2)
  | .fdiv d s1 x t1 t2 td s2 => wordOf 0b100001#6 d s1 (loFp x 0b1110#4 t1.code t2.code td.code s2)
  | .fcvt d x t2 td s2 => wordOf 0b100001#6 d 0#5 (loFp x 0b0001#4 0b00#2 t2.code td.code s2)
  | .fsqrt d x t2 td s2 => wordOf 0b100001#6 d 0#5 (loFp x 0b1111#4 0b00#2 t2.code td.code s2)
  | .flt d x td s2 => wordOf 0b100001#6 d 0#5 (loFp false 0b0100#4 (0#1 ++ BitVec.ofBool x) 0b00#2 td.code s2)
  | .fcmp d s1 x t1 t2 s2 => wordOf 0b100001#6 d s1 (loFp x 0b0111#4 t1.code t2.code 0b00#2 s2)
  | .fcmpu d s1 x t1 t2 s2 => wordOf 0b100001#6 d s1 (loFp x 0b0111#4 t1.code t2.code 0b01#2 s2)
  | .int d x t2 s2 => wordOf 0b100001#6 d 0#5 (loFp x 0b1001#4 0b00#2 t2.code 0b00#2 s2)
  | .nint d x t2 s2 => wordOf 0b100001#6 d 0#5 (loFp x 0b1010#4 0b00#2 t2.code 0b00#2 s2)
  | .trnc d x t2 s2 => wordOf 0b100001#6 d 0#5 (loFp x 0b1011#4 0b00#2 t2.code 0b00#2 s2)
  | .movToGrf d dbl s2 => wordOf 0b100001#6 d 0#5 (loFp true 0b1000#4 0b00#2 (0#1 ++ BitVec.ofBool dbl) 0b00#2 s2)
  | .movToXrf d dbl s2 => wordOf 0b100001#6 d 0#5 (loFp false 0b1000#4 0b01#2 (0#1 ++ BitVec.ofBool dbl) 0b00#2 s2)
  | .movXrf d s2 => wordOf 0b100001#6 d 0#5 (loFp true 0b1000#4 0b01#2 0b10#2 0b00#2 s2)
  | .pmul d s1 s2 => wordOf 0b100010#6 d s1 (loGfx 0b00000#5 0b0000#4 0b00#2 s2)
  | .padd d s1 t s2 => wordOf 0b100010#6 d s1 (loGfx 0b00100#5 0b0000#4 t.code s2)
  | .paddsU d s1 t s2 => wordOf 0b100010#6 d s1 (loGfx 0b00100#5 0b0001#4 t.code s2)
  | .paddsUs d s1 t s2 => wordOf 0b100010#6 d s1 (loGfx 0b00100#5 0b0010#4 t.code s2)
  | .paddsS d s1 t s2 => wordOf 0b100010#6 d s1 (loGfx 0b00100#5 0b0011#4 t.code s2)
  | .psub d s1 t s2 => wordOf 0b100010#6 d s1 (loGfx 0b00110#5 0b0000#4 t.code s2)
  | .psubsU d s1 t s2 => wordOf 0b100010#6 d s1 (loGfx 0b00110#5 0b0001#4 t.code s2)
  | .psubsUs d s1 t s2 => wordOf 0b100010#6 d s1 (loGfx 0b00110#5 0b0010#4 t.code s2)
  | .psubsS d s1 t s2 => wordOf 0b100010#6 d s1 (loGfx 0b00110#5 0b0011#4 t.code s2)
  | .pcmp d s1 s2 => wordOf 0b100010#6 d s1 (loGfx 0b00111#5 0b0000#4 0b11#2 s2)
  | .ppack d s1 r t s2 => wordOf 0b100010#6 d s1 (loGfx 0b01100#5 r t.code s2)
  | .punpk d s1 t => wordOf 0b100010#6 d s1 (loGfx 0b01101#5 0b0000#4 t.code 0#5)
  | .protImm d s1 r => wordOf 0b100010#6 d s1 (loGfx 0b01110#5 r 0b00#2 0#5)
  | .protReg d s1 s2 => wordOf 0b100010#6 d s1 (loGfx 0b01111#5 0b0000#4 0b00#2 s2)

/-- The bytes of an instruction in memory, the first at the lowest address (R360). -/
def encodeBytes (i : Instr) : List Byte := bytesOfWord (encode i)

end Sys2Proof
end

