-- ==== Sys2Proof/Config.lean ====
section
/-!
DEFINITION. What the spec leaves open: the free values (constants with no body, read with a counter of State, so that
nothing can be proved of one; notes/assumptions/4.md) and the parameters that the board fixes, which are plain data
(00_scope.md R8, 92_eei_decisions.md D37 to D40).
-/

namespace Sys2Proof.Config

/-- The n-th free word: a value the spec calls undefined, wherever a meaning draws one (entry 4). -/
opaque freeWord : Nat → Word

/-- The n-th free 80-bit value: the unused low bits of an extended register after a narrower write
(10_state.md R29, 93_implementation_defined.md P25). -/
opaque freeX : Nat → XWord

/-- The byte at offset i of the n-th free block: what a device answers, and the contents of an allocated cache line
(93_implementation_defined.md P21). -/
opaque freeByte : Nat → Nat → Byte

/-- The n-th free choice: the fetch space after PSR.MODE was cleared (P31), whether the TIC takes an entry
(46_flow_control.md R690). -/
opaque freeBool : Nat → Bool

/-- The n-th free number: which of several matching ATC entries is used (P15). -/
opaque freeNat : Nat → Nat

/-- How many low address bits above 19 a block of an illegal size mask leaves untranslated (P12). -/
opaque illegalBlockBits : BitVec 7 → Nat

/-- How many instructions after a write that clears PSR.MODE are fetched from an unspecified address space (P31,
MODE_SWITCH_WINDOW). -/
opaque modeSwitchWindow : Nat

/-- Whether FPSR.AFINX is set when time-critical mode delivers a default result (TCFP_SETS_AFINX, D31).
DESIGN CHOICE: the spec's default (entry 23). -/
def tcfpSetsAfinx : Bool := true

end Sys2Proof.Config

namespace Sys2Proof

/-- What answers where a region stands (MEMORY_MAP, D38). -/
inductive RegionKind where
  | memory
  /-- The board answers with a transfer error (TEA). -/
  | busError
  /-- A device the spec does not describe: what it answers to a read is free, a write changes no memory. -/
  | device
  deriving DecidableEq, Repr

/-- The transfer attributes that a region answers to (80_bus_platform.md R876, R877, R884, R920; D38); none admits every value. -/
structure AttrPattern where
  /-- R/W high. -/
  read : Option Bool
  /-- LK. -/
  lk : Option Bool
  /-- CI. -/
  ci : Option Bool
  /-- WT. -/
  wt : Option Bool
  /-- UPA1, UPA0. -/
  upa : Option (BitVec 2)
  /-- TBST. -/
  tbst : Option Bool
  /-- TSIZ1, TSIZ0. -/
  tsiz : Option (BitVec 2)
  /-- TC3 to TC0. -/
  tc : Option (BitVec 4)
  /-- INV. -/
  inv : Option Bool
  /-- MC. -/
  mc : Option Bool
  /-- GBL. -/
  gbl : Option Bool
  /-- CLINE: the way, or that the transaction drives none (R877). -/
  cline : Option (Option Bool)
  deriving DecidableEq, Repr

/-- The pattern of every transaction. -/
def AttrPattern.any : AttrPattern :=
  { read := none, lk := none, ci := none, wt := none, upa := none, tbst := none, tsiz := none, tc := none,
    inv := none, mc := none, gbl := none, cline := none }

/-- A range of physical addresses, the transactions it answers, and how. -/
structure Region where
  base : Nat
  size : Nat
  attrs : AttrPattern
  kind : RegionKind
  deriving DecidableEq, Repr

/-- What PSTAT2 to PSTAT0 report, by the value sampled on them during reset (80_bus_platform.md R905). The reserved values
100, 101 and 111 are refused: there is no such board (93_implementation_defined.md P34). -/
inductive PstatMode where
  /-- 000: instructions issued in the two slots, changes of flow. -/
  | issue
  /-- 001: stores at the top of the history buffer, stores completed. -/
  | stores
  /-- 010: conditional execution, flushes after a misprediction or an exception. -/
  | speculation
  /-- 011: bits 2 to 4 of the address fetched from the instruction cache. -/
  | fetchAddress
  /-- 110: interrupts detected and taken. -/
  | interrupts
  deriving DecidableEq, Repr

/-- The parameters a board fixes; no step changes them. -/
structure Env where
  /-- PID_VERSION, bits 7 to 1 of PID (R31). -/
  pidVersion : BitVec 7
  /-- PSTAT_MODE. It selects outputs only, which feed nothing back and which the model omits, as R905 of
  80_bus_platform.md allows (entry 48). -/
  pstatMode : PstatMode
  /-- DBUG_PIN (R62, 80_bus_platform.md R906). -/
  dbug : Bool
  /-- SHD_WIRING: the level SHD is tied to; none: the other snoopers drive it (22_caches.md R304, R305). -/
  shd : Option Bool
  /-- XMEM_LATCH: whether memory latches the old value of a store-first xmem (45_load_store.md R630). -/
  xmemLatch : Bool
  /-- The arbiter honours LK between the two halves of xmem (80_bus_platform.md R887). -/
  lockHonoured : Bool
  /-- MEMORY_MAP: the regions; the first that answers a transaction decides, and memory answers where none does. -/
  regions : List Region
  deriving DecidableEq, Repr

end Sys2Proof
end

