-- ==== Sys2Proof/Machine/State.lean ====
section
/-!
DEFINITION. The state of the MC88110 as plain data (10_state.md, 12_cache_mmu_state.md), the machine after reset
(10_state.md R65, 70_reset_and_hazards.md R800), and the reasons a step can stop.
-/

namespace Sys2Proof.Machine

/-- The exceptions of Table 7-1 (60_exceptions.md R703), reset and the error exception apart: those two are entered by
their own rules (R755, R750). -/
inductive Exc where
  /-- Vector 1 (R740). -/
  | maskableInterrupt
  /-- Vector 2 (R745). -/
  | instrAccess
  /-- Vector 3 (R746). -/
  | dataAccess
  /-- Vector 4 (R730). -/
  | misaligned
  /-- Vector 5 (R731). -/
  | unimplementedOpcode
  /-- Vector 6 (R732). -/
  | privilege
  /-- Vector 7 (R734). -/
  | bounds
  /-- Vector 8 (R735). -/
  | divideByZero
  /-- Vector 9 (R736). -/
  | integerOverflow
  /-- Vector 11 (R741). -/
  | nonmaskableInterrupt
  /-- Vector 12 (R747). -/
  | dmmuReadMiss
  /-- Vector 13 (R747). -/
  | dmmuWriteMiss
  /-- Vector 14 (R747). -/
  | immuMiss
  /-- Vector 114 (R748). -/
  | sfu1
  /-- Vector 116 (R749). -/
  | sfu2
  /-- Vector 118 (R749). -/
  | sfu3
  /-- Vector 120 (R749). -/
  | sfu4
  /-- Vector 122 (R749). -/
  | sfu5
  /-- Vector 124 (R749). -/
  | sfu6
  /-- Vector 126 (R749). -/
  | sfu7
  /-- A trap instruction's vector VEC9 (R733). -/
  | trap (vec : BitVec 9)
  deriving DecidableEq, Repr

/-- The four states of a data cache line (22_caches.md R300). -/
inductive LineState where
  | invalid
  | sharedUnmodified
  | exclusiveUnmodified
  | exclusiveModified
  deriving DecidableEq, Repr

/-- A block descriptor of a BATC: the 32 port bits and U1, U0 (12_cache_mmu_state.md R102, R114). -/
structure BatcEntry where
  port : Word
  user : BitVec 2
  deriving DecidableEq, Repr

/-- A page descriptor of a PATC, upper and lower word (R104, R115). -/
structure PatcEntry where
  upper : Word
  lower : Word
  deriving DecidableEq, Repr

/-- A data breakpoint register (R116). -/
structure Breakpoint where
  lba : Word
  control : Word
  deriving DecidableEq, Repr

/-- One memory management unit: its ten registers and two translation caches (R94 to R109, R114, R115). -/
structure Mmu where
  /-- ICTL or DCTL (R94, R95). -/
  ctl : Word
  /-- ISAR or DSAR (R96, R97). -/
  sar : Word
  /-- ISAP or DSAP, the supervisor area pointer (R98, R99). -/
  sap : Word
  /-- IUAP or DUAP, the user area pointer (R98, R99). -/
  uap : Word
  /-- IIR or DIR (R100, R101). -/
  ir : Word
  /-- IPPU or DPPU, the buffered upper word (R104, R105, R118). -/
  ppu : Word
  /-- IPPL or DPPL, the buffered lower word (R104, R105, R118). -/
  ppl : Word
  /-- ISR or DSR (R106, R107). -/
  status : Word
  /-- ILAR or DLAR (R108, R109). -/
  lar : Word
  /-- IPAR or DPAR (R108, R109). -/
  par : Word
  /-- The block address translation cache (R114). -/
  batc : Vector BatcEntry 8
  /-- The page address translation cache (R115). -/
  patc : Vector PatcEntry 32
  /-- The PATC entry the next table search replaces (R115). -/
  fifo : Fin 32
  deriving DecidableEq, Repr

/-- A line of the instruction cache (R110). -/
structure ILine where
  tag : BitVec 20
  valid : Bool
  data : Vector Byte 32
  deriving DecidableEq, Repr

/-- A line of the data cache (R111). -/
structure DLine where
  tag : BitVec 20
  state : LineState
  data : Vector Byte 32
  deriving DecidableEq, Repr

/-- An entry of the target instruction cache: the S/U bit and the branch's upper 30 address bits, and the two words at
its target (R117). -/
structure TicEntry where
  valid : Bool
  tag : BitVec 31
  first : Word
  second : Word
  deriving DecidableEq, Repr

/-- A TIC entry that waits for its target to be fetched; wait holds while the delay slot comes first
(46_flow_control.md R690). -/
structure TicFill where
  tag : BitVec 31
  target : Word
  wait : Bool
  deriving DecidableEq, Repr

/-- One bus transaction with its attributes (80_bus_platform.md R876, R877, R884, R920). True is asserted. -/
structure BusTxn where
  /-- A31 to A0. -/
  addr : Word
  /-- R/W high. -/
  read : Bool
  /-- LK. -/
  lk : Bool
  /-- CI. -/
  ci : Bool
  /-- WT. -/
  wt : Bool
  /-- UPA1, UPA0. -/
  upa : BitVec 2
  /-- TBST. -/
  tbst : Bool
  /-- TSIZ1, TSIZ0 (R876). -/
  tsiz : BitVec 2
  /-- TC3 to TC0 (R884). -/
  tc : BitVec 4
  /-- INV. -/
  inv : Bool
  /-- MC: a data transfer takes place. -/
  mc : Bool
  /-- GBL. -/
  gbl : Bool
  /-- CLINE, where it is valid. -/
  cline : Option Bool
  /-- The transaction ended with TEA (R914), or was cut short. -/
  error : Bool
  /-- The bytes a write put on the bus. -/
  data : List Byte
  deriving DecidableEq, Repr

/-- What cuts a bus transaction short after some of its beats: RST, which abandons it (80_bus_platform.md R908), or,
without reset, a slave that never answers (R910, 93_implementation_defined.md P33). -/
structure Cut where
  beats : Nat
  reset : Bool
  deriving DecidableEq, Repr

/-- Another master's bus transaction (80_bus_platform.md R892, R920). -/
structure Snoop where
  addr : Word
  /-- SR and GBL are both asserted, so the data cache may snoop it. -/
  global : Bool
  read : Bool
  inv : Bool
  burst : Bool
  /-- The bytes the master writes at addr and up; none for a read. -/
  data : List Byte
  /-- The snoop copyback that the transaction calls for is ended by a retry after that many beats (R896, R912). -/
  retry : Option Nat
  /-- That copyback is cut short. -/
  cut : Option Cut
  deriving DecidableEq, Repr

/-- What the bus brings to one transaction of the processor, beside the answer of the memory map. -/
structure BusEnd where
  /-- The level of SHD, where the board does not tie it (R894). -/
  shd : Bool
  /-- Other masters' transactions that the processor snoops while its own is outstanding (R895, R896). -/
  during : List Snoop
  /-- A transfer retry ends a read burst after that many beats, 1 to 3 (R912; a retry of the first beat is a repetition
  that leaves no trace). -/
  retry : Option Nat
  /-- The transaction is cut short. -/
  cut : Option Cut
  deriving DecidableEq, Repr

/-- Where a path that is fetched ahead goes on behind one of its words, when the word does not say it: whether a
conditional branch is followed, and the address in a jump's register (46_flow_control.md R668). -/
structure Turn where
  taken : Bool
  target : Word
  deriving DecidableEq, Repr

/-- What a load behind an instruction that takes an exception reads: an operand of 2^k bytes, or a line for the touch
load (60_exceptions.md R713). -/
inductive WaivedForm where
  | operand (k : Fin 5)
  | touch
  deriving DecidableEq, Repr

/-- A load behind an instruction that takes an exception: its access is made, its result waived (60_exceptions.md R713,
93_implementation_defined.md P30). -/
structure WaivedLoad where
  form : WaivedForm
  /-- The effective address. -/
  addr : Word
  usr : Bool
  deriving DecidableEq, Repr

/-- What is left to time and to the outside inside the coming instructions; empty lists mean that nothing happens. -/
structure Script where
  /-- What other masters do before each of the coming accesses of the processor (R888, R920). -/
  between : List (List Snoop)
  /-- How each of the coming bus transactions of the processor ends. -/
  ends : List BusEnd
  /-- How many words each of the coming steps prefetches (20_memory.md R197). -/
  ahead : List Nat
  /-- The words that are fetched along the predicted path of each coming branch that is predicted wrongly, one turn for
  each word (46_flow_control.md R668, 70_reset_and_hazards.md R808). -/
  guesses : List (List Turn)
  /-- The loads behind each coming instruction that takes an exception, or behind an interrupt, that have had their access
  (60_exceptions.md R713): SPECULATIVE_LOAD_READS of 93_implementation_defined.md P30. -/
  waived : List (List WaivedLoad)
  deriving DecidableEq, Repr

/-- The script in which nothing happens. -/
def Script.idle : Script := ⟨[], [], [], [], []⟩

/-- A prefetched instruction word and its logical address (20_memory.md R197). -/
structure Prefetched where
  addr : Word
  word : Word
  deriving DecidableEq, Repr

/-- What a step had done outside the registers when RST or a slave that never answers cut it short; nothing that the
step does afterwards counts (R908, R910). -/
structure Halt where
  reset : Bool
  icache : Vector ILine 256
  dcache : Vector DLine 256
  tic : Vector TicEntry 32
  mem : List Host.Cell
  busLog : List BusTxn
  script : Script
  draws : Nat
  deriving DecidableEq, Repr

/-- What the outside does at the boundary before a step (80_bus_platform.md R892, R907, R908). -/
inductive Input where
  /-- The INT pin's level. -/
  | int (asserted : Bool)
  /-- The NMI pin's level; a change to asserted is the falling edge. -/
  | nmi (asserted : Bool)
  /-- RST is asserted and negated again. -/
  | reset
  /-- Another master's transaction. -/
  | bus (t : Snoop)
  deriving DecidableEq, Repr

/-- The machine (INVENTORY.md lists every field with its rule). -/
structure State where
  /-- r0 to r31; slot 0 is never read or written (10_state.md R21, R22). -/
  gpr : Vector Word 32
  /-- x0 to x31; slot 0 is never read or written (R27, R28). -/
  xrf : Vector XWord 32
  /-- The executing instruction pointer (R26). -/
  xip : Word
  /-- The next instruction pointer (R26). -/
  nip : Word
  /-- The instruction at xip is in a delay slot (46_flow_control.md R661). -/
  ds : Bool
  /-- cr1 (R33). -/
  psr : Word
  /-- cr2 (R46). -/
  epsr : Word
  /-- cr4 (R47). -/
  exip : Word
  /-- cr5 (R48). -/
  enip : Word
  /-- cr7 (R49). -/
  vbr : Word
  /-- cr16 (R50). -/
  sr0 : Word
  /-- cr17 (R50). -/
  sr1 : Word
  /-- cr18 (R50). -/
  sr2 : Word
  /-- cr19 (R50). -/
  sr3 : Word
  /-- cr20 (R50). -/
  sr4 : Word
  /-- fcr0 (R54). -/
  fpecr : Word
  /-- fcr62 (R56). -/
  fpsr : Word
  /-- fcr63 (R55). -/
  fpcr : Word
  /-- The instruction MMU, cr26 to cr36. -/
  imu : Mmu
  /-- The data MMU, cr41 to cr51. -/
  dmu : Mmu
  /-- Data breakpoint register 0 (12_cache_mmu_state.md R116). -/
  bp0 : Breakpoint
  /-- Data breakpoint register 1 (R116). -/
  bp1 : Breakpoint
  /-- The instruction cache: line w of set n is entry 2n + w (R110, R112). -/
  icache : Vector ILine 256
  /-- The data cache: line w of set n is entry 2n + w (R111, R112). -/
  dcache : Vector DLine 256
  /-- The instruction cache's replacement-bias bit (R113). -/
  ibias : Bool
  /-- The data cache's replacement-bias bit (R113). -/
  dbias : Bool
  /-- The target instruction cache (R117). -/
  tic : Vector TicEntry 32
  /-- The TIC entry that was filled least recently, the next to be replaced (46_flow_control.md R690). -/
  ticFifo : Fin 32
  /-- How the coming fetches are answered: by a word of the TIC, or by a normal fetch (R690). -/
  ticSupply : List (Option Word)
  /-- The TIC entry that waits for its target's words (R690). -/
  ticFill : Option TicFill
  /-- The INT pin is asserted (60_exceptions.md R740). -/
  intPin : Bool
  /-- The NMI pin is asserted (R741). -/
  nmiPin : Bool
  /-- A falling edge of NMI is latched (R741). -/
  nmiPending : Bool
  /-- The instruction words that were prefetched, the next first (20_memory.md R197). -/
  prefetched : List Prefetched
  /-- How many coming instructions have an unspecified fetch space (70_reset_and_hazards.md R830). -/
  modeWindow : Nat
  /-- The machine waits for RST: the error vector cannot be fetched (60_exceptions.md R751), or a transaction of the
  processor never ends (80_bus_platform.md R910). -/
  stuck : Bool
  /-- The external memory, in canonical form (20_memory.md R171). -/
  mem : List Host.Cell
  /-- The board's parameters. -/
  env : Env
  /-- The model's own: how many free values were drawn. -/
  draws : Nat
  /-- The model's own: the exception the last step took (60_exceptions.md R706 needs it). -/
  lastExc : Option Exc
  /-- The model's own: the bus transactions, the latest first. -/
  busLog : List BusTxn
  /-- The model's own: what the outside does before each of the coming steps. -/
  inputs : List (List Input)
  /-- The model's own: what happens inside the coming instructions. -/
  script : Script
  /-- The model's own: the step was cut short by RST or by a transaction that never ends (R908, R910); none between
  steps. -/
  halted : Option Halt
  /-- The model's own: the address of a snoop copyback that ended with TEA, whose exception is to be taken (R317). -/
  snoopFault : Option Word
  deriving DecidableEq, Repr

/-- Why a step stops for good. -/
inductive Fault where
  /-- An access through IPPU, IPPL, DPPU or DPPL names a PATC entry that does not exist (12_cache_mmu_state.md R101,
  93_implementation_defined.md P14: "may result in unexpected PATC behavior", treatment refuse). Raised by ldcr, stcr
  and xcr on those ports. Safe: the hardware goes on, the model stops. -/
  | unimplementedAtcIndex
  deriving DecidableEq, Repr

/-- Why a step has no answer. -/
inductive Refusal where
  /-- The instruction has no meaning in the model yet; raised by its arm of exec only. Safe. -/
  | notModelled (mnemonic : String)
  deriving DecidableEq, Repr

/-- A memory management unit after reset: the control register has HTEN only, everything else is the model's value
(12_cache_mmu_state.md R119, entries 1 and 2). -/
def Mmu.reset : Mmu where
  ctl := 0x00000040#32
  sar := 0#32
  sap := 0#32
  uap := 0#32
  ir := 0#32
  ppu := 0#32
  ppl := 0#32
  status := 0#32
  lar := 0#32
  par := 0#32
  batc := Vector.replicate 8 ⟨0#32, 0#2⟩
  patc := Vector.replicate 32 ⟨0#32, 0#32⟩
  fifo := 0

/-- The board of the model: everything is RAM, nothing is strapped, LK is honoured (entry 28). -/
def Env.default : Env where
  pidVersion := 0#7
  pstatMode := .issue
  dbug := false
  shd := none
  xmemLatch := false
  lockHonoured := true
  regions := []

/-- The machine right after reset (10_state.md R65, 70_reset_and_hazards.md R800); the values the spec does not give are
the model's (entries 1 and 2). -/
def State.reset : State where
  gpr := Vector.replicate 32 0#32
  xrf := Vector.replicate 32 0#80
  xip := 0x00000000#32
  nip := 0x00000004#32
  ds := false
  psr := 0xA20003FF#32
  epsr := 0x000003E0#32
  exip := 0#32
  enip := 0#32
  vbr := 0#32
  sr0 := 0#32
  sr1 := 0#32
  sr2 := 0#32
  sr3 := 0#32
  sr4 := 0#32
  fpecr := 0#32
  fpsr := 0#32
  fpcr := 0#32
  imu := Mmu.reset
  dmu := Mmu.reset
  bp0 := ⟨0#32, 0#32⟩
  bp1 := ⟨0#32, 0#32⟩
  icache := Vector.replicate 256 ⟨0#20, false, Vector.replicate 32 0#8⟩
  dcache := Vector.replicate 256 ⟨0#20, .invalid, Vector.replicate 32 0#8⟩
  ibias := false
  dbias := false
  tic := Vector.replicate 32 ⟨false, 0#31, 0#32, 0#32⟩
  ticFifo := 0
  ticSupply := []
  ticFill := none
  intPin := false
  nmiPin := false
  nmiPending := false
  prefetched := []
  modeWindow := 0
  stuck := false
  mem := []
  env := Env.default
  draws := 0
  lastExc := none
  busLog := []
  inputs := []
  script := Script.idle
  halted := none
  snoopFault := none

/-- What a part of an instruction gives: a value and the state to go on with, an exception to take in a state that
holds its detail registers, or a stop. -/
inductive Res (α : Type) where
  | ok (a : α) (s : State)
  | trap (e : Exc) (s : State)
  | stop (f : Fault)

/-- What IPAR or DPAR receives with a fault (12_cache_mmu_state.md R108, R109; 21_mmu.md R265). -/
inductive ParValue where
  /-- A physical address. -/
  | exact (a : Word)
  /-- A physical address whose bits 4 to 0 are undefined. -/
  | lineOf (a : Word)
  /-- Undefined. -/
  | undefined
  /-- Not written (the ATC miss exceptions). -/
  | unchanged
  deriving DecidableEq, Repr

/-- A fault of a memory unit, before it is recorded: the exception, the status bits it sets, the fault address,
whether ILAR or DLAR receives the access's address, and whether the faulted access was a write (21_mmu.md R265). -/
structure MemFault where
  exc : Exc
  bits : Word
  par : ParValue
  larKnown : Bool
  write : Bool
  deriving DecidableEq, Repr

/-- The attributes of a translation (21_mmu.md R222). -/
structure Attr where
  /-- Write-through. -/
  wt : Bool
  /-- Global. -/
  g : Bool
  /-- Cache inhibited. -/
  ci : Bool
  /-- Write protected. -/
  wp : Bool
  /-- U1, U0. -/
  user : BitVec 2
  deriving DecidableEq, Repr

/-- A translated access: the physical address and its attributes (R222). -/
structure Xlate where
  pa : Word
  attr : Attr
  deriving DecidableEq, Repr

/-- The two memory units: the instruction side and the data side (R220). -/
inductive Side where
  | instr
  | data
  deriving DecidableEq, Repr

/-- What a memory operation gives: a value, or a fault that the caller records or drops. -/
inductive MRes (α : Type) where
  | ok (a : α) (s : State)
  | fail (f : MemFault) (s : State)

end Sys2Proof.Machine
end

