-- ==== Sys2Proof/Machine/Ops.lean ====
section
/-!
DEFINITION. The operations every meaning shares: registers and register pairs, the fields and the write rule of PSR,
free values, sequencing (46_flow_control.md R661), taking an exception (60_exceptions.md R720, R750) and returning
from one (R686).
-/

namespace Sys2Proof.Machine

/-! ### Registers -/

/-- r[d]; r0 reads zero (10_state.md R22). -/
def readReg (s : State) (d : RegNum) : Word :=
  if d = 0#5 then 0#32 else s.gpr[d.toNat]'d.isLt

/-- r[d] <- v; a write to r0 is discarded (R22). -/
def writeReg (s : State) (d : RegNum) (v : Word) : State :=
  if d = 0#5 then s else { s with gpr := s.gpr.set d.toNat v d.isLt }

/-- A register number that cannot name a pair (R24). -/
def oddReg (d : RegNum) : Bool := d.getLsbD 0

/-- r[d]:r[d+1], the even register the higher word (R24). -/
def readPair (s : State) (d : RegNum) : DWord := readReg s d ++ readReg s (d + 1#5)

/-- r[d]:r[d+1] <- v (R24). -/
def writePair (s : State) (d : RegNum) (v : DWord) : State :=
  writeReg (writeReg s d (v.extractLsb' 32 32)) (d + 1#5) (v.extractLsb' 0 32)

/-- x[d]; x0 reads positive zero (R28). -/
def readX (s : State) (d : RegNum) : XWord :=
  if d = 0#5 then 0#80 else s.xrf[d.toNat]'d.isLt

/-- x[d] <- v; a write to x0 is discarded (R28), any other sets FPSR.XMOD (92_eei_decisions.md D9). -/
def writeX (s : State) (d : RegNum) (v : XWord) : State :=
  if d = 0#5 then s
  else { s with xrf := s.xrf.set d.toNat v d.isLt, fpsr := s.fpsr ||| 0x00010000#32 }

/-! ### Free values -/

/-- The counter of the free values moves on by one. -/
def drawn (s : State) : State := { s with draws := s.draws + 1 }

/-- x[d] <- v with v left justified in n bits and the low 80 - n bits undefined (R29, P25). -/
def writeXNarrow (s : State) (d : RegNum) (low : XWord) (v : XWord) : State :=
  if d = 0#5 then s else writeX (drawn s) d (v ||| (Config.freeX s.draws &&& low))

/-- x[d] <- a single-precision value; bits 47 to 0 are undefined (45_load_store.md R606). -/
def writeXSingle (s : State) (d : RegNum) (v : Word) : State :=
  writeXNarrow s d 0x00000000FFFFFFFFFFFF#80 (v ++ 0#48)

/-- x[d] <- a double-precision value; bits 15 to 0 are undefined (R606). -/
def writeXDouble (s : State) (d : RegNum) (v : DWord) : State :=
  writeXNarrow s d 0x0000000000000000FFFF#80 (v ++ 0#16)

/-! ### The processor status register (10_state.md R33) -/

/-- PSR.MODE, bit 31: supervisor. -/
def psrMode (s : State) : Bool := s.psr.getLsbD 31
/-- PSR.BO, bit 30: little-endian data. -/
def psrBo (s : State) : Bool := s.psr.getLsbD 30
/-- PSR.C, bit 28. -/
def psrCarry (s : State) : Bool := s.psr.getLsbD 28
/-- PSR.SGN, bit 26: signed immediates. -/
def psrSgn (s : State) : Bool := s.psr.getLsbD 26
/-- PSR.SRM, bit 25: loads and stores are serialized. -/
def psrSrm (s : State) : Bool := s.psr.getLsbD 25
/-- PSR.SFD2, bit 4: graphics unit disabled. -/
def psrSfd2 (s : State) : Bool := s.psr.getLsbD 4
/-- PSR.SFD1, bit 3: floating-point unit disabled. -/
def psrSfd1 (s : State) : Bool := s.psr.getLsbD 3
/-- PSR.MXM, bit 2: misaligned access exception masked. -/
def psrMxm (s : State) : Bool := s.psr.getLsbD 2
/-- PSR.IND, bit 1: INT disabled. -/
def psrInd (s : State) : Bool := s.psr.getLsbD 1
/-- PSR.EFRZ, bit 0: exception-time registers frozen. -/
def psrEfrz (s : State) : Bool := s.psr.getLsbD 0

/-- What PSR or EPSR holds after v is written: reserved bits 0, bits 9 to 5 one (R33, R34, R44, D5). -/
def psrLegal (v : Word) : Word := (v &&& 0xF600001F#32) ||| 0x000003E0#32

/-- PSR.C <- c. -/
def setCarry (s : State) (c : Bool) : State :=
  { s with psr := if c then s.psr ||| 0x10000000#32 else s.psr &&& 0xEFFFFFFF#32 }

/-! ### Sequencing (46_flow_control.md R661) -/

/-- Fallthrough: the next instruction in execution order. -/
def advance (s : State) : State := { s with xip := s.nip, nip := s.nip + 4#32, ds := false }

/-- A branch taken to t; with n the next instruction executes first, as its delay slot. -/
def branchTo (s : State) (n : Bool) (t : Word) : State :=
  if n then { s with xip := s.nip, nip := t, ds := true }
  else { s with xip := t, nip := t + 4#32, ds := false }

/-- A conditional branch not taken; with n the next instruction is a delay-slot instruction all the same (D29). -/
def branchNotTaken (s : State) (n : Bool) : State :=
  { s with xip := s.nip, nip := s.nip + 4#32, ds := n }

/-! ### Exceptions -/

/-- The exception number (60_exceptions.md R703). -/
def vectorOf : Exc → BitVec 9
  | .maskableInterrupt => 1#9
  | .instrAccess => 2#9
  | .dataAccess => 3#9
  | .misaligned => 4#9
  | .unimplementedOpcode => 5#9
  | .privilege => 6#9
  | .bounds => 7#9
  | .divideByZero => 8#9
  | .integerOverflow => 9#9
  | .nonmaskableInterrupt => 11#9
  | .dmmuReadMiss => 12#9
  | .dmmuWriteMiss => 13#9
  | .immuMiss => 14#9
  | .sfu1 => 114#9
  | .sfu2 => 116#9
  | .sfu3 => 118#9
  | .sfu4 => 120#9
  | .sfu5 => 122#9
  | .sfu6 => 124#9
  | .sfu7 => 126#9
  | .trap vec => vec

/-- The number of the error exception (R750). -/
def errorVector : BitVec 9 := 10#9

/-- The address of vector n (R701). -/
def vectorAddress (s : State) (n : BitVec 9) : Word :=
  (s.vbr &&& 0xFFFFF000#32) ||| (n.setWidth 32 <<< 3)

/-- EXIP as an exception writes it: the address of the instruction, D in bit 0 (R720; P3: EXIP_D_BIT is 0). -/
def exipOf (s : State) : Word := (s.xip &&& 0xFFFFFFFC#32) ||| (if s.ds then 1#32 else 0#32)

/-- Taking exception e: R720 when PSR.EFRZ is 0, the error exception of R750 when it is 1. Neither the TIC's pending
supply nor a prefetched word survives it (20_memory.md R197). -/
def takeException (e : Exc) (s : State) : State :=
  let t := vectorAddress s (if psrEfrz s then errorVector else vectorOf e)
  { s with
    exip := if psrEfrz s then s.exip else exipOf s
    enip := if psrEfrz s then s.enip else if s.ds then s.nip else s.enip
    epsr := if psrEfrz s then s.epsr else s.psr
    psr := s.psr ||| 0x8000001B#32
    xip := t
    nip := t + 4#32
    ds := false
    ticSupply := []
    ticFill := none
    prefetched := []
    modeWindow := 0
    lastExc := some e }

/-- EXIP.D (10_state.md R47). -/
def exipD (s : State) : Bool := s.exip.getLsbD 0

/-- The return from exception of rte (46_flow_control.md R686). -/
def returnFromException (s : State) : State :=
  let t := s.exip &&& 0xFFFFFFFC#32
  { s with
    psr := psrLegal s.epsr
    xip := t
    nip := if exipD s then s.enip &&& 0xFFFFFFFC#32 else t + 4#32
    ds := exipD s
    ticSupply := []
    ticFill := none
    prefetched := []
    modeWindow := 0 }

/-! ### Ends of a meaning -/

/-- The instruction completes and the next one follows it. -/
def done (s : State) : Host.Outcome State Fault Refusal := .next (advance s)

/-- The instruction writes one general register and completes. -/
def result (d : RegNum) (v : Word) (s : State) : Host.Outcome State Fault Refusal := done (writeReg s d v)

/-- The instruction raises e instead of completing. -/
def raise (e : Exc) (s : State) : Host.Outcome State Fault Refusal := .next (takeException e s)

/-- FPECR with exactly the causes given (10_state.md R54, D8). -/
def setFpecr (s : State) (causes : Word) : State := { s with fpecr := causes &&& 0xFF#32 }

/-- FPECR with FUNIMP set: the other seven bits are undefined (R54, P27). -/
def setFunimp (s : State) : State :=
  { s with fpecr := 0x40#32 ||| (Config.freeWord s.draws &&& 0xBF#32), draws := s.draws + 1 }

/-- The SFU1 exception with FPECR.FUNIMP (30_encoding.md R364). -/
def raiseFunimp (s : State) : Host.Outcome State Fault Refusal := raise .sfu1 (setFunimp s)

/-- The end of a meaning that may trap or stop. -/
def finish : Res Unit → Host.Outcome State Fault Refusal
  | .ok _ s => done s
  | .trap e s => raise e s
  | .stop f => .fault f

/-- The exception of a reserved encoding, by opcode space (30_encoding.md R364). -/
def raiseReserved (space : OpcodeSpace) (s : State) : Host.Outcome State Fault Refusal :=
  match space with
  | .base => raise .unimplementedOpcode s
  | .sfu1 => raiseFunimp s
  | .sfu2 => raise .sfu2 s
  | .sfu3 => raise .sfu3 s
  | .sfu4 => raise .sfu4 s
  | .sfu5 => raise .sfu5 s
  | .sfu6 => raise .sfu6 s
  | .sfu7 => raise .sfu7 s

end Sys2Proof.Machine
end

