-- ==== Sys2Proof/Machine/Memory.lean ====
section
/-!
DEFINITION. External memory: the bytes in their canonical form, what answers a transaction at an address (20_memory.md
R171, 92_eei_decisions.md D38), and the attributes and beats of transactions (80_bus_platform.md R876 to R891). How a
transaction runs is Machine/Bus.lean's.
-/

namespace Sys2Proof.Machine

/-! ### Bytes of memory -/

/-- What a byte of memory that nothing has written reads as. DESIGN CHOICE (entry 3). -/
def Memory.unlisted : Byte := 0#8

/-- The byte at address a. -/
def Memory.read : List Host.Cell → Nat → Byte
  | [], _ => Memory.unlisted
  | (k, b) :: m, a => if k = a then b else Memory.read m a

/-- The memory with byte v at address a, in canonical form. -/
def Memory.write : List Host.Cell → Nat → Byte → List Host.Cell
  | [], a, v => if v = Memory.unlisted then [] else [(a, v)]
  | (k, b) :: m, a, v =>
    if a < k then (if v = Memory.unlisted then (k, b) :: m else (a, v) :: (k, b) :: m)
    else if a = k then (if v = Memory.unlisted then m else (a, v) :: m)
    else (k, b) :: Memory.write m a v

/-- Canonical form from address lo up: addresses rise strictly below 2^32, no entry equals an unlisted byte. -/
def Memory.wfFrom (lo : Nat) : List Host.Cell → Bool
  | [] => true
  | (k, b) :: m => decide (lo ≤ k) && decide (k < 4294967296) && (b != Memory.unlisted) && Memory.wfFrom (k + 1) m

/-- Canonical form. -/
def Memory.wf (m : List Host.Cell) : Bool := Memory.wfFrom 0 m

/-- The byte of external memory at physical address a. -/
def readByte (s : State) (a : Word) : Byte := Memory.read s.mem a.toNat

/-- The state with byte v at physical address a. -/
def writeByte (s : State) (a : Word) (v : Byte) : State := { s with mem := Memory.write s.mem a.toNat v }

/-- The n bytes at a and up, lowest address first. -/
def readBytes (s : State) (a : Word) : Nat → List Byte
  | 0 => []
  | n + 1 => readByte s a :: readBytes s (a + 1#32) n

/-- The state with the bytes stored at a and up, lowest address first. -/
def writeBytes (s : State) (a : Word) : List Byte → State
  | [] => s
  | b :: bs => writeBytes (writeByte s a b) (a + 1#32) bs

/-- The big-endian word at a (20_memory.md R175, 21_mmu.md R255). -/
def readWordBE (s : State) (a : Word) : Word :=
  readByte s a ++ readByte s (a + 1#32) ++ readByte s (a + 2#32) ++ readByte s (a + 3#32)

/-! ### The memory map -/

/-- A transaction's attributes are those the pattern admits. -/
def attrsAdmit (p : AttrPattern) (t : BusTxn) : Bool :=
  p.read.all (· == t.read) && p.lk.all (· == t.lk) && p.ci.all (· == t.ci) && p.wt.all (· == t.wt)
    && p.upa.all (· == t.upa) && p.tbst.all (· == t.tbst) && p.tsiz.all (· == t.tsiz) && p.tc.all (· == t.tc)
    && p.inv.all (· == t.inv) && p.mc.all (· == t.mc) && p.gbl.all (· == t.gbl) && p.cline.all (· == t.cline)

/-- The region covers the address. -/
def regionCovers (r : Region) (a : Word) : Bool := decide (r.base ≤ a.toNat) && decide (a.toNat < r.base + r.size)

/-- What answers transaction t at address a: the first region that covers the address and admits the attributes, else
memory (D38). -/
def answerAt (s : State) (t : BusTxn) (a : Word) : RegionKind :=
  match s.env.regions.find? fun r => regionCovers r a && attrsAdmit r.attrs t with
  | some r => r.kind
  | none => .memory

/-- Memory alone answers at a, whatever the attributes. -/
def plainAt (s : State) (a : Word) : Bool := s.env.regions.all fun r => !regionCovers r a

/-- Transaction t ends with TEA at address a. -/
def failsAt (s : State) (t : BusTxn) (a : Word) : Bool := answerAt s t a == .busError

/-- A device answers transaction t at address a. -/
def deviceAt (s : State) (t : BusTxn) (a : Word) : Bool := answerAt s t a == .device

/-! ### Attributes -/

/-- TSIZ1, TSIZ0 of a single-beat transaction of n bytes (R876). -/
def tsizOf (n : Nat) : BitVec 2 :=
  if n = 1 then 3#2 else if n = 2 then 2#2 else if n = 4 then 1#2 else 0#2

/-- TC3 to TC0 of a data access (R884). -/
def tcData (su : Bool) : BitVec 4 := if su then 0b0101#4 else 0b0001#4
/-- TC3 to TC0 of a touch, flush or allocate access. -/
def tcCacheControl (su : Bool) : BitVec 4 := if su then 0b0110#4 else 0b0010#4
/-- TC3 to TC0 of an instruction access. -/
def tcCode (su : Bool) : BitVec 4 := if su then 0b1101#4 else 0b1001#4
/-- TC3 to TC0 of a data MMU table search. -/
def tcDataSearch : BitVec 4 := 0b0011#4
/-- TC3 to TC0 of an instruction MMU table search. -/
def tcCodeSearch : BitVec 4 := 0b1011#4
/-- TC3 to TC0 of a snoop copyback. -/
def tcSnoop : BitVec 4 := 0b0111#4

/-- A transaction with every attribute negated. -/
def plainTxn (a : Word) (tc : BitVec 4) : BusTxn :=
  { addr := a, read := false, lk := false, ci := false, wt := false, upa := 0#2, tbst := false, tsiz := 0#2,
    tc := tc, inv := false, mc := true, gbl := false, cline := none, error := false, data := [] }

/-- A burst write of a line: replacement, flush or snoop copyback, or flush load, by transfer code and size code
(R882). -/
def copybackTxn (a : Word) (tc : BitVec 4) (tsiz : BitVec 2) (way : Bool) : BusTxn :=
  { plainTxn a tc with tbst := true, tsiz := tsiz, inv := true, cline := some way }

/-! ### Beats -/

/-- A transaction joins the log. -/
def logTxn (s : State) (t : BusTxn) : State := { s with busLog := t :: s.busLog }

/-- The n bytes at a that answer transaction t at its address: memory's, or a device's, which are free. -/
def answerBytes (s : State) (t : BusTxn) (a : Word) (n : Nat) : List Byte :=
  if deviceAt s t t.addr then (List.range n).map (Config.freeByte s.draws) else readBytes s a n

/-- The counter after an answer: a device's answer draws. -/
def afterAnswer (s : State) (t : BusTxn) : State := if deviceAt s t t.addr then drawn s else s

/-- The address of a 32-byte line (22_caches.md R292). -/
def lineAddr (a : Word) : Word := a &&& 0xFFFFFFE0#32

/-- The address of double word j of a line, at which the memory map is asked for its beat (entry 64). -/
def beatAddr (line : Word) (j : Nat) : Word := line + BitVec.ofNat 32 (8 * j)

/-- The order of a burst's double words from the critical one, k = A4, A3 (80_bus_platform.md R883). -/
def beatOrder (a : Word) : List Nat :=
  let k := (a.extractLsb' 3 2).toNat
  [k % 4, (k + 1) % 4, (k + 2) % 4, (k + 3) % 4]

/-- How many beats of a burst, in the order given, come before the first that ends with TEA. -/
def goodBeats (s : State) (t : BusTxn) : List Nat → Nat
  | [] => 0
  | j :: js => if failsAt s t (beatAddr (lineAddr t.addr) j) then 0 else goodBeats s t js + 1

/-- A device answers some beat of the burst. -/
def burstDevice (s : State) (t : BusTxn) : Bool :=
  (beatOrder t.addr).any fun j => deviceAt s t (beatAddr (lineAddr t.addr) j)

/-- The 32 bytes of the line of a burst read. -/
def burstData (s : State) (t : BusTxn) : Vector Byte 32 :=
  Vector.ofFn fun i =>
    if deviceAt s t (beatAddr (lineAddr t.addr) (i.val / 8)) then Config.freeByte s.draws i.val
    else readByte s (lineAddr t.addr + BitVec.ofNat 32 i.val)

/-- Bytes off to off + n - 1 of a line. -/
def lineBytes (d : Vector Byte 32) (off n : Nat) : List Byte := (d.toList.drop off).take n

/-- The beats of a burst write in order, until one ends with TEA; the beats before it have been accepted (R910). -/
def burstWriteBeats (s : State) (t : BusTxn) (d : Vector Byte 32) : List Nat → Bool × State
  | [] => (true, s)
  | j :: js =>
    let a := beatAddr (lineAddr t.addr) j
    if failsAt s t a then (false, s)
    else burstWriteBeats (if deviceAt s t a then s else writeBytes s a (lineBytes d (8 * j) 8)) t d js

end Sys2Proof.Machine
end

