-- ==== Sys2Proof/Machine/Bus.lean ====
section
/-!
DEFINITION. The bus: the lines of the data cache and how they are looked up (22_caches.md R292, R293), snooping
(80_bus_platform.md R892 to R896, 22_caches.md R313 to R317), and the processor's transactions, each of which may end
normally, with an error, with a retry, by a reset or not at all (R908 to R914, R920). Other masters act before an access
and while a transaction is outstanding, as State.script says.
-/

namespace Sys2Proof.Machine

/-! ### Lines of the data cache -/

/-- The place of line way of the set of address a: entry 2 * set + way (12_cache_mmu_state.md R112). -/
def lineIndex (a : Word) (way : Bool) : BitVec 8 := (a.extractLsb' 5 7) ++ BitVec.ofBool way

/-- The tag of a physical address, bits 31 to 12. -/
def tagOf (a : Word) : BitVec 20 := a.extractLsb' 12 20

/-- The byte offset of an address in its line. -/
def lineOffset (a : Word) : Nat := (a.extractLsb' 0 5).toNat

/-- A line of the data cache. -/
def dLine (s : State) (a : Word) (way : Bool) : DLine := s.dcache[(lineIndex a way).toNat]'(lineIndex a way).isLt

/-- A line of the data cache replaced. -/
def setDLine (s : State) (a : Word) (way : Bool) (l : DLine) : State :=
  { s with dcache := s.dcache.set (lineIndex a way).toNat l (lineIndex a way).isLt }

/-- The line holds the address (22_caches.md R293). -/
def DLine.holds (l : DLine) (a : Word) : Bool := (l.state != .invalid) && (l.tag == tagOf a)

/-- The way of the data cache that holds the address. -/
def dHit (s : State) (a : Word) : Option Bool :=
  if (dLine s a false).holds a then some false else if (dLine s a true).holds a then some true else none

/-- The physical address of a line of the data cache, bits 11 to 0 taken from a. -/
def lineAddress (l : DLine) (a : Word) : Word := (l.tag.setWidth 32 <<< 12) ||| (a &&& 0x00000FFF#32)

/-! ### Transactions that are cut short -/

/-- What a step has done outside the registers. -/
def haltOf (reset : Bool) (s : State) : Halt :=
  { reset := reset, icache := s.icache, dcache := s.dcache, tic := s.tic, mem := s.mem, busLog := s.busLog,
    script := s.script, draws := s.draws }

/-- A transaction that RST abandons (R908) or that never ends (R910): the step ends here, and the first such end counts.
What follows of the step runs as if the transaction had failed, and the end of the step drops it. -/
def abandon (c : Cut) (x : BusTxn) (s : State) : State :=
  { logTxn s { x with error := true } with
    halted := s.halted.orElse fun _ => some (haltOf c.reset (logTxn s { x with error := true })) }

/-! ### Snooping -/

/-- DCTL.SEN: the data cache snoops (22_caches.md R313, D20). -/
def snoopOn (s : State) : Bool := s.dmu.ctl.getLsbD 2

/-- A snooped transaction on a line that hits: whether a modified line is copied back first, and the state of the line
afterwards (R892). -/
def snoopAction (t : Snoop) (st : LineState) : Bool × LineState :=
  if t.read && !t.inv then (st == .exclusiveModified, .sharedUnmodified)
  else if !t.read && t.burst then (false, .invalid)
  else (st == .exclusiveModified, .invalid)

/-- A snoop copyback of line way, after which the line is in state st. Ended by TEA it is the fault of 22_caches.md R317;
ended by a retry it is not done again; in both cases the line stays as it was (R896, R912, R914). TEA and a retry of one
beat are an error (R878, R910). True when the other master's transaction can complete. -/
def snoopCopyback (t : Snoop) (way : Bool) (st : LineState) (s : State) : Bool × State :=
  let l := dLine s t.addr way
  let x := copybackTxn (lineAddress l t.addr) tcSnoop 0#2 way
  let d := { x with data := l.data.toList }
  let order := beatOrder t.addr
  let beats := fun k => (burstWriteBeats s x l.data (order.take k)).2
  match t.cut with
  | some c => (false, abandon c d (beats c.beats))
  | none =>
    let k := t.retry.getD 4
    if goodBeats s x order ≤ k ∧ goodBeats s x order < 4 then
      (false, { logTxn (beats k) { d with error := true } with snoopFault := some (lineAddress l t.addr) })
    else if t.retry.isSome then (false, beats k)
    else (true, setDLine (logTxn (beats k) d) t.addr way { l with state := st })

/-- What a snooped transaction does to a line of the data cache, if it is global and hits one. -/
def snoopHit (t : Snoop) (s : State) : Option (Bool × Bool × LineState) :=
  if snoopOn s && t.global then
    (dHit s t.addr).map fun way => (way, snoopAction t (dLine s t.addr way).state)
  else none

/-- The data cache snoops a transaction; true when the other master's transaction can complete (R892). -/
def snoop (t : Snoop) (s : State) : Bool × State :=
  match snoopHit t s with
  | none => (true, s)
  | some (way, true, st) => snoopCopyback t way st s
  | some (way, false, st) => (true, setDLine s t.addr way { dLine s t.addr way with state := st })

/-- The attributes of another master's transaction; those that Snoop does not hold are the model's (entry 72). -/
def snoopTxn (t : Snoop) : BusTxn :=
  { plainTxn t.addr (tcData true) with read := t.read, tbst := t.burst, inv := t.inv, gbl := t.global }

/-- Another master's write reaches memory. -/
def masterWrite (t : Snoop) (s : State) : State :=
  if t.read || (answerAt s (snoopTxn t) t.addr != .memory) then s else writeBytes s t.addr t.data

/-- Another master's transaction: the data cache snoops it, then a write reaches memory. A transaction whose snoop
copyback did not succeed is not completed (its master may start it again). -/
def otherMaster (t : Snoop) (s : State) : State :=
  let r := snoop t s
  if r.1 then masterWrite t r.2 else r.2

/-- The processor waits for the bus: what other masters do before its next access (R888, R900, R920). -/
def arbitrate (s : State) : State :=
  match s.script.between with
  | [] => s
  | g :: gs => g.foldl (fun u t => otherMaster t u) { s with script := { s.script with between := gs } }

/-! ### How a transaction ends -/

/-- The end of a transaction when the script says nothing. -/
def BusEnd.plain : BusEnd := { shd := false, during := [], retry := none, cut := none }

/-- How the next transaction ends. -/
def takeEnd (s : State) : BusEnd × State :=
  match s.script.ends with
  | [] => (BusEnd.plain, s)
  | e :: es => (e, { s with script := { s.script with ends := es } })

/-- A transaction snooped while x is outstanding, p a snoop copyback that waits: on the line of a global data
transaction it collides, whatever DCTL.SEN is (entry 65), and its master tries again later (R895); one that needs a
copyback takes the place of the one that waits, whose master tries again later (R896); any other is served at once. -/
def snoopDuring (x : BusTxn) (p : Option Snoop × State) (t : Snoop) : Option Snoop × State :=
  if x.gbl && !x.tc.getLsbD 3 && t.global && (lineAddr x.addr == lineAddr t.addr) then p
  else
    match snoopHit t p.2 with
    | some (_, true, _) => (some t, p.2)
    | _ => (p.1, otherMaster t p.2)

/-- Transaction x is logged, and what is snooped meanwhile is served but for the snoop copyback that waits. While LK is
asserted and honoured no other master has the bus (R887). -/
def serveDuring (e : BusEnd) (x : BusTxn) (s : State) : Option Snoop × State :=
  (if x.lk && s.env.lockHonoured then [] else e.during).foldl (snoopDuring x) (none, logTxn s x)

/-- The end of transaction x: what was snooped meanwhile is served, and the snoop copyback that waits is performed unless
x ended with an error (R896). -/
def closeTxn (e : BusEnd) (x : BusTxn) (s : State) : State :=
  let r := serveDuring e x s
  match r.1 with
  | none => r.2
  | some t => if x.error then r.2 else (snoop t r.2).2

/-- A snoop copyback waits for the end of the next transaction x. -/
def copybackWaits (x : BusTxn) (s : State) : Bool :=
  let e := takeEnd s
  (serveDuring e.1 x e.2).1.isSome

/-! ### Transactions of the processor -/

/-- A single-beat read, the n bytes at a from what answers at its address: the bytes, or none when it ends with TEA
(R914). -/
def busReadAt (s : State) (x : BusTxn) (a : Word) (n : Nat) : Option (List Byte) × State :=
  let e := takeEnd s
  match e.1.cut with
  | some c => (none, abandon c x e.2)
  | none =>
    if failsAt e.2 x x.addr then (none, closeTxn e.1 { x with error := true } e.2)
    else (some (answerBytes e.2 x a n), closeTxn e.1 x (afterAnswer e.2 x))

/-- A single-beat read of the n bytes at its address. -/
def busRead (s : State) (x : BusTxn) (n : Nat) : Option (List Byte) × State := busReadAt s x x.addr n

/-- A single-beat write of the bytes: true when it ends normally. A device's registers are not memory. With keep the
bytes do not land, because another transaction of the same access fails (45_load_store.md R602, entry 45). -/
def busWriteKeep (keep : Bool) (s : State) (x : BusTxn) (bs : List Byte) : Bool × State :=
  let e := takeEnd s
  match e.1.cut with
  | some c => (false, abandon c { x with data := bs } e.2)
  | none =>
    if failsAt e.2 x x.addr then (false, closeTxn e.1 { x with error := true, data := bs } e.2)
    else
      (true, closeTxn e.1 { x with data := bs }
        (if keep || deviceAt e.2 x x.addr then e.2 else writeBytes e.2 x.addr bs))

/-- A single-beat write of the bytes. -/
def busWrite (s : State) (x : BusTxn) (bs : List Byte) : Bool × State := busWriteKeep false s x bs

/-- An address-only transaction (invalidate, allocate load): no data moves (R886, R890). -/
def busAddressOnly (s : State) (x : BusTxn) : Bool × State :=
  let e := takeEnd s
  match e.1.cut with
  | some c => (false, abandon c x e.2)
  | none => (!failsAt e.2 x x.addr, closeTxn e.1 { x with error := failsAt e.2 x x.addr } e.2)

/-- What a burst read brings: the line, how many double words of it arrived, and the level of SHD. -/
structure Burst where
  data : Vector Byte 32
  good : Nat
  shd : Bool
  deriving DecidableEq, Repr

/-- How many beats a burst read makes when a retry may end it: a retry of the first beat is a repetition, and so is any
retry of a read with intent to modify, whose store has not been done (R912, entry 65). -/
def beatsAllowed (e : BusEnd) (x : BusTxn) : Nat :=
  match e.retry with
  | none => 4
  | some k => if x.inv || k = 0 then 4 else k

/-- SHD on a line fill: the level it is tied to, else what the snoopers drive (R894). -/
def shdLevel (s : State) (e : BusEnd) : Bool := s.env.shd.getD e.shd

/-- A burst read of the line of x, the double word of its address first (R883). TEA and a retry of one beat are an error
(R878, R910). -/
def burstRead (s : State) (x : BusTxn) : Burst × State :=
  let e := takeEnd s
  let d := burstData e.2 x
  let n := goodBeats e.2 x (beatOrder x.addr)
  let k := beatsAllowed e.1 x
  match e.1.cut with
  | some c => (⟨d, 0, false⟩, abandon c x e.2)
  | none =>
    (⟨d, min n k, shdLevel e.2 e.1⟩,
      closeTxn e.1 { x with error := decide (n ≤ k ∧ n < 4) } (if burstDevice e.2 x then drawn e.2 else e.2))

/-- A burst write of a line, its double words in the order given: true when it ends normally. -/
def burstWrite (s : State) (x : BusTxn) (d : Vector Byte 32) (order : List Nat) : Bool × State :=
  let e := takeEnd s
  match e.1.cut with
  | some c => (false, abandon c { x with data := d.toList } (burstWriteBeats e.2 x d (order.take c.beats)).2)
  | none =>
    let r := burstWriteBeats e.2 x d order
    (r.1, closeTxn e.1 { x with error := !r.1, data := d.toList } r.2)

end Sys2Proof.Machine
end

