-- ==== Sys2Proof/Machine/Mmu.lean ====
section
/-!
DEFINITION. The memory management units (21_mmu.md): choice of the translation mode, block and page translation, the
hardware table search, data breakpoints, probe and bulk invalidation, and the recording of a fault. Field positions
are those of the layouts the spec prints as defaults (12_cache_mmu_state.md R94 to R107, 21_mmu.md R246, R247; P3 and
D10, entry 5).
-/

namespace Sys2Proof.Machine

/-- The unit of a side. -/
def mmuOf (side : Side) (s : State) : Mmu :=
  match side with
  | .instr => s.imu
  | .data => s.dmu

/-- The state with the unit of a side replaced. -/
def setMmu (side : Side) (s : State) (m : Mmu) : State :=
  match side with
  | .instr => { s with imu := m }
  | .data => { s with dmu := m }

/-! ### Fields of ICTL and DCTL (12_cache_mmu_state.md R94, R95) -/

/-- CEN: the cache is enabled. -/
def ctlCen (c : Word) : Bool := c.getLsbD 0
/-- BEN of ICTL: the TIC is enabled. -/
def ctlBen (c : Word) : Bool := c.getLsbD 2
/-- MEN: the MMU is enabled. -/
def ctlMen (c : Word) : Bool := c.getLsbD 5
/-- HTEN: hardware table search. -/
def ctlHten (c : Word) : Bool := c.getLsbD 6
/-- FRZ1: line 1 of every set is frozen. -/
def ctlFrz1 (c : Word) : Bool := c.getLsbD 7
/-- FRZ0: line 0 of every set is frozen. -/
def ctlFrz0 (c : Word) : Bool := c.getLsbD 8
/-- BPEN0 of DCTL. -/
def ctlBpen0 (c : Word) : Bool := c.getLsbD 11
/-- BPEN1 of DCTL. -/
def ctlBpen1 (c : Word) : Bool := c.getLsbD 12
/-- FWT of DCTL: all stores are write-through. -/
def ctlFwt (c : Word) : Bool := c.getLsbD 13
/-- PREN of ICTL: branch prediction. -/
def ctlPren (c : Word) : Bool := c.getLsbD 14
/-- XMEM of DCTL: xmem stores first. -/
def ctlXmem (c : Word) : Bool := c.getLsbD 15
/-- M6 to M0, the block size mask. -/
def ctlMask (c : Word) : BitVec 7 := c.extractLsb' 16 7

/-! ### Area pointers (R98, R99) -/

/-- The area pointer an access's S/U bit selects. -/
def areaOf (m : Mmu) (su : Bool) : Word := if su then m.sap else m.uap

/-- TE: page translation is enabled for the area. -/
def areaTe (a : Word) : Bool := a.getLsbD 0

/-- The access control bits of an area descriptor, without U1 and U0 (R225, D13). -/
def areaAttr (a : Word) : Attr :=
  { wt := a.getLsbD 9, g := a.getLsbD 7, ci := a.getLsbD 6, wp := false, user := 0#2 }

/-- U1, U0 of an area descriptor, driven during a table search (R98). -/
def areaUser (a : Word) : BitVec 2 := a.extractLsb' 10 2

/-- Identity translation (R225). -/
def identity (m : Mmu) (su : Bool) (la : Word) : Xlate := ⟨la, areaAttr (areaOf m su)⟩

/-! ### Block translation (R226 to R228) -/

/-- How many address bits above bit 18 the block size mask leaves untranslated (R226; Table 6-2). -/
def blockBits (mask : BitVec 7) : Nat :=
  match mask.toNat with
  | 0 => 0
  | 1 => 1
  | 3 => 2
  | 7 => 3
  | 15 => 4
  | 31 => 5
  | 63 => 6
  | 127 => 7
  | _ => Config.illegalBlockBits mask

/-- A valid block descriptor hits (R226). -/
def batcHits (k : Nat) (su : Bool) (la : Word) (e : BatcEntry) : Bool :=
  e.port.getLsbD 0 && (e.port.getLsbD 5 == su) && (e.port >>> (19 + k) == la >>> (19 + k))

/-- The physical address of a block hit (R227). -/
def batcPa (k : Nat) (la : Word) (e : BatcEntry) : Word :=
  let base := (e.port.extractLsb' 6 13).setWidth 32 <<< 19
  ((base >>> (19 + k)) <<< (19 + k)) ||| (la &&& ~~~((0xFFFFFFFF#32 >>> (19 + k)) <<< (19 + k)))

/-- The attributes of a block descriptor (12_cache_mmu_state.md R102). -/
def batcAttr (e : BatcEntry) : Attr :=
  { wt := e.port.getLsbD 4, g := e.port.getLsbD 3, ci := e.port.getLsbD 2, wp := e.port.getLsbD 1, user := e.user }

/-- The numbers of the block descriptors that hit. -/
def batcMatches (m : Mmu) (su : Bool) (la : Word) : List (Fin 8) :=
  (List.finRange 8).filter fun i => batcHits (blockBits (ctlMask m.ctl)) su la m.batc[i]

/-! ### Page translation (R240 to R242) -/

/-- A valid page descriptor hits (R240). -/
def patcHits (su : Bool) (la : Word) (e : PatcEntry) : Bool :=
  e.lower.getLsbD 0 && (e.upper.getLsbD 6 == su) && (e.upper.extractLsb' 12 20 == la.extractLsb' 12 20)

/-- The physical address of a page hit (R241). -/
def patcPa (la : Word) (e : PatcEntry) : Word := (e.lower &&& 0xFFFFF000#32) ||| (la &&& 0x00000FFF#32)

/-- The attributes of a page descriptor (12_cache_mmu_state.md R104). -/
def patcAttr (e : PatcEntry) : Attr :=
  { wt := e.lower.getLsbD 9, g := e.lower.getLsbD 7, ci := e.lower.getLsbD 6, wp := e.lower.getLsbD 2,
    user := e.lower.extractLsb' 10 2 }

/-- The numbers of the page descriptors that hit. -/
def patcMatches (m : Mmu) (su : Bool) (la : Word) : List (Fin 32) :=
  (List.finRange 32).filter fun i => patcHits su la m.patc[i]

/-- The entry used when several match: unpredictable, so a free choice (R229, R244, P15). -/
def pickOne {n : Nat} (l : List (Fin n)) (s : State) : Option (Fin n) × State :=
  match l with
  | [] => (none, s)
  | [i] => (some i, s)
  | i :: j :: r =>
    ((i :: j :: r)[Config.freeNat s.draws % (r.length + 2)]?.or (some i), drawn s)

/-! ### Faults (R265) -/

/-- The access exception of a side. -/
def accessExc : Side → Exc
  | .instr => .instrAccess
  | .data => .dataAccess

/-- A fault of the table search, the status bit and the descriptor's address given. -/
def searchFault (side : Side) (write : Bool) (bits : Word) (a : Word) : MemFault :=
  { exc := accessExc side, bits := bits, par := .exact a, larKnown := true, write := write }

/-- TBE of ISR and DSR (12_cache_mmu_state.md R106, R107). -/
def bitTbe : Word := 0x00200000#32
/-- SI. -/
def bitSi : Word := 0x00100000#32
/-- PI. -/
def bitPi : Word := 0x00080000#32
/-- SP. -/
def bitSp : Word := 0x00040000#32
/-- WE of DSR. -/
def bitWe : Word := 0x00020000#32
/-- BPE of DSR. -/
def bitBpe : Word := 0x00010000#32
/-- CP of DSR. -/
def bitCp : Word := 0x00000004#32
/-- WA of DSR. -/
def bitWa : Word := 0x00000002#32
/-- BE. -/
def bitBe : Word := 0x00000001#32

/-- Write protection violation (R228, R242). -/
def protectFault : MemFault :=
  { exc := .dataAccess, bits := bitWe, par := .undefined, larKnown := true, write := true }

/-- Data breakpoint (R261). -/
def breakpointFault (write : Bool) : MemFault :=
  { exc := .dataAccess, bits := bitBpe, par := .undefined, larKnown := true, write := write }

/-- Bus error on an access (R266). -/
def busFault (side : Side) (write : Bool) (a : Word) : MemFault :=
  { exc := accessExc side, bits := bitBe, par := .exact a, larKnown := true, write := write }

/-- Copyback error (R266); DLAR is undefined when no access caused the copyback (12_cache_mmu_state.md R109). For the
copyback of a flush load or of an evicted line it is the access's own address (entry 66). -/
def copybackFault (larKnown write : Bool) (a : Word) : MemFault :=
  { exc := .dataAccess, bits := bitCp, par := .lineOf a, larKnown := larKnown, write := write }

/-- Write-allocate error (R266). -/
def allocateFault (a : Word) : MemFault :=
  { exc := .dataAccess, bits := bitWa, par := .lineOf a, larKnown := true, write := true }

/-- The ATC miss exception of software table search (R243, D14). -/
def missFault (side : Side) (write : Bool) : MemFault :=
  { exc := match side with
      | .instr => .immuMiss
      | .data => if write then .dmmuWriteMiss else .dmmuReadMiss
    bits := 0#32, par := .unchanged, larKnown := true, write := write }

/-- ISR or DSR after a fault: its bits are ORed in (D11), S/U describes the address, and R/W of DSR the access
(R265); an ATC miss sets S/U only (R243). -/
def statusAfter (side : Side) (su : Bool) (f : MemFault) (old : Word) : Word :=
  let withSu := if su then old ||| 0x00000080#32 else old &&& 0xFFFFFF7F#32
  match side with
  | .instr => withSu ||| f.bits
  | .data =>
    if f.bits = 0#32 then withSu
    else (if f.write then withSu &&& 0xFFFFFFBF#32 else withSu ||| 0x00000040#32) ||| f.bits

/-- ILAR or DLAR after a fault (12_cache_mmu_state.md R108, R109). -/
def larAfter (side : Side) (la : Word) (f : MemFault) (free : Word) : Word :=
  match side with
  | .instr => (la &&& 0xFFFFFFE0#32) ||| (free &&& 0x0000001F#32)
  | .data => if f.larKnown then la else free

/-- IPAR or DPAR after a fault. -/
def parAfter (v : ParValue) (old free : Word) : Word :=
  match v with
  | .exact a => a
  | .lineOf a => (a &&& 0xFFFFFFE0#32) ||| (free &&& 0x0000001F#32)
  | .undefined => free
  | .unchanged => old

/-- Both words of a port after hardware has overwritten them: the upper word as given, the lower one unspecified
(12_cache_mmu_state.md R91, R104; entry 62). -/
def setPort (side : Side) (upper : Word) (s : State) : State :=
  setMmu side (drawn s) { mmuOf side s with ppu := upper, ppl := Config.freeWord s.draws }

/-- A PATC miss preloads the logical page address and S/U into IPPU or DPPU, in the layout of a page descriptor's upper
word (R243, 12_cache_mmu_state.md R104; its other bits: entry 62). -/
def preloadPort (side : Side) (su : Bool) (la : Word) (s : State) : State :=
  setPort side ((la &&& 0xFFFFF000#32) ||| (if su then 0x40#32 else 0#32)) s

/-- The fault is an ATC miss: it sets no fault bit (R265). -/
def MemFault.isMiss (f : MemFault) : Bool := f.bits == 0#32

/-- What a memory fault writes before its exception is taken: the status and address registers, and the preload of an
ATC miss. All of it is frozen while PSR.EFRZ is 1 (60_exceptions.md R745, R746, R770). -/
def recordFault (side : Side) (su : Bool) (la : Word) (f : MemFault) (s : State) : State :=
  if psrEfrz s then s
  else
    let t := if f.isMiss then preloadPort side su la s else s
    let m := mmuOf side t
    setMmu side { t with draws := t.draws + 2 }
      { m with
        status := statusAfter side su f m.status
        lar := larAfter side la f (Config.freeWord t.draws)
        par := parAfter f.par m.par (Config.freeWord (t.draws + 1)) }

/-! ### Hardware table search (R250) -/

/-- The bus transaction of a descriptor fetch (80_bus_platform.md R888). -/
def descriptorTxn (side : Side) (user : BitVec 2) (a : Word) : BusTxn :=
  { plainTxn a (match side with | .instr => tcCodeSearch | .data => tcDataSearch) with
    read := true, upa := user, tsiz := 1#2 }

/-- The word of transaction x, read again after every snoop copyback that interrupts the read (80_bus_platform.md R888),
at most the given number of times. -/
def readAgain (x : BusTxn) : Nat → State → Option (List Byte) × State
  | 0, s => busRead s x 4
  | n + 1, s =>
    let r := busRead s x 4
    if copybackWaits x s && r.1.isSome then readAgain x n (arbitrate r.2) else r

/-- A descriptor, the big-endian word at its address, or none on a bus error (R253, R255). The bus is arbitrated for
before each, so other masters may act and a snoop copyback may come first (80_bus_platform.md R888). -/
def readDescriptor (side : Side) (user : BitVec 2) (a : Word) (s : State) : Option Word × State :=
  let u := arbitrate s
  let r := readAgain (descriptorTxn side user a) u.script.ends.length u
  match r.1 with
  | some [b0, b1, b2, b3] => (some (b0 ++ b1 ++ b2 ++ b3), r.2)
  | _ => (none, r.2)

/-- The access control bits a segment or page descriptor adds (R251). -/
def descriptorBits (acc : Attr) (d : Word) : Attr :=
  { acc with
    wt := acc.wt || d.getLsbD 9
    g := acc.g || d.getLsbD 7
    ci := acc.ci || d.getLsbD 6
    wp := acc.wp || d.getLsbD 2 }

/-- The PATC entry a successful search makes (R250). -/
def searchEntry (su : Bool) (la : Word) (acc : Attr) (pd : Word) : PatcEntry :=
  { upper := (la &&& 0xFFFFF000#32) ||| (if su then 0x40#32 else 0#32)
    lower := (pd &&& 0xFFFFFC00#32) ||| (if acc.wt then 0x200#32 else 0#32) ||| (if acc.g then 0x80#32 else 0#32)
      ||| (if acc.ci then 0x40#32 else 0#32) ||| (if acc.wp then 0x4#32 else 0#32) ||| 1#32 }

/-- The last steps of the search: the SP test, then the entry the FIFO pointer names is replaced (R250, D15). -/
def searchLoad (side : Side) (su write : Bool) (la : Word) (acc : Attr) (pd pda : Word) (s : State) :
    MRes PatcEntry :=
  if !su && pd.getLsbD 8 then .fail (searchFault side write bitSp pda) s
  else
    let m := mmuOf side s
    let e := searchEntry su la acc pd
    .ok e (setMmu side s { m with patc := m.patc.set m.fifo.val e m.fifo.isLt, fifo := m.fifo + 1 })

/-- The page-descriptor level of the search, an indirection followed once (R248, R250). -/
def searchPage (side : Side) (su write : Bool) (la : Word) (user : BitVec 2) (acc : Attr) (pda : Word) (s : State) :
    MRes PatcEntry :=
  let r := readDescriptor side user pda s
  match r.1 with
  | none => .fail (searchFault side write bitTbe pda) r.2
  | some pd =>
    if pd.extractLsb' 0 2 = 0#2 then .fail (searchFault side write bitPi pda) r.2
    else if pd.extractLsb' 0 2 = 1#2 then searchLoad side su write la (descriptorBits acc pd) pd pda r.2
    else
      let pda2 := pd &&& 0xFFFFFFFC#32
      let r2 := readDescriptor side user pda2 r.2
      match r2.1 with
      | none => .fail (searchFault side write bitTbe pda2) r2.2
      | some pd2 =>
        if pd2.extractLsb' 0 2 = 1#2 then
          searchLoad side su write la (if pd.extractLsb' 0 2 = 2#2 then acc else descriptorBits acc pd2) pd2 pda2 r2.2
        else .fail (searchFault side write bitPi pda2) r2.2

/-- The hardware table search (R250): the PATC entry loaded, or the fault. -/
def tableSearch (side : Side) (su write : Bool) (la : Word) (s : State) : MRes PatcEntry :=
  let area := areaOf (mmuOf side s) su
  let user := areaUser area
  let sda := (area &&& 0xFFFFF000#32) ||| ((la >>> 22) <<< 2)
  let r := readDescriptor side user sda s
  match r.1 with
  | none => .fail (searchFault side write bitTbe sda) r.2
  | some sd =>
    if !sd.getLsbD 0 then .fail (searchFault side write bitSi sda) r.2
    else if !su && sd.getLsbD 8 then .fail (searchFault side write bitSp sda) r.2
    else
      searchPage side su write la user (descriptorBits (areaAttr area) sd)
        ((sd &&& 0xFFFFF000#32) ||| ((la.extractLsb' 12 10).setWidth 32 <<< 2)) r.2

/-! ### Translation (R223) -/

/-- A hit ends the translation: write protection is tested here (R228, R242). -/
def applyHit (write : Bool) (x : Xlate) (s : State) : MRes Xlate :=
  if write && x.attr.wp then .fail protectFault s else .ok x s

/-- A PATC miss: the miss exception, or the hardware table search and the retried lookup (R243). The port is preloaded
under either setting of HTEN (12_cache_mmu_state.md R104; the exception's own preload is recordFault's), but not by a
search whose fault becomes the error exception (60_exceptions.md R770). -/
def translateMiss (side : Side) (su write : Bool) (la : Word) (s : State) : MRes Xlate :=
  if ctlHten (mmuOf side s).ctl then
    match tableSearch side su write la s with
    | .ok e s' => applyHit write ⟨patcPa la e, patcAttr e⟩ (preloadPort side su la s')
    | .fail f s' => .fail f (if psrEfrz s' then s' else preloadPort side su la s')
  else .fail (missFault side write) s

/-- Translation through the page ATC (R223, rows with TE = 1). -/
def translatePage (side : Side) (su write : Bool) (la : Word) (s : State) : MRes Xlate :=
  let r := pickOne (patcMatches (mmuOf side s) su la) s
  match r.1 with
  | some i =>
    let e := (mmuOf side s).patc[i]
    applyHit write ⟨patcPa la e, patcAttr e⟩ r.2
  | none => translateMiss side su write la r.2

/-- Translates the logical address (su, la) for a read or a write (R223, R224). -/
def translate (side : Side) (su write : Bool) (la : Word) (s : State) : MRes Xlate :=
  let m := mmuOf side s
  if s.env.dbug || !ctlMen m.ctl then .ok (identity m su la) s
  else
    let r := pickOne (batcMatches m su la) s
    match r.1 with
    | some i =>
      let k := blockBits (ctlMask m.ctl)
      applyHit write ⟨batcPa k la m.batc[i], batcAttr m.batc[i]⟩ r.2
    | none =>
      if areaTe (areaOf m su) then translatePage side su write la r.2
      else .ok (identity m su la) r.2

/-! ### Data breakpoints (R260, R261) -/

/-- A breakpoint register matches a data access (R260). -/
def breakpointHits (b : Breakpoint) (su write : Bool) (la : Word) : Bool :=
  (b.control.getLsbD 14 || (b.control.getLsbD 15 == su))
    && (b.control.getLsbD 12 || (b.control.getLsbD 13 == !write))
    && ((b.lba ^^^ la) &&& ~~~(b.control &&& 0x00000FFF#32) == 0#32)

/-- An armed breakpoint matches; the DBUG pin disables both (R260, R261). -/
def breakpointMatch (s : State) (su write : Bool) (la : Word) : Bool :=
  !s.env.dbug && ((ctlBpen0 s.dmu.ctl && breakpointHits s.bp0 su write la)
    || (ctlBpen1 s.dmu.ctl && breakpointHits s.bp1 su write la))

/-- The address of a data access: breakpoints first, then translation (R261, D17). -/
def dataAddress (su write : Bool) (la : Word) (s : State) : MRes Xlate :=
  if breakpointMatch s su write la then .fail (breakpointFault write) s
  else translate .data su write la s

/-! ### Probe and bulk invalidation (R270 to R274) -/

/-- Bits BH and PH of ISR or DSR, written both ways by a probe (R272). -/
def probeStatus (old : Word) (ph bh : Bool) : Word :=
  (old &&& 0xFFFFF3FF#32) ||| (if ph then 0x800#32 else 0#32) ||| (if bh then 0x400#32 else 0#32)

/-- IIR or DIR after a probe: the index of each hit, both free when nothing hit (R272, D18, P16). -/
def probeIndex (old free : Word) (p : Option (Fin 32)) (b : Option (Fin 8)) : Word :=
  match p, b with
  | none, none => (old &&& 0xFFFC08FF#32) ||| (free &&& 0x0003F700#32)
  | some i, none => (old &&& 0xFFFC0FFF#32) ||| (BitVec.ofNat 32 i.val <<< 12)
  | none, some j => (old &&& 0xFFFFF8FF#32) ||| (BitVec.ofNat 32 j.val <<< 8)
  | some i, some j =>
    (old &&& 0xFFFC08FF#32) ||| (BitVec.ofNat 32 i.val <<< 12) ||| (BitVec.ofNat 32 j.val <<< 8)

/-- An ATC probe of the address in ISAR or DSAR (R270 to R273); the status register is frozen with PSR.EFRZ (R272).
The port's two words are overwritten with what the spec does not say (12_cache_mmu_state.md R91, R104; entry 62). -/
def probe (side : Side) (su : Bool) (s : State) : State :=
  let m := mmuOf side s
  let p := pickOne (patcMatches m su m.sar) s
  let b := pickOne (batcMatches m su m.sar) p.2
  let t := setMmu side { b.2 with draws := b.2.draws + 2 }
    { m with
      ir := probeIndex m.ir (Config.freeWord b.2.draws) p.1 b.1
      status := if psrEfrz s then m.status else probeStatus m.status p.1.isSome b.1.isSome }
  setPort side (Config.freeWord (b.2.draws + 1)) t

/-- A page descriptor made invalid when its S/U bit is su (R274). -/
def invalidateIf (su : Bool) (e : PatcEntry) : PatcEntry :=
  if e.upper.getLsbD 6 == su then { e with lower := e.lower &&& 0xFFFFFFFE#32 } else e

/-- Every supervisor, or every user, PATC entry becomes invalid (R274). -/
def invalidatePatc (side : Side) (su : Bool) (s : State) : State :=
  let m := mmuOf side s
  setMmu side s { m with patc := m.patc.map (invalidateIf su) }

end Sys2Proof.Machine
end

