-- ==== Sys2Proof/Machine/Cache.lean ====
section
/-!
DEFINITION. The data cache and the instruction cache (22_caches.md): lookup, replacement, the three write policies,
cache-inhibited accesses, copybacks, the cache commands. The bus transactions carry the attributes of
80_bus_platform.md R881 and R882.
-/

namespace Sys2Proof.Machine

/-! ### Lookup and replacement (R292 to R297) -/

/-- A line of the instruction cache. -/
def iLine (s : State) (a : Word) (way : Bool) : ILine := s.icache[(lineIndex a way).toNat]'(lineIndex a way).isLt

/-- A line of the instruction cache replaced. -/
def setILine (s : State) (a : Word) (way : Bool) (l : ILine) : State :=
  { s with icache := s.icache.set (lineIndex a way).toNat l (lineIndex a way).isLt }

/-- The line holds the address (R293). -/
def ILine.holds (l : ILine) (a : Word) : Bool := l.valid && (l.tag == tagOf a)

/-- The way of the instruction cache that holds the address. -/
def iHit (s : State) (a : Word) : Option Bool :=
  if (iLine s a false).holds a then some false else if (iLine s a true).holds a then some true else none

/-- The data cache is accessed: CEN is 1 and DBUG is negated (R294). -/
def dCacheOn (s : State) : Bool := ctlCen s.dmu.ctl && !s.env.dbug

/-- The instruction cache is accessed. -/
def iCacheOn (s : State) : Bool := ctlCen s.imu.ctl && !s.env.dbug

/-- The line a miss replaces: none when both banks are frozen, else an invalid line first, else the biased one
(R296, R297, D21, D22). -/
def victim (frz0 frz1 valid0 valid1 bias : Bool) : Option Bool :=
  if frz0 then (if frz1 then none else some true)
  else if frz1 then some false
  else if !valid0 then some false
  else if !valid1 then some true
  else some bias

/-- The data cache's victim for an address. -/
def dVictim (s : State) (a : Word) : Option Bool :=
  victim (ctlFrz0 s.dmu.ctl) (ctlFrz1 s.dmu.ctl) ((dLine s a false).state != .invalid)
    ((dLine s a true).state != .invalid) s.dbias

/-- The instruction cache's victim for an address. -/
def iVictim (s : State) (a : Word) : Option Bool :=
  victim (ctlFrz0 s.imu.ctl) (ctlFrz1 s.imu.ctl) (iLine s a false).valid (iLine s a true).valid s.ibias

/-- The line of data with bytes stored at offset off and up. -/
def mergeLine (d : Vector Byte 32) (off : Nat) (bs : List Byte) : Vector Byte 32 :=
  Vector.ofFn fun i =>
    if off ≤ i.val ∧ i.val < off + bs.length then bs.getD (i.val - off) 0#8 else d[i]

/-! ### Requests and their transactions -/

/-- A data access as the cache and the bus see it: its translation, its space, its transfer code and size code, and the
.wt option. -/
structure Req where
  x : Xlate
  su : Bool
  tc : BitVec 4
  tsiz : BitVec 2
  wt : Bool
  deriving DecidableEq, Repr

/-- A read or write with the access's own attributes (R881 rows Read, Write, Store-through). -/
def reqTxn (q : Req) (read : Bool) : BusTxn :=
  { plainTxn q.x.pa q.tc with
    read := read, ci := q.x.attr.ci, wt := q.x.attr.wt || q.wt, upa := q.x.attr.user, tsiz := q.tsiz,
    inv := !read, gbl := q.x.attr.g }

/-- A line fill, or the read with intent to modify of a write miss (80_bus_platform.md R882). -/
def fillTxn (q : Req) (rwitm way : Bool) : BusTxn :=
  { plainTxn q.x.pa q.tc with
    read := true, wt := q.x.attr.wt && !rwitm, upa := q.x.attr.user, tbst := true, tsiz := q.tsiz,
    inv := rwitm, gbl := q.x.attr.g, cline := some way }

/-- The invalidate transaction of a store that hits a shared line of a global page (R886). -/
def invalidateTxn (q : Req) (way : Bool) : BusTxn :=
  { plainTxn q.x.pa q.tc with
    upa := q.x.attr.user, tsiz := q.tsiz, inv := true, mc := false, gbl := true, cline := some way }

/-- The single-beat transaction of an allocate load (R890), CLINE driven only where a line is allocated (entry 73). -/
def allocateTxn (q : Req) (way : Option Bool) : BusTxn :=
  { reqTxn q true with inv := true, mc := false, cline := way }

/-- Writes line way of the set of a to memory: the transaction's code and size, the double word order (R883). The line
itself does not change. -/
def copyback (s : State) (a : Word) (way : Bool) (tc : BitVec 4) (tsiz : BitVec 2) (order : List Nat) :
    Bool × State :=
  let l := dLine s a way
  burstWrite s (copybackTxn (lineAddress l a) tc tsiz way) l.data order

/-- A replacement copyback (R882: supervisor data code, double-word size). -/
def replaceCopyback (s : State) (a : Word) (way : Bool) : Bool × State :=
  copyback s a way (tcData true) 0#2 (beatOrder a)

/-- The line of data invalid. -/
def dInvalidate (s : State) (a : Word) (way : Bool) : State :=
  setDLine s a way { dLine s a way with state := .invalid }

/-- A modified line that is to be replaced is copied back; then the processor waits for the bus again (R304, R308). The
line itself stays as it was, also for what is snooped before the fill (entry 71). -/
def saveVictim (s : State) (a : Word) (way write : Bool) : MRes Unit :=
  if (dLine s a way).state = .exclusiveModified then
    let r := replaceCopyback s a way
    if r.1 then .ok () (arbitrate r.2)
    else .fail (copybackFault true write (lineAddress (dLine s a way) a)) r.2
  else .ok () s

/-- Room for a fill: a modified victim is copied back first, then the victim is invalid (R304, R308). -/
def makeRoom (s : State) (a : Word) (way write : Bool) : MRes Unit :=
  match saveVictim s a way write with
  | .ok _ s' => .ok () (dInvalidate s' a way)
  | .fail f s' => .fail f s'

/-- A cache-inhibited access that hits: a modified line is copied back, by a replacement copyback (entry 67), then the
line is invalid (R303, R310, R311). A disabled cache is not consulted (R294). -/
def evictHit (s : State) (a : Word) (write : Bool) : MRes Unit :=
  if dCacheOn s then
    match dHit s a with
    | some way => makeRoom s a way write
    | none => .ok () s
  else .ok () s

/-! ### Data reads -/

/-- A single-beat read of n bytes (R303). -/
def readSingle (q : Req) (n : Nat) (s : State) : MRes (List Byte) :=
  let r := busRead s (reqTxn q true) n
  match r.1 with
  | some bs => .ok bs r.2
  | none => .fail (busFault .data false q.x.pa) r.2

/-- The state of a line after a read fill, by the level of SHD (R304, R894). -/
def filledState (shd : Bool) : LineState := if shd then .sharedUnmodified else .exclusiveUnmodified

/-- A read miss: the victim makes room, the line is burst-read; an error on the missed double word faults, an error or
a retry elsewhere leaves the line invalid (R304; 80_bus_platform.md R912, R914). -/
def readFill (q : Req) (n : Nat) (way : Bool) (s : State) : MRes (List Byte) :=
  match makeRoom s q.x.pa way false with
  | .fail f s' => .fail f s'
  | .ok _ s1 =>
    let r := burstRead s1 (fillTxn q false way)
    if r.1.good = 0 then .fail (busFault .data false q.x.pa) r.2
    else
      .ok (lineBytes r.1.data (lineOffset q.x.pa) n)
        (if r.1.good = 4 then
          setDLine { r.2 with dbias := !r.2.dbias } q.x.pa way ⟨tagOf q.x.pa, filledState r.1.shd, r.1.data⟩
        else r.2)

/-- The lookup of a data read of n bytes (R301 to R304). -/
def readLookup (q : Req) (n : Nat) (s : State) : MRes (List Byte) :=
  if q.x.attr.ci || !dCacheOn s then
    match evictHit s q.x.pa false with
    | .fail f s' => .fail f s'
    | .ok _ s' => readSingle q n s'
  else
    match dHit s q.x.pa with
    | some way => .ok (lineBytes (dLine s q.x.pa way).data (lineOffset q.x.pa) n) s
    | none =>
      match dVictim s q.x.pa with
      | some way => readFill q n way s
      | none => readSingle q n s

/-- A data read of n bytes, aligned and at most a double word; other masters may act before it (80_bus_platform.md
R920). -/
def dataRead (q : Req) (n : Nat) (s : State) : MRes (List Byte) := readLookup q n (arbitrate s)

/-! ### Data writes -/

/-- The request of the upper double word of a quad word. -/
def Req.upper (q : Req) : Req := { q with x := { q.x with pa := q.x.pa + 8#32 } }

/-- A single-beat write. With first it is the lower double word of a quad word, whose bytes do not land when the upper
one's transaction fails (45_load_store.md R602, entry 45). -/
def writeSingle (first : Bool) (q : Req) (bs : List Byte) (s : State) : MRes Unit :=
  let r := busWriteKeep (first && failsAt s (reqTxn q.upper false) q.upper.x.pa) s (reqTxn q false) bs
  if r.1 then .ok () r.2 else .fail (busFault .data true q.x.pa) r.2

/-- The bytes written into a line of the data cache. -/
def writeLine (s : State) (a : Word) (way : Bool) (bs : List Byte) (st : LineState) : State :=
  let l := dLine s a way
  setDLine s a way { l with data := mergeLine l.data (lineOffset a) bs, state := st }

/-- A write hit under write-back: a shared line of a global page announces it first (R306). -/
def writeBackHit (q : Req) (bs : List Byte) (way : Bool) (s : State) : MRes Unit :=
  if (dLine s q.x.pa way).state = .sharedUnmodified ∧ q.x.attr.g = true then
    let r := busAddressOnly s (invalidateTxn q way)
    if r.1 then .ok () (writeLine r.2 q.x.pa way bs .exclusiveModified)
    else .fail (busFault .data true q.x.pa) r.2
  else .ok () (writeLine s q.x.pa way bs .exclusiveModified)

/-- A write miss under write-back: read with intent to modify, the store merged (R308). -/
def writeAllocate (q : Req) (bs : List Byte) (way : Bool) (s : State) : MRes Unit :=
  match makeRoom s q.x.pa way true with
  | .fail f s' => .fail f s'
  | .ok _ s1 =>
    let r := burstRead s1 (fillTxn q true way)
    if r.1.good = 4 then
      .ok () (setDLine { r.2 with dbias := !r.2.dbias } q.x.pa way
        ⟨tagOf q.x.pa, .exclusiveModified, mergeLine r.1.data (lineOffset q.x.pa) bs⟩)
    else .fail (allocateFault q.x.pa) r.2

/-- The write policy is write-through: WT of the page, .wt, or DCTL.FWT (R301). -/
def writeThrough (q : Req) (s : State) : Bool := q.x.attr.wt || q.wt || ctlFwt s.dmu.ctl

/-- The lookup of a data write of an aligned operand of at most a double word (R301, R306 to R310). DCTL.FWT chooses the
policy and does not drive WT (12_cache_mmu_state.md R95, entry 52). -/
def writeLookup (first : Bool) (q : Req) (bs : List Byte) (s : State) : MRes Unit :=
  if q.x.attr.ci || !dCacheOn s then
    match evictHit s q.x.pa true with
    | .fail f s' => .fail f s'
    | .ok _ s' => writeSingle first { q with wt := false } bs s'
  else if writeThrough q s then
    match dHit s q.x.pa with
    | some way =>
      writeSingle first q bs (writeLine s q.x.pa way bs (dLine s q.x.pa way).state)
    | none => writeSingle first q bs s
  else
    match dHit s q.x.pa with
    | some way => writeBackHit q bs way s
    | none =>
      match dVictim s q.x.pa with
      | some way => writeAllocate q bs way s
      | none => writeSingle first q bs s

/-- A data write of an aligned operand of at most a double word; other masters may act before it (80_bus_platform.md
R920). -/
def dataWrite (first : Bool) (q : Req) (bs : List Byte) (s : State) : MRes Unit := writeLookup first q bs (arbitrate s)

/-! ### xmem (R311) -/

/-- The bus transactions of xmem carry LK and INV (80_bus_platform.md R887). -/
def lockedTxn (q : Req) (read : Bool) : BusTxn := { reqTxn q read with lk := true, inv := true }

/-- Between the two halves of xmem no other master acts, unless the board does not honour LK (R887). -/
def betweenHalves (s : State) : State := if s.env.lockHonoured then s else arbitrate s

/-- The locked read and write, in the order of DCTL.XMEM: the old bytes, or the bytes just stored where the board has
no latch (45_load_store.md R630, P22). A bus error of either leaves memory as it was, and DSR.R/W tells which half it
was (entry 68). -/
def exchange (q : Req) (n : Nat) (bs : List Byte) (s : State) : MRes (List Byte) :=
  match evictHit (arbitrate s) q.x.pa true with
  | .fail f s' => .fail f s'
  | .ok _ s1 =>
    if ctlXmem s1.dmu.ctl then
      let w := busWriteKeep (failsAt s1 (lockedTxn q true) q.x.pa) s1 (lockedTxn q false) bs
      if w.1 then
        let r := busRead (betweenHalves w.2) (lockedTxn q true) n
        match r.1 with
        | none => .fail (busFault .data false q.x.pa) r.2
        | some got => .ok (if s1.env.xmemLatch then answerBytes s1 (lockedTxn q true) q.x.pa n else got) r.2
      else .fail (busFault .data true q.x.pa) w.2
    else
      let r := busRead s1 (lockedTxn q true) n
      match r.1 with
      | none => .fail (busFault .data false q.x.pa) r.2
      | some old =>
        let w := busWrite (betweenHalves r.2) (lockedTxn q false) bs
        if w.1 then .ok old w.2 else .fail (busFault .data true q.x.pa) w.2

/-! ### Cache-control loads (R322 to R324) -/

/-- The touch load's fill: as a read miss, a fault of any kind dropped (R322). -/
def touch (q : Req) (s : State) : State :=
  match dataRead q 1 s with
  | .ok _ s' => s'
  | .fail _ s' => s'

/-- A line whose data was copied back: invalid with inv, else no longer modified. What was snooped during the copyback
stays (R315 to R317). -/
def cleanLine (inv : Bool) (s : State) (a : Word) (way : Bool) : State :=
  let l := dLine s a way
  setDLine s a way { l with
    state := if inv then .invalid else if l.state = .exclusiveModified then .exclusiveUnmodified else l.state }

/-- The lookup of a flush load: a modified line that hits is copied back and becomes exclusive-unmodified (R323). An
error of the copyback records the load's address, as a read (entry 66). -/
def flushLookup (q : Req) (s : State) : MRes Unit :=
  if dCacheOn s then
    match dHit s q.x.pa with
    | some way =>
      if (dLine s q.x.pa way).state = .exclusiveModified then
        let r := copyback s q.x.pa way q.tc 1#2 (beatOrder q.x.pa)
        if r.1 then .ok () (cleanLine false r.2 q.x.pa way)
        else .fail (copybackFault true false q.x.pa) r.2
      else .ok () s
    | none => .ok () s
  else .ok () s

/-- The flush load; other masters may act before it. -/
def flushLine (q : Req) (s : State) : MRes Unit := flushLookup q (arbitrate s)

/-- Contents of a line that was allocated and not filled: every byte is free (P21). -/
def allocatedData (s : State) : Vector Byte 32 := Vector.ofFn fun i => Config.freeByte s.draws i.val

/-- The lookup of an allocate load: a line is allocated unfilled and modified, with one address-only transaction. A
fault makes it a NOP: the line it would have replaced stays (R324, R622 of 45_load_store.md). -/
def allocateLookup (q : Req) (s : State) : State :=
  if q.x.attr.ci || !dCacheOn s then (busAddressOnly s (allocateTxn q none)).2
  else
    match dHit s q.x.pa with
    | some _ => s
    | none =>
      match dVictim s q.x.pa with
      | none => (busAddressOnly s (allocateTxn q none)).2
      | some way =>
        match saveVictim s q.x.pa way false with
        | .fail _ s' => s'
        | .ok _ s1 =>
          let r := busAddressOnly s1 (allocateTxn q (some way))
          if r.1 then
            setDLine { drawn r.2 with dbias := !r.2.dbias } q.x.pa way
              ⟨tagOf q.x.pa, .exclusiveModified, allocatedData r.2⟩
          else r.2

/-- The allocate load; other masters may act before it. -/
def allocate (q : Req) (s : State) : State := allocateLookup q (arbitrate s)

/-! ### Instruction fetch (R298) -/

/-- The word at offset off of a line, big-endian (20_memory.md R175). -/
def lineWord (d : Vector Byte 32) (off : Nat) : Word :=
  d.toList.getD off 0#8 ++ d.toList.getD (off + 1) 0#8 ++ d.toList.getD (off + 2) 0#8 ++ d.toList.getD (off + 3) 0#8

/-- The big-endian word that four bytes make. -/
def wordOfList (bs : List Byte) : Word := bs.getD 0 0#8 ++ bs.getD 1 0#8 ++ bs.getD 2 0#8 ++ bs.getD 3 0#8

/-- What a fetch yields: the word, and the word after it where the two came together (46_flow_control.md R690). -/
structure Fetched where
  word : Word
  next : Option Word
  deriving DecidableEq, Repr

/-- The word at an offset of a line, and the next one unless it is the last of the line (R293) or came with a double
word that did not arrive; good double words arrived, the word's own first. -/
def fetchedFrom (d : Vector Byte 32) (good off : Nat) : Fetched :=
  { word := lineWord d off
    next := if off = 28 ∨ (off % 8 = 4 ∧ good < 2) then none else some (lineWord d (off + 4)) }

/-- A single-beat read of the double word that holds the instruction (80_bus_platform.md R881). What answers at the
instruction's own address answers the whole transaction (entry 64). -/
def fetchSingle (x : Xlate) (su : Bool) (s : State) : MRes Fetched :=
  let r := busReadAt s (reqTxn ⟨x, su, tcCode su, 0#2, false⟩ true) (x.pa &&& 0xFFFFFFF8#32) 8
  match r.1 with
  | none => .fail (busFault .instr false x.pa) r.2
  | some bs =>
    .ok (if x.pa.getLsbD 2 then ⟨wordOfList (bs.drop 4), none⟩ else ⟨wordOfList bs, some (wordOfList (bs.drop 4))⟩) r.2

/-- A fetch that misses: the line is burst-read into the victim (R298). An error on the critical double word leaves the
victim as it was, an error or a retry on another makes it invalid (80_bus_platform.md R912, R914). -/
def fetchFill (x : Xlate) (su : Bool) (way : Bool) (s : State) : MRes Fetched :=
  let r := burstRead s (fillTxn ⟨x, su, tcCode su, 0#2, false⟩ false way)
  if r.1.good = 0 then .fail (busFault .instr false x.pa) r.2
  else
    .ok (fetchedFrom r.1.data r.1.good (lineOffset x.pa))
      (if r.1.good = 4 then setILine { r.2 with ibias := !r.2.ibias } x.pa way ⟨tagOf x.pa, true, r.1.data⟩
       else setILine r.2 x.pa way { iLine r.2 x.pa way with valid := false })

/-- The lookup of an instruction word at a physical address (R298). -/
def fetchLookup (x : Xlate) (su : Bool) (s : State) : MRes Fetched :=
  if x.attr.ci || !iCacheOn s then fetchSingle x su s
  else
    match iHit s x.pa with
    | some way => .ok (fetchedFrom (iLine s x.pa way).data 4 (lineOffset x.pa)) s
    | none =>
      match iVictim s x.pa with
      | some way => fetchFill x su way s
      | none => fetchSingle x su s

/-- The instruction word at a physical address; other masters may act before the lookup (80_bus_platform.md R920). -/
def fetchWord (x : Xlate) (su : Bool) (s : State) : MRes Fetched := fetchLookup x su (arbitrate s)

/-! ### Cache commands (R330 to R336) -/

/-- Every TIC entry becomes invalid (R330). -/
def invalidateTic (s : State) : State := { s with tic := s.tic.map fun e => { e with valid := false } }

/-- Every instruction cache line and TIC entry becomes invalid; the bias bit is cleared (R330). -/
def invalidateICache (s : State) : State :=
  { invalidateTic s with icache := s.icache.map (fun l => { l with valid := false }), ibias := false }

/-- The instruction cache line of a physical address becomes invalid (R331). The bias bit stays (entry 61). -/
def invalidateILine (s : State) (a : Word) : State :=
  match iHit s a with
  | some way => setILine s a way { iLine s a way with valid := false }
  | none => s

/-- Every data cache line becomes invalid without copyback; the bias bit is cleared (R330). -/
def invalidateDCache (s : State) : State :=
  { s with dcache := s.dcache.map (fun l => { l with state := .invalid }), dbias := false }

/-- The data cache line of a physical address becomes invalid without copyback (R331). The bias bit stays (entry 61).
-/
def invalidateDLine (s : State) (a : Word) : State :=
  match dHit s a with
  | some way => dInvalidate s a way
  | none => s

/-- One line under a flush command: a modified line is copied back, and becomes exclusive-unmodified, or invalid with
inv; other valid lines become invalid with inv (R332, D23). set and way place it. -/
def flushOne (inv : Bool) (a : Word) (way : Bool) (s : State) : MRes Unit :=
  let l := dLine s a way
  match l.state with
  | .invalid => .ok () s
  | .exclusiveModified =>
    let r := copyback s a way (tcData true) 0#2 [0, 1, 2, 3]
    if r.1 then .ok () (cleanLine inv r.2 a way)
    else .fail (copybackFault false true (lineAddress l a)) r.2
  | .sharedUnmodified => .ok () (if inv then dInvalidate s a way else s)
  | .exclusiveUnmodified => .ok () (if inv then dInvalidate s a way else s)

/-- Line way of a set under a flush command, when sel chooses it; other masters may act before it. -/
def flushWay (inv : Bool) (sel : DLine → Bool) (a : Word) (way : Bool) (s : State) : MRes Unit :=
  let t := arbitrate s
  if sel (dLine t a way) then flushOne inv a way t else .ok () t

/-- The lines of the sets given, line 0 of each before line 1, that sel chooses, are flushed in order; a copyback error
abandons the command (R335, D24). The order is the model's (entry 63). -/
def flushSets (inv : Bool) (sel : DLine → Bool) : List Nat → State → MRes Unit
  | [], s => .ok () s
  | n :: ns, s =>
    let a := BitVec.ofNat 32 (32 * n)
    match flushWay inv sel a false s with
    | .fail f s' => .fail f s'
    | .ok _ s1 =>
      match flushWay inv sel a true s1 with
      | .fail f s' => .fail f s'
      | .ok _ s2 => flushSets inv sel ns s2

/-- Flush all, set 0 first (R332, entry 63). A flush clears no bias bit (entry 61). -/
def flushAll (inv : Bool) (s : State) : MRes Unit := flushSets inv (fun _ => true) (List.range 128) s

/-- Flush the page of a physical address (R333). -/
def flushPage (inv : Bool) (a : Word) (s : State) : MRes Unit :=
  flushSets inv (fun l => l.tag == tagOf a) (List.range 128) s

/-- Flush the line of a physical address (R334). -/
def flushLineAt (inv : Bool) (a : Word) (s : State) : MRes Unit :=
  flushSets inv (fun l => l.tag == tagOf a) [(a.extractLsb' 5 7).toNat] s

end Sys2Proof.Machine
end

