-- ==== Sys2Proof/Machine/Operands.lean ====
section
/-!
DEFINITION. Operand forms: 16-bit immediates (30_encoding.md R371), effective addresses (45_load_store.md R600), branch
targets (46_flow_control.md R660), conditions (30_encoding.md R378), width and offset operands (R372), and the bytes of
a memory operand in the order PSR.BO selects (20_memory.md R172).
-/

namespace Sys2Proof.Machine

/-- imm16: zero or sign extension by PSR.SGN (R371). -/
def imm16 (s : State) (imm : BitVec 16) : Word :=
  if psrSgn s then imm.signExtend 32 else imm.setWidth 32

/-- The 16-bit immediate in the low half, zeros above (R371). -/
def immLow (imm : BitVec 16) : Word := imm.setWidth 32

/-- The 16-bit immediate in the high half, zeros below (40_logical.md R420). -/
def immHigh (imm : BitVec 16) : Word := imm ++ 0#16

/-- The effective address with an immediate index (R600). -/
def eaImm (s : State) (s1 : RegNum) (imm : BitVec 16) : Word := readReg s s1 + imm16 s imm

/-- The effective address with a register index, scaled by 2^k when scaled (R600). -/
def eaReg (s : State) (s1 s2 : RegNum) (scaled : Bool) (k : Nat) : Word :=
  readReg s s1 + (if scaled then readReg s s2 <<< k else readReg s s2)

/-- The target of bb0, bb1 and bcnd at address a (R660). -/
def target16 (a : Word) (disp : BitVec 16) : Word := a + (disp.signExtend 32 <<< 2)

/-- The target of br and bsr at address a (R660). -/
def target26 (a : Word) (disp : BitVec 26) : Word := a + (disp.signExtend 32 <<< 2)

/-- The target of jmp and jsr (R660). -/
def targetReg (v : Word) : Word := v &&& 0xFFFFFFFC#32

/-- Bit number b of v. -/
def bitOf (v : Word) (b : BitVec 5) : Bool := v.getLsbD b.toNat

/-- The condition mask m of bcnd and tcnd holds of v; bit 4 of the mask is ignored (R378). -/
def condHolds (m : BitVec 5) (v : Word) : Bool :=
  let sign := v.getLsbD 31
  let zero := v &&& 0x7FFFFFFF#32 == 0#32
  (sign && zero && m.getLsbD 3) || (sign && !zero && m.getLsbD 2) || (!sign && zero && m.getLsbD 1)
    || (!sign && !zero && m.getLsbD 0)

/-- The width of a bit field: W5 = 0 denotes 32 (R372). -/
def fieldWidth (w : BitVec 5) : Nat := if w = 0#5 then 32 else w.toNat

/-- W5 of a register operand, bits 9 to 5 (R372). -/
def widthOf (v : Word) : BitVec 5 := v.extractLsb' 5 5

/-- O5 of a register operand, bits 4 to 0 (R372). -/
def offsetOf (v : Word) : BitVec 5 := v.extractLsb' 0 5

/-! ### Bytes of an operand (20_memory.md R172) -/

/-- The number the bytes stand for, the first the most significant. -/
def numberBE (bs : List Byte) : Nat := bs.foldl (fun acc b => acc * 256 + b.toNat) 0

/-- The low n bytes of a number, the most significant first. -/
def bytesBE : Nat → Nat → List Byte
  | 0, _ => []
  | n + 1, v => BitVec.ofNat 8 (v / 256 ^ n) :: bytesBE n v

/-- The value of an operand in memory: its bytes reversed when PSR.BO is 1. -/
def operandValue (s : State) (bs : List Byte) : Nat := numberBE (if psrBo s then bs.reverse else bs)

/-- The bytes of an n-byte operand as memory holds them. -/
def operandBytes (s : State) (n v : Nat) : List Byte := if psrBo s then (bytesBE n v).reverse else bytesBE n v

end Sys2Proof.Machine
end

