-- ==== Sys2Proof/Machine/Flags.lean ====
section
/-!
DEFINITION. The carry and the overflow of addition and subtraction (41_integer_arith.md R441, R442, R444).
-/

namespace Sys2Proof.Machine

/-- sum33: a + b + c in 33 bits (R441). -/
def sum33 (a b : Word) (c : Bool) : BitVec 33 := a.setWidth 33 + b.setWidth 33 + (BitVec.ofBool c).setWidth 33

/-- The carry in: PSR.C with .ci, else the constant (R441). -/
def carryIn (s : State) (ci constant : Bool) : Bool := if ci then psrCarry s else constant

/-- The 32-bit result of a + b + c (R441). -/
def addWord (a b : Word) (c : Bool) : Word := (sum33 a b c).extractLsb' 0 32

/-- The carry out of a + b + c (R441). -/
def addCarry (a b : Word) (c : Bool) : Bool := (sum33 a b c).getLsbD 32

/-- Signed overflow of a + b + c: operands of one sign, a result of the other (R442). -/
def addOverflow (a b : Word) (c : Bool) : Bool :=
  (a.getLsbD 31 == b.getLsbD 31) && ((addWord a b c).getLsbD 31 != a.getLsbD 31)

/-- The result of a - b: a + ~b + c, c being 1 when nothing is borrowed before (R441). -/
def subWord (a b : Word) (c : Bool) : Word := addWord a (~~~b) c

/-- The carry out of a - b: 0 denotes a borrow (R441). -/
def subCarry (a b : Word) (c : Bool) : Bool := addCarry a (~~~b) c

/-- The carry into bit 31 of a + b + c (R444). -/
def carry31 (a b : Word) (c : Bool) : Bool :=
  ((a &&& 0x7FFFFFFF#32) + (b &&& 0x7FFFFFFF#32) + (BitVec.ofBool c).setWidth 32).getLsbD 31

/-- Signed overflow of a - b: the carries into and out of bit 31 differ (R444). -/
def subOverflow (a b : Word) (c : Bool) : Bool := carry31 a (~~~b) c != subCarry a b c

/-- PSR.C takes the carry out with .co, and keeps its value without (R441). -/
def carryOut (s : State) (co c : Bool) : State := if co then setCarry s c else s

end Sys2Proof.Machine
end

