-- ==== Sys2Proof/Machine/BitField.lean ====
section
/-!
DEFINITION. The bit-field instructions (42_bitfield.md R470 to R478): no flag, no exception.
-/

namespace Sys2Proof.Machine

/-! ### Shared operations (R470) -/

/-- Ones in the low n bits. -/
def lowMask (n : Nat) : Word := BitVec.ofNat 32 (2 ^ n - 1)

/-- FMASK: ones in the part of the field inside the word (R470). -/
def fieldMask (w o : BitVec 5) : Word := lowMask (fieldWidth w) <<< o.toNat

/-- The field cleared (R471). -/
def clearField (v : Word) (w o : BitVec 5) : Word := v &&& ~~~(fieldMask w o)

/-- The field set (R472). -/
def setField (v : Word) (w o : BitVec 5) : Word := v ||| fieldMask w o

/-- The field, sign extended from its highest bit inside the word (R473). -/
def extractSigned (v : Word) (w o : BitVec 5) : Word :=
  let n := min (o.toNat + fieldWidth w - 1) 31 - o.toNat + 1
  (v <<< (32 - n - o.toNat)).sshiftRight (32 - n)

/-- The field, zero extended (R474). -/
def extractUnsigned (v : Word) (w o : BitVec 5) : Word := (v >>> o.toNat) &&& lowMask (fieldWidth w)

/-- The low w bits moved up to o (R475). -/
def makeField (v : Word) (w o : BitVec 5) : Word := (v &&& lowMask (fieldWidth w)) <<< o.toNat

/-- A rotation to the right (R476). -/
def rotateRight (v : Word) (n : BitVec 5) : Word := (v >>> n.toNat) ||| (v <<< (32 - n.toNat))

/-- The largest i below n whose bit is set, 32 if none is (R477). -/
def highestSet (v : Word) : Nat → Nat
  | 0 => 32
  | n + 1 => if v.getLsbD n then n else highestSet v n

/-! ### Immediate forms -/

/-- clr rD,rS1,W5<O5> (R471). -/
def execClrImm (d s1 : RegNum) (w o : BitVec 5) (s : State) : Host.Outcome State Fault Refusal :=
  result d (clearField (readReg s s1) w o) s

/-- set rD,rS1,W5<O5> (R472). -/
def execSetImm (d s1 : RegNum) (w o : BitVec 5) (s : State) : Host.Outcome State Fault Refusal :=
  result d (setField (readReg s s1) w o) s

/-- ext rD,rS1,W5<O5> (R473). -/
def execExtImm (d s1 : RegNum) (w o : BitVec 5) (s : State) : Host.Outcome State Fault Refusal :=
  result d (extractSigned (readReg s s1) w o) s

/-- extu rD,rS1,W5<O5> (R474). -/
def execExtuImm (d s1 : RegNum) (w o : BitVec 5) (s : State) : Host.Outcome State Fault Refusal :=
  result d (extractUnsigned (readReg s s1) w o) s

/-- mak rD,rS1,W5<O5> (R475). -/
def execMakImm (d s1 : RegNum) (w o : BitVec 5) (s : State) : Host.Outcome State Fault Refusal :=
  result d (makeField (readReg s s1) w o) s

/-- rot rD,rS1,<O5> (R476). -/
def execRotImm (d s1 : RegNum) (o : BitVec 5) (s : State) : Host.Outcome State Fault Refusal :=
  result d (rotateRight (readReg s s1) o) s

/-! ### Register forms -/

/-- clr rD,rS1,rS2 (R471). -/
def execClrReg (d s1 s2 : RegNum) (s : State) : Host.Outcome State Fault Refusal :=
  result d (clearField (readReg s s1) (widthOf (readReg s s2)) (offsetOf (readReg s s2))) s

/-- set rD,rS1,rS2 (R472). -/
def execSetReg (d s1 s2 : RegNum) (s : State) : Host.Outcome State Fault Refusal :=
  result d (setField (readReg s s1) (widthOf (readReg s s2)) (offsetOf (readReg s s2))) s

/-- ext rD,rS1,rS2 (R473). -/
def execExtReg (d s1 s2 : RegNum) (s : State) : Host.Outcome State Fault Refusal :=
  result d (extractSigned (readReg s s1) (widthOf (readReg s s2)) (offsetOf (readReg s s2))) s

/-- extu rD,rS1,rS2 (R474). -/
def execExtuReg (d s1 s2 : RegNum) (s : State) : Host.Outcome State Fault Refusal :=
  result d (extractUnsigned (readReg s s1) (widthOf (readReg s s2)) (offsetOf (readReg s s2))) s

/-- mak rD,rS1,rS2 (R475). -/
def execMakReg (d s1 s2 : RegNum) (s : State) : Host.Outcome State Fault Refusal :=
  result d (makeField (readReg s s1) (widthOf (readReg s s2)) (offsetOf (readReg s s2))) s

/-- rot rD,rS1,rS2 (R476). -/
def execRotReg (d s1 s2 : RegNum) (s : State) : Host.Outcome State Fault Refusal :=
  result d (rotateRight (readReg s s1) (offsetOf (readReg s s2))) s

/-- ff1 rD,rS2 (R477). -/
def execFf1 (d s2 : RegNum) (s : State) : Host.Outcome State Fault Refusal :=
  result d (BitVec.ofNat 32 (highestSet (readReg s s2) 32)) s

/-- ff0 rD,rS2 (R478). -/
def execFf0 (d s2 : RegNum) (s : State) : Host.Outcome State Fault Refusal :=
  result d (BitVec.ofNat 32 (highestSet (~~~(readReg s s2)) 32)) s

end Sys2Proof.Machine
end

