-- ==== Sys2Proof/Machine/Access.lean ====
section
/-!
DEFINITION. The memory accesses of the load, store and exchange instructions: the checks in the order of
45_load_store.md R602, the access itself, and the cache-control loads (R620 to R622).
-/

namespace Sys2Proof.Machine

/-- The address an n-byte access uses: the effective address when it is aligned, its rounding when the misaligned
exception is masked, none when the exception is raised (20_memory.md R180). -/
def alignAddr (s : State) (n : Nat) (ea : Word) : Option Word :=
  let low := BitVec.ofNat 32 (n - 1)
  if ea &&& low = 0#32 then some ea else if psrMxm s then some (ea &&& ~~~low) else none

/-- The S/U bit of a data access (R604). -/
def spaceOf (s : State) (usr : Bool) : Bool := !usr && psrMode s

/-- .usr in user mode (R604). -/
def usrViolation (s : State) (usr : Bool) : Bool := usr && !psrMode s

/-- A memory fault becomes the exception it names, its detail registers recorded. -/
def settle {α : Type} (su : Bool) (la : Word) : MRes α → Res α
  | .ok a s => .ok a s
  | .fail f s => .trap f.exc (recordFault .data su la f s)

/-- The request of an ordinary data access (80_bus_platform.md R884). -/
def dataReq (x : Xlate) (su : Bool) (n : Nat) (wt : Bool) : Req := ⟨x, su, tcData su, tsizOf n, wt⟩

/-- The request of a touch, flush or allocate load (22_caches.md R323, R325). -/
def controlReq (x : Xlate) (su : Bool) (tsiz : BitVec 2) : Req := ⟨x, su, tcCacheControl su, tsiz, false⟩

/-- The bytes of an n-byte operand; a quad word is two double-word accesses with one translation, the lower address
first (20_memory.md R176, entry 70). -/
def readOperand (x : Xlate) (su : Bool) (n : Nat) (s : State) : MRes (List Byte) :=
  if n = 16 then
    match dataRead (dataReq x su 8 false) 8 s with
    | .fail f s' => .fail f s'
    | .ok hi s1 =>
      match dataRead (dataReq ⟨x.pa + 8#32, x.attr⟩ su 8 false) 8 s1 with
      | .fail f s' => .fail f s'
      | .ok lo s2 => .ok (hi ++ lo) s2
  else dataRead (dataReq x su n false) n s

/-- The translated read of an aligned operand (R602 steps 4 and 5). -/
def readAt (su : Bool) (n : Nat) (a : Word) (s : State) : MRes (List Byte) :=
  match dataAddress su false a s with
  | .fail f s' => .fail f s'
  | .ok x s' => readOperand x su n s'

/-- Writes the bytes of an n-byte operand; a quad word is two double-word accesses with one translation, the lower
address first, and another master may act between them (20_memory.md R176, R186, entry 70). -/
def writeOperand (x : Xlate) (su wt : Bool) (n : Nat) (bs : List Byte) (s : State) : MRes Unit :=
  if n = 16 then
    match dataWrite true (dataReq x su 8 wt) (bs.take 8) s with
    | .fail f s' => .fail f s'
    | .ok _ s1 => dataWrite false (dataReq ⟨x.pa + 8#32, x.attr⟩ su 8 wt) (bs.drop 8) s1
  else dataWrite false (dataReq x su n wt) bs s

/-- The translated write of an aligned operand (R602 steps 4 and 5). -/
def writeAt (su wt : Bool) (n : Nat) (a : Word) (bs : List Byte) (s : State) : MRes Unit :=
  match dataAddress su true a s with
  | .fail f s' => .fail f s'
  | .ok x s' => writeOperand x su wt n bs s'

/-- The value of an n-byte operand at an effective address: MemRead with all the checks of R602. -/
def loadValue (usr : Bool) (n : Nat) (ea : Word) (s : State) : Res Nat :=
  if usrViolation s usr then .trap .privilege s
  else
    match alignAddr s n ea with
    | none => .trap .misaligned s
    | some a =>
      match settle (spaceOf s usr) a (readAt (spaceOf s usr) n a s) with
      | .ok bs s' => .ok (operandValue s' bs) s'
      | .trap e s' => .trap e s'
      | .stop f => .stop f

/-- Stores an n-byte value at an effective address: MemWrite with all the checks of R602. -/
def storeValue (usr wt : Bool) (n : Nat) (ea : Word) (v : Nat) (s : State) : Res Unit :=
  if usrViolation s usr then .trap .privilege s
  else
    match alignAddr s n ea with
    | none => .trap .misaligned s
    | some a => settle (spaceOf s usr) a (writeAt (spaceOf s usr) wt n a (operandBytes s n v) s)

/-- A load whose value goes to a register by the function given. -/
def loadInto (usr : Bool) (n : Nat) (ea : Word) (put : State → Nat → State) (s : State) : Res Unit :=
  match loadValue usr n ea s with
  | .ok v s' => .ok () (put s' v)
  | .trap e s' => .trap e s'
  | .stop f => .stop f

/-- The touch load: a line is brought in, and no fault of any kind is taken (R620). -/
def touchLoad (usr : Bool) (ea : Word) (s : State) : Res Unit :=
  if usrViolation s usr then .trap .privilege s
  else
    match dataAddress (spaceOf s usr) false ea s with
    | .fail _ s' => .ok () s'
    | .ok x s' => .ok () (touch (controlReq x (spaceOf s usr) 3#2) s')

/-- The flush load: a modified line is written back; it faults like any other access (R621). -/
def flushLoad (usr : Bool) (ea : Word) (s : State) : Res Unit :=
  if usrViolation s usr then .trap .privilege s
  else
    match alignAddr s 4 ea with
    | none => .trap .misaligned s
    | some a =>
      settle (spaceOf s usr) a
        (match dataAddress (spaceOf s usr) false a s with
          | .fail f s' => .fail f s'
          | .ok x s' => flushLine (controlReq x (spaceOf s usr) 1#2) s')

/-- The allocate load: a line is allocated unfilled; any fault, misalignment included, makes it a NOP (R622, D26). -/
def allocateLoad (usr : Bool) (ea : Word) (s : State) : Res Unit :=
  if usrViolation s usr then .trap .privilege s
  else
    match alignAddr s 2 ea with
    | none => .ok () s
    | some a =>
      match dataAddress (spaceOf s usr) false a s with
      | .fail _ s' => .ok () s'
      | .ok x s' => .ok () (allocate (controlReq x (spaceOf s usr) 2#2) s')

/-- What stays of an access whose result is waived: every register is that of s, the memory system is that of t
(60_exceptions.md R712, R713). -/
def keepAccess (s t : State) : State :=
  { s with
    dcache := t.dcache, dbias := t.dbias, mem := t.mem, busLog := t.busLog, script := t.script, draws := t.draws,
    halted := t.halted, snoopFault := t.snoopFault, dmu := { s.dmu with patc := t.dmu.patc, fifo := t.dmu.fifo } }

/-- A load whose result is waived: it is checked and accesses cache and bus as ever, and a fault of it is not taken
(60_exceptions.md R713, entry 38). -/
def waivedLoad (l : WaivedLoad) (s : State) : State :=
  let r :=
    match l.form with
    | .operand k => loadInto l.usr (2 ^ k.val) l.addr (fun t _ => t) s
    | .touch => touchLoad l.usr l.addr s
  match r with
  | .ok _ t => keepAccess s t
  | .trap _ t => keepAccess s t
  | .stop _ => s

/-- xmem: the translation is a write's, the accesses are locked and cache inhibited (R630). -/
def exchangeAt (usr : Bool) (n : Nat) (ea : Word) (v : Nat) (s : State) : Res Nat :=
  if usrViolation s usr then .trap .privilege s
  else
    match alignAddr s n ea with
    | none => .trap .misaligned s
    | some a =>
      match settle (spaceOf s usr) a
          (match dataAddress (spaceOf s usr) true a s with
            | .fail f s' => .fail f s'
            | .ok x s' => exchange (dataReq x (spaceOf s usr) n false) n (operandBytes s n v) s') with
      | .ok bs s' => .ok (operandValue s' bs) s'
      | .trap e s' => .trap e s'
      | .stop f => .stop f

end Sys2Proof.Machine
end

