-- ==== Sys2Proof/Machine/Control.lean ====
section
/-!
DEFINITION. The general control registers (10_state.md R30 to R51, 12_cache_mmu_state.md R90 to R109) and the
floating-point control registers (10_state.md R52 to R56): what a read returns and does, what a write stores and starts,
and the commands of ICMD and DCMD (22_caches.md R330 to R336, 21_mmu.md R270 to R274).
-/

namespace Sys2Proof.Machine

/-- A register number that names no implemented control register (45_load_store.md R639). -/
def crUnimplemented (n : BitVec 6) : Bool :=
  [3, 6, 8, 9, 10, 11, 12, 13, 21, 22, 23, 24, 37, 38, 39, 52, 53, 54, 55, 56, 57, 58, 59, 60, 61, 62, 63].contains
    n.toNat

/-- PID as it reads (10_state.md R31). -/
def pidValue (s : State) : Word := 0x00000101#32 ||| (s.env.pidVersion.setWidth 32 <<< 1)

/-! ### The ports of the translation caches (12_cache_mmu_state.md R102 to R105, R118) -/

/-- The BATC index field of IIR or DIR (R100). -/
def batcIndex (m : Mmu) : BitVec 3 := m.ir.extractLsb' 8 3

/-- The PATC index field of IIR or DIR (R100, R101). -/
def patcIndex (m : Mmu) : Nat := (m.ir.extractLsb' 12 6).toNat

/-- A read of IBP or DBP: the entry's port bits are returned, its U1 and U0 go to IIR or DIR (R102). -/
def readBatcPort (side : Side) (s : State) : Res Word :=
  let m := mmuOf side s
  let e := m.batc[(batcIndex m).toNat]'(batcIndex m).isLt
  .ok e.port (setMmu side s { m with ir := (m.ir &&& 0xFFFFFFFC#32) ||| e.user.setWidth 32 })

/-- A write of IBP or DBP: the word and the buffered U1 and U0 become the entry (R102). -/
def writeBatcPort (side : Side) (v : Word) (s : State) : Res Unit :=
  let m := mmuOf side s
  .ok () (setMmu side s { m with batc := m.batc.set (batcIndex m).toNat ⟨v, m.ir.extractLsb' 0 2⟩ (batcIndex m).isLt })

/-- Both words of what a PATC port names: a page descriptor, or a data breakpoint register (R104, R105); an index above
those names nothing (93_implementation_defined.md P14, entry 34). -/
def portEntry (side : Side) (s : State) : Option (Word × Word) :=
  let m := mmuOf side s
  if h : patcIndex m < 32 then some (m.patc[patcIndex m].upper, m.patc[patcIndex m].lower)
  else
    match side with
    | .instr => none
    | .data =>
      if patcIndex m = 32 then some (s.bp0.lba, s.bp0.control)
      else if patcIndex m = 33 then some (s.bp1.lba, s.bp1.control)
      else none

/-- A read of IPPU or DPPU: the entry is read into the port's two buffers, the upper word is returned (R104, C14). -/
def readPatcUpper (side : Side) (s : State) : Res Word :=
  match portEntry side s with
  | none => .stop .unimplementedAtcIndex
  | some (u, l) => .ok u (setMmu side s { mmuOf side s with ppu := u, ppl := l })

/-- A write of IPPL or DPPL: the buffered upper word and the word written become the entry (R104, R105); reserved bits
of a descriptor hold 0 (P13). -/
def writePatcLower (side : Side) (v : Word) (s : State) : Res Unit :=
  let m := mmuOf side s
  if h : patcIndex m < 32 then
    .ok () (setMmu side s
      { m with patc := m.patc.set (patcIndex m) ⟨m.ppu &&& 0xFFFFF040#32, v &&& 0xFFFFFEC5#32⟩ })
  else
    match side with
    | .instr => .stop .unimplementedAtcIndex
    | .data =>
      if patcIndex m = 32 then .ok () { s with bp0 := ⟨m.ppu, v &&& 0x0000FFFF#32⟩ }
      else if patcIndex m = 33 then .ok () { s with bp1 := ⟨m.ppu, v &&& 0x0000FFFF#32⟩ }
      else .stop .unimplementedAtcIndex

/-! ### The registers of one memory unit, numbered from ICTL and DCTL up -/

/-- The bits of ICTL and DCTL that exist (R94, R95). -/
def ctlLegal : Side → Word
  | .instr => 0x007FC1E5#32
  | .data => 0x007FF9E5#32

/-- The bits of ISR and DSR that exist (R106, R107). -/
def statusLegal : Side → Word
  | .instr => 0x003C0C81#32
  | .data => 0x003F0CC7#32

/-- A read of cr26 + k or cr41 + k. -/
def readMmuReg (side : Side) (k : Nat) (s : State) : Res Word :=
  let m := mmuOf side s
  match k with
  | 0 => .ok m.ctl s
  | 1 => .ok m.sar s
  | 2 => .ok m.sap s
  | 3 => .ok m.uap s
  | 4 => .ok m.ir s
  | 5 => readBatcPort side s
  | 6 => readPatcUpper side s
  | 7 => .ok m.ppl s
  | 8 => .ok m.status s
  | 9 => .ok m.lar s
  | _ => .ok m.par s

/-- A write of cr26 + k or cr41 + k. A write of ISR or DSR has no effect while PSR.EFRZ is 1 (60_exceptions.md R760);
the fault address registers are plain (R91). The word written to IPPL or DPPL reaches the entry, not the read buffer
(R104). -/
def writeMmuReg (side : Side) (k : Nat) (v : Word) (s : State) : Res Unit :=
  let m := mmuOf side s
  match k with
  | 0 => .ok () (setMmu side s { m with ctl := v &&& ctlLegal side })
  | 1 => .ok () (setMmu side s { m with sar := v })
  | 2 => .ok () (setMmu side s { m with sap := v &&& 0xFFFFFEC1#32 })
  | 3 => .ok () (setMmu side s { m with uap := v &&& 0xFFFFFEC1#32 })
  | 4 => .ok () (setMmu side s { m with ir := v &&& 0x0003F703#32 })
  | 5 => writeBatcPort side v s
  | 6 => .ok () (setMmu side s { m with ppu := v })
  | 7 => writePatcLower side v s
  | 8 => .ok () (if psrEfrz s then s else setMmu side s { m with status := v &&& statusLegal side })
  | 9 => .ok () (setMmu side s { m with lar := v })
  | _ => .ok () (setMmu side s { m with par := v })

/-! ### Commands -/

/-- The command of a word written to ICMD (R92); a reserved code, or a word with bits 31 to 4 not all zero, starts
nothing (P11). -/
def instrCommand (v : Word) (s : State) : Res Unit :=
  match v.toNat with
  | 1 => .ok () (invalidateICache s)
  | 2 => .ok () (invalidateTic s)
  | 5 => .ok () (invalidateILine s s.imu.sar)
  | 8 => .ok () (probe .instr true s)
  | 9 => .ok () (probe .instr false s)
  | 10 => .ok () (invalidatePatc .instr true s)
  | 11 => .ok () (invalidatePatc .instr false s)
  | _ => .ok () s

/-- A flush command's end: its copyback error is a data access exception (22_caches.md R335). -/
def flushed : MRes Unit → Res Unit
  | .ok _ s => .ok () s
  | .fail f s => .trap f.exc (recordFault .data true 0#32 f s)

/-- The command of a word written to DCMD (R93, P11). -/
def dataCommand (v : Word) (s : State) : Res Unit :=
  match v.toNat with
  | 0 => flushed (flushPage false s.dmu.sar s)
  | 1 => .ok () (invalidateDCache s)
  | 2 => flushed (flushAll false s)
  | 3 => flushed (flushAll true s)
  | 4 => flushed (flushPage true s.dmu.sar s)
  | 5 => .ok () (invalidateDLine s s.dmu.sar)
  | 6 => flushed (flushLineAt false s.dmu.sar s)
  | 7 => flushed (flushLineAt true s.dmu.sar s)
  | 8 => .ok () (probe .data true s)
  | 9 => .ok () (probe .data false s)
  | 10 => .ok () (invalidatePatc .data true s)
  | 11 => .ok () (invalidatePatc .data false s)
  | _ => .ok () s

/-! ### General control registers -/

/-- PSR <- v by stcr or xcr (10_state.md R33 to R44); clearing MODE opens the window in which fetches have either
address space (70_reset_and_hazards.md R830). -/
def writePsr (v : Word) (s : State) : State :=
  { s with psr := psrLegal v, modeWindow := if psrMode s && !v.getLsbD 31 then Config.modeSwitchWindow else s.modeWindow }

/-- What a read of control register n returns and does (10_state.md R30). -/
def readCr (n : BitVec 6) (s : State) : Res Word :=
  if crUnimplemented n then .trap .unimplementedOpcode s
  else
    match n.toNat with
    | 0 => .ok (pidValue s) s
    | 1 => .ok s.psr s
    | 2 => .ok s.epsr s
    | 4 => .ok s.exip s
    | 5 => .ok s.enip s
    | 7 => .ok s.vbr s
    | 14 => .ok (Config.freeWord s.draws) (drawn s)
    | 15 => .ok (Config.freeWord s.draws) (drawn s)
    | 16 => .ok s.sr0 s
    | 17 => .ok s.sr1 s
    | 18 => .ok s.sr2 s
    | 19 => .ok s.sr3 s
    | 20 => .ok s.sr4 s
    | 25 => .ok 0xFFFFFFFF#32 s
    | 40 => .ok 0xFFFFFFFF#32 s
    | k => if k < 40 then readMmuReg .instr (k - 26) s else readMmuReg .data (k - 41) s

/-- What a write of v to control register n does (10_state.md R30, D4). -/
def writeCr (n : BitVec 6) (v : Word) (s : State) : Res Unit :=
  if crUnimplemented n then .trap .unimplementedOpcode s
  else
    match n.toNat with
    | 0 => .ok () s
    | 1 => .ok () (writePsr v s)
    | 2 => .ok () { s with epsr := psrLegal v }
    | 4 => .ok () { s with exip := v &&& 0xFFFFFFFD#32 }
    | 5 => .ok () { s with enip := v &&& 0xFFFFFFFC#32 }
    | 7 => .ok () { s with vbr := v &&& 0xFFFFF000#32 }
    | 14 => .ok () s
    | 15 => .ok () s
    | 16 => .ok () { s with sr0 := v }
    | 17 => .ok () { s with sr1 := v }
    | 18 => .ok () { s with sr2 := v }
    | 19 => .ok () { s with sr3 := v }
    | 20 => .ok () { s with sr4 := v }
    | 25 => instrCommand v s
    | 40 => dataCommand v s
    | k => if k < 40 then writeMmuReg .instr (k - 26) v s else writeMmuReg .data (k - 41) v s

/-! ### Floating-point control registers -/

/-- The checks of fldcr, fstcr and fxcr (45_load_store.md R638): the exception, if one is raised. -/
def fcrFault (n : BitVec 6) (s : State) : Option State :=
  if psrSfd1 s then some (setFunimp s)
  else if !psrMode s && decide (n.toNat ≤ 61) then some (setFpecr s 0x20#32)
  else if psrMode s && decide (1 ≤ n.toNat) && decide (n.toNat ≤ 61) then some (setFunimp s)
  else none

/-- The value of fcr0, fcr62 or fcr63 (10_state.md R52). -/
def readFcr (n : BitVec 6) (s : State) : Word :=
  if n = 62#6 then s.fpsr else if n = 63#6 then s.fpcr else s.fpecr

/-- fcr0, fcr62 or fcr63 <- v, reserved bits 0 (R54, R55, R56). -/
def writeFcr (n : BitVec 6) (v : Word) (s : State) : State :=
  if n = 62#6 then { s with fpsr := v &&& 0x0001001F#32 }
  else if n = 63#6 then { s with fpcr := v &&& 0x0026C01F#32 }
  else { s with fpecr := v &&& 0x000000FF#32 }

end Sys2Proof.Machine
end

