-- ==== Sys2Proof/Machine/Fetch.lean ====
section
/-!
DEFINITION. The fetch of the instruction at XIP (22_caches.md R298, 60_exceptions.md R745) and the target instruction
cache (46_flow_control.md R690, entry 40), and the words that are fetched ahead (20_memory.md R197, entry 69).
-/

namespace Sys2Proof.Machine

/-! ### The target instruction cache -/

/-- The TIC is used: ICTL.BEN is 1 and DBUG is negated (12_cache_mmu_state.md R94, D37). -/
def ticOn (s : State) : Bool := ctlBen s.imu.ctl && !s.env.dbug

/-- The tag of a branch at address a: S/U and the upper 30 bits of its address (R117). S/U is PSR.MODE, also in the
window after MODE was cleared (entry 40). -/
def ticTagAt (s : State) (a : Word) : BitVec 31 := BitVec.ofBool (psrMode s) ++ a.extractLsb' 2 30

/-- The tag of the branch at XIP. -/
def ticTag (s : State) : BitVec 31 := ticTagAt s s.xip

/-- The valid entry with the tag, if there is one. -/
def ticLookup (s : State) (tag : BitVec 31) : Option TicEntry := s.tic.toList.find? fun e => e.valid && e.tag == tag

/-- How the fetch of a delay slot is answered: as it was already settled. -/
def delaySupply (s : State) (n : Bool) : List (Option Word) := if n then s.ticSupply.take 1 else []

/-- A change of flow the TIC takes no part in: jmp, jsr, and every branch while the TIC is disabled. -/
def ticSkip (n : Bool) (s : State) : State := { s with ticSupply := delaySupply s n, ticFill := none }

/-- A taken branch to t: a hit answers the first two fetches at the target; after a miss an entry is filled, or not
(R690: conditions that depend on the issue timing, so a free choice). -/
def ticTaken (n : Bool) (t : Word) (s : State) : State :=
  if ticOn s then
    match ticLookup s (ticTag s) with
    | some e =>
      { s with
        ticSupply := (if n then [s.ticSupply.headD none] else []) ++ [some e.first, some e.second]
        ticFill := none }
    | none =>
      { s with
        ticSupply := delaySupply s n
        ticFill := if Config.freeBool s.draws then some ⟨ticTag s, t, n⟩ else none
        draws := s.draws + 1 }
  else ticSkip n s

/-- Where a new TIC entry goes: to the first invalid entry from the FIFO pointer on, else to the oldest, which is the
pointer's (R690, R117). -/
def ticSlot (s : State) : Fin 32 :=
  (((List.finRange 32).map fun i => s.ticFifo + i).find? fun i => !s.tic[i].valid).getD s.ticFifo

/-- A new TIC entry; the pointer moves behind it, so that it names the oldest entry when all are valid. -/
def ticInsert (e : TicEntry) (s : State) : State :=
  { s with tic := s.tic.set (ticSlot s).val e (ticSlot s).isLt, ticFifo := ticSlot s + 1 }

/-- A waiting TIC entry sees a fetch: the delay slot's is passed over, the target's fills the entry when its two words
came together (R690). A TIC that was disabled meanwhile is not updated (R94). -/
def ticSee (at_ : Word) (f : Fetched) (s : State) : State :=
  match s.ticFill with
  | none => s
  | some p =>
    if !ticOn s then { s with ticFill := none }
    else if p.wait then { s with ticFill := some { p with wait := false } }
    else
      match f.next with
      | some w =>
        if p.target = at_ then ticInsert ⟨true, p.tag, f.word, w⟩ { s with ticFill := none }
        else { s with ticFill := none }
      | none => { s with ticFill := none }

/-- The fetches after a write of a control register are made anew (70_reset_and_hazards.md R831, 22_caches.md R352). -/
def refetch (s : State) : State := { s with ticSupply := [], ticFill := none }

/-! ### Fetch -/

/-- The address space of the fetch of the instruction that k others come before: PSR.MODE, or either one in the window
after MODE was cleared (70_reset_and_hazards.md R830). -/
def fetchSpace (k : Nat) (s : State) : Bool × State :=
  if s.modeWindow ≤ k then (psrMode s, s) else (Config.freeBool s.draws, drawn s)

/-- The window counts instructions, wherever their words come from (R830). -/
def countWindow (s : State) : State := { s with modeWindow := s.modeWindow - 1 }

/-- An instruction-side fault becomes the exception it names, its detail registers recorded (60_exceptions.md R745). -/
def settleFetch {α : Type} (su : Bool) (la : Word) : MRes α → Res α
  | .ok a s => .ok a s
  | .fail f s => .trap f.exc (recordFault .instr su la f s)

/-- The fetch by way of the instruction MMU and the instruction cache. -/
def fetchMemory (su : Bool) (a : Word) (s : State) : MRes Fetched :=
  match translate .instr su false a s with
  | .fail f s' => .fail f s'
  | .ok x s' => fetchWord x su s'

/-- The word at XIP from the instruction cache or memory. An uncached fetch reads a double word and keeps of it the word
at XIP alone, the model's choice (entry 75). -/
def fetchNew (s : State) : Res Word :=
  let r := fetchSpace 0 s
  match settleFetch r.1 s.xip (fetchMemory r.1 s.xip (countWindow r.2)) with
  | .ok f s' => .ok f.word (ticSee s.xip f s')
  | .trap e s' => .trap e s'
  | .stop f => .stop f

/-- The word at XIP when the TIC does not supply it: a prefetched word, as it was then, or a new fetch (20_memory.md
R197). Prefetched words of another path are dropped. A prefetched word at the target of a branch fills no TIC entry, the
model's choice (entry 76). -/
def fetchAhead (s : State) : Res Word :=
  match s.prefetched with
  | [] => fetchNew s
  | p :: ps =>
    if p.addr = s.xip then .ok p.word (ticSee s.xip ⟨p.word, none⟩ { countWindow s with prefetched := ps })
    else fetchNew { s with prefetched := [] }

/-- The word at XIP. -/
def fetch (s : State) : Res Word :=
  match s.ticSupply with
  | some w :: rest => .ok w (ticSee s.xip ⟨w, none⟩ { countWindow s with ticSupply := rest, prefetched := [] })
  | supply => fetchAhead { s with ticSupply := supply.tail }

/-! ### Fetching ahead (20_memory.md R197, entry 69) -/

/-- The word at a, fetched before it is known to be needed, k instructions ahead of the next: a fault raises nothing
(60_exceptions.md R745), and the translation tables are not searched. -/
def prefetchWord (k : Nat) (a : Word) (s : State) : Option Word × State :=
  let r := fetchSpace k s
  match translate .instr r.1 false a r.2 with
  | .fail _ _ => (none, s)
  | .ok x s1 =>
    if s1.imu = s.imu then
      match fetchWord x r.1 s1 with
      | .ok f s2 => (some f.word, s2)
      | .fail _ s2 => (none, s2)
    else (none, s)

/-- Up to n words from a on, the first k instructions ahead of the next, until one cannot be fetched. -/
def prefetchFrom : Nat → Nat → Word → State → List Prefetched × State
  | 0, _, _, s => ([], s)
  | n + 1, k, a, s =>
    let r := prefetchWord k a s
    match r.1 with
    | none => ([], r.2)
    | some w =>
      let q := prefetchFrom n (k + 1) (a + 4#32) r.2
      (⟨a, w⟩ :: q.1, q.2)

/-- The prefetch of a step: as many words as the script says, behind those already there. A word that the TIC is about to
supply is prefetched too, the model's choice (entry 76). -/
def lookAhead (s : State) : State :=
  match s.script.ahead with
  | [] => s
  | k :: ks =>
    let from_ := match s.prefetched.getLast? with
      | some p => p.addr + 4#32
      | none => s.xip + 4#32
    let r := prefetchFrom k s.prefetched.length from_ { s with script := { s.script with ahead := ks } }
    { r.2 with prefetched := r.2.prefetched ++ r.1 }

/-- The words at the target of a branch at address a that need no fetch: the two that the TIC holds (R690). -/
def ticWords (s : State) (a : Word) : List (Option Word) :=
  if ticOn s then
    match ticLookup s (ticTagAt s a) with
    | some e => [some e.first, some e.second]
    | none => []
  else []

/-- A path that is followed ahead of the program: the addresses of its next two words, as XIP and NIP, and what the TIC
supplies of it. -/
structure Path where
  here : Word
  next : Word
  supply : List (Option Word)
  deriving DecidableEq, Repr

/-- The path that starts at an address. -/
def Path.at (a : Word) (supply : List (Option Word)) : Path := ⟨a, a + 4#32, supply⟩

/-- Whether the path leaves the sequence at word w of address a: with a delay slot or not, to which target, and with
which words of it from the TIC. br and bsr always do, a conditional branch and a jump as the turn says; every other
instruction is followed by the next one. -/
def pathBranch (u : Turn) (w a : Word) (s : State) : Option (Bool × Word × List (Option Word)) :=
  match decodeWord w with
  | .ok (.br n d) => some (n, target26 a d, ticWords s a)
  | .ok (.bsr n d) => some (n, target26 a d, ticWords s a)
  | .ok (.bb0 n _ _ d) => if u.taken then some (n, target16 a d, ticWords s a) else none
  | .ok (.bb1 n _ _ d) => if u.taken then some (n, target16 a d, ticWords s a) else none
  | .ok (.bcnd n _ _ d) => if u.taken then some (n, target16 a d, ticWords s a) else none
  | .ok (.jmp n _) => some (n, targetReg u.target, [])
  | .ok (.jsr n _) => some (n, targetReg u.target, [])
  | .ok _ => none
  | .error _ => none

/-- The path behind its word w (R661). -/
def Path.step (p : Path) (u : Turn) (w : Word) (s : State) : Path :=
  match pathBranch u w p.here s with
  | none => ⟨p.next, p.next + 4#32, p.supply.tail⟩
  | some (false, t, l) => Path.at t l
  | some (true, t, l) => ⟨p.next, t, p.supply.tail.headD none :: l⟩

/-- The next word of the path, from the TIC or fetched, k instructions ahead of the next. -/
def Path.word (p : Path) (k : Nat) (s : State) : Option Word × State :=
  match p.supply.headD none with
  | some w => (some w, s)
  | none => prefetchWord k p.here s

/-- The words of a path, one for each turn, the first k instructions ahead of the next, until one cannot be fetched; the
words themselves are dropped. -/
def fetchPath : List Turn → Nat → Path → State → State
  | [], _, _, s => s
  | u :: us, k, p, s =>
    let r := p.word k s
    match r.1 with
    | none => r.2
    | some w => fetchPath us (k + 1) (p.step u w r.2) r.2

/-- The path that the branch at XIP is predicted to take: to its target t, of which the TIC may hold the first two words,
or to what follows it, of which the TIC may still be supplying words (46_flow_control.md R668, R690). -/
def predictedPath (predicted n : Bool) (t : Word) (s : State) : Path :=
  if predicted then Path.at t (ticWords s s.xip)
  else if n then Path.at (s.xip + 8#32) s.ticSupply.tail
  else Path.at (s.xip + 4#32) s.ticSupply

/-- A wrong prediction: as many words as the script says, at most the twelve of the history buffer, are fetched along
the predicted path, from the target t or from what follows the branch, where the TIC does not supply them, and dropped
(46_flow_control.md R668, 70_reset_and_hazards.md R808). Words of that path that were already prefetched are fetched
again, the model's choice (entry 74). -/
def wrongPath (predicted taken n : Bool) (t : Word) (s : State) : State :=
  if ctlPren s.imu.ctl && (predicted != taken) then
    match s.script.guesses with
    | [] => s
    | us :: gs =>
      fetchPath (us.take 12) (if n then 1 else 0) (predictedPath predicted n t s)
        { s with script := { s.script with guesses := gs } }
  else s

/-! ### Placing an instruction -/

/-- Bytes stored into the instruction cache line that holds the address, where one does. -/
def patchILine (s : State) (a : Word) (bs : List Byte) : State :=
  if iCacheOn s then
    match iHit s a with
    | some way => setILine s a way { iLine s a way with data := mergeLine (iLine s a way).data (lineOffset a) bs }
    | none => s
  else s

/-- The word w stored where the next fetch reads: at the physical address XIP translates to, and in the instruction
cache line that holds it; a word the TIC was about to supply gives way, and so do prefetched words. -/
def placeWord (w : Word) (s : State) : State :=
  let pa :=
    match translate .instr (psrMode s) false s.xip s with
    | .ok x _ => x.pa
    | .fail _ _ => s.xip
  let t := patchILine (writeBytes s pa (bytesOfWord w)) pa (bytesOfWord w)
  { t with ticSupply := (match s.ticSupply with | some _ :: rest => none :: rest | supply => supply), prefetched := [] }

end Sys2Proof.Machine
end

