-- ==== Sys2Proof/Machine/ControlRegs.lean ====
section
/-!
DEFINITION. The control-register instructions (45_load_store.md R638 to R645).
-/

namespace Sys2Proof.Machine

/-- A privileged instruction (R639). -/
def privileged (s : State) (k : State → Res Unit) : Res Unit :=
  if psrMode s then k s else .trap .privilege s

/-- A read of a control register into r[d]. -/
def readCrInto (d : RegNum) (cr : BitVec 6) (s : State) : Res Unit :=
  match readCr cr s with
  | .ok v s' => .ok () (writeReg s' d v)
  | .trap e s' => .trap e s'
  | .stop f => .stop f

/-- A write of a control register; the following fetch is made anew. -/
def writeCrFrom (cr : BitVec 6) (v : Word) (s : State) : Res Unit :=
  match writeCr cr v s with
  | .ok _ s' => .ok () (refetch s')
  | .trap e s' => .trap e s'
  | .stop f => .stop f

/-- The exchange: the read with its effects, the write with its effects, then r[d] (R642). -/
def exchangeCr (d : RegNum) (cr : BitVec 6) (v : Word) (s : State) : Res Unit :=
  match readCr cr s with
  | .ok old s' =>
    match writeCrFrom cr v s' with
    | .ok _ s'' => .ok () (writeReg s'' d old)
    | .trap e s'' => .trap e s''
    | .stop f => .stop f
  | .trap e s' => .trap e s'
  | .stop f => .stop f

/-- ldcr rD,crS (R640). -/
def execLdcr (d : RegNum) (cr : BitVec 6) (s : State) : Host.Outcome State Fault Refusal :=
  finish (privileged s (readCrInto d cr))

/-- stcr rS1,crD (R641); a word whose two source fields differ is a reserved encoding (30_encoding.md R369). -/
def execStcr (s1 : RegNum) (cr : BitVec 6) (s2 : RegNum) (s : State) : Host.Outcome State Fault Refusal :=
  if s1 = s2 then finish (privileged s (writeCrFrom cr (readReg s s1))) else raiseReserved .base s

/-- xcr rD,rS1,crS/D (R642); two different source fields as in stcr. -/
def execXcr (d s1 : RegNum) (cr : BitVec 6) (s2 : RegNum) (s : State) : Host.Outcome State Fault Refusal :=
  if s1 = s2 then finish (privileged s (exchangeCr d cr (readReg s s1))) else raiseReserved .base s

/-- fldcr rD,fcrS (R643). -/
def execFldcr (d : RegNum) (cr : BitVec 6) (s : State) : Host.Outcome State Fault Refusal :=
  match fcrFault cr s with
  | some t => raise .sfu1 t
  | none => result d (readFcr cr s) s

/-- fstcr rS1,fcrD (R644); a word whose two source fields differ is no fstcr: a reserved encoding (R369) of the base
processor's space, which major opcode 100000 belongs to (30_encoding.md R364 (1)). -/
def execFstcr (s1 : RegNum) (cr : BitVec 6) (s2 : RegNum) (s : State) : Host.Outcome State Fault Refusal :=
  if s1 = s2 then
    match fcrFault cr s with
    | some t => raise .sfu1 t
    | none => done (writeFcr cr (readReg s s1) s)
  else raiseReserved .base s

/-- fxcr rD,rS1,fcrS/D (R645); two different source fields as in fstcr. -/
def execFxcr (d s1 : RegNum) (cr : BitVec 6) (s2 : RegNum) (s : State) : Host.Outcome State Fault Refusal :=
  if s1 = s2 then
    match fcrFault cr s with
    | some t => raise .sfu1 t
    | none => result d (readFcr cr s) (writeFcr cr (readReg s s1) s)
  else raiseReserved .base s

end Sys2Proof.Machine
end

