-- ==== Sys2Proof/Machine/Fp.lean ====
section
/-!
DEFINITION. Floating-point arithmetic (43_floating_point.md R490 to R500, R508 to R511): operands as exact values, the
exact operation, one rounding, and the conditions with their default results.
-/

namespace Sys2Proof.Machine

/-! ### Formats and operands (R490, R491) -/

/-- The precision of a format in bits, the leading bit included. -/
def fpPrec : FpSize → Nat
  | .single => 24
  | .double => 53
  | .ext => 64
  | .unused => 64

/-- The exponent bias of a format, which is also its largest exponent. -/
def fpBias : FpSize → Nat
  | .single => 127
  | .double => 1023
  | .ext => 16383
  | .unused => 16383

/-- The biased exponent of infinities and NaNs: all ones. -/
def fpTop : FpSize → Nat
  | .single => 255
  | .double => 2047
  | .ext => 32767
  | .unused => 32767

/-- What an operand stands for (R491); m is positive, the value (-1)^neg * m * 2^e. -/
inductive FpVal where
  | nan (neg : Bool)
  /-- A denormalized or an unnormalized number, a reserved operand. -/
  | denorm (neg : Bool)
  | inf (neg : Bool)
  | zero (neg : Bool)
  | num (neg : Bool) (m : Nat) (e : Int)
  deriving DecidableEq, Repr

/-- The biased exponent field of a left-justified operand (10_state.md R29). -/
def fpExponent (t : FpSize) (v : XWord) : Nat :=
  match t with
  | .single => (v.extractLsb' 71 8).toNat
  | .double => (v.extractLsb' 68 11).toNat
  | .ext => (v.extractLsb' 64 15).toNat
  | .unused => (v.extractLsb' 64 15).toNat

/-- The mantissa field without the leading bit. -/
def fpFraction (t : FpSize) (v : XWord) : Nat :=
  match t with
  | .single => (v.extractLsb' 48 23).toNat
  | .double => (v.extractLsb' 16 52).toNat
  | .ext => (v.extractLsb' 0 63).toNat
  | .unused => (v.extractLsb' 0 63).toNat

/-- The leading bit: hidden in the two shorter formats, bit 63 in the extended one (R491). -/
def fpLeading (t : FpSize) (v : XWord) : Bool :=
  match t with
  | .single => fpExponent t v != 0
  | .double => fpExponent t v != 0
  | .ext => v.getLsbD 63
  | .unused => v.getLsbD 63

/-- The class and value of an operand (R491). -/
def fpUnpack (t : FpSize) (v : XWord) : FpVal :=
  let neg := v.getLsbD 79
  let e := fpExponent t v
  let m := fpFraction t v
  if e = fpTop t then (if m = 0 then .inf neg else .nan neg)
  else if e = 0 then (if m = 0 ∧ fpLeading t v = false then .zero neg else .denorm neg)
  else if fpLeading t v then
    .num neg (2 ^ (fpPrec t - 1) + m) ((e : Int) - (fpBias t : Int) - ((fpPrec t - 1 : Nat) : Int))
  else .denorm neg

/-- The sign of an operand. -/
def FpVal.sign : FpVal → Bool
  | .nan n => n
  | .denorm n => n
  | .inf n => n
  | .zero n => n
  | .num n _ _ => n

/-- A NaN, denormalized or unnormalized operand (R498). -/
def FpVal.reserved : FpVal → Bool
  | .nan _ => true
  | .denorm _ => true
  | .inf _ => false
  | .zero _ => false
  | .num _ _ _ => false

/-- The value with its sign inverted. -/
def FpVal.negate : FpVal → FpVal
  | .nan n => .nan !n
  | .denorm n => .denorm !n
  | .inf n => .inf !n
  | .zero n => .zero !n
  | .num n m e => .num (!n) m e

/-- The format's word from a sign, a biased exponent, a leading bit and a mantissa, left justified (R490). -/
def fpAssemble (t : FpSize) (neg : Bool) (e : Nat) (lead : Bool) (m : Nat) : XWord :=
  match t with
  | .single => BitVec.ofBool neg ++ BitVec.ofNat 8 e ++ BitVec.ofNat 23 m ++ 0#48
  | .double => BitVec.ofBool neg ++ BitVec.ofNat 11 e ++ BitVec.ofNat 52 m ++ 0#16
  | .ext => BitVec.ofBool neg ++ BitVec.ofNat 15 e ++ BitVec.ofBool lead ++ BitVec.ofNat 63 m
  | .unused => BitVec.ofBool neg ++ BitVec.ofNat 15 e ++ BitVec.ofBool lead ++ BitVec.ofNat 63 m

/-- What the hardware writes for a value (R498: the universal NaN; R499: an infinity's leading bit is 0); a number has
exactly the format's precision. Reserved numbers are never written. -/
def fpPack (t : FpSize) : FpVal → XWord
  | .nan n => fpAssemble t n (fpTop t) true (3 * 2 ^ (fpPrec t - 3))
  | .denorm n => fpAssemble t n 0 false 0
  | .inf n => fpAssemble t n (fpTop t) false 0
  | .zero n => fpAssemble t n 0 false 0
  | .num n m e =>
    fpAssemble t n (e + (fpBias t : Int) + ((fpPrec t - 1 : Nat) : Int)).toNat true (m - 2 ^ (fpPrec t - 1))

/-! ### FPCR (10_state.md R55) -/

/-- TCFP. -/
def fpcrTcfp (c : Word) : Bool := c.getLsbD 21
/-- TCFPUNF. -/
def fpcrTcfpUnf (c : Word) : Bool := c.getLsbD 18
/-- TCFPOVF. -/
def fpcrTcfpOvf (c : Word) : Bool := c.getLsbD 17
/-- RM. -/
def fpcrRm (c : Word) : BitVec 2 := c.extractLsb' 14 2
/-- EFINX. -/
def fpcrEfinx (c : Word) : Bool := c.getLsbD 0

/-! ### Rounding (R492) -/

/-- Whether a magnitude whose dropped bits are r out of 2 * half is rounded away from zero. -/
def roundsUp (rm : BitVec 2) (neg odd : Bool) (r half : Nat) : Bool :=
  if rm = 0#2 then decide (half < r) || (decide (r = half) && odd)
  else if rm = 1#2 then false
  else if rm = 2#2 then neg && decide (r ≠ 0)
  else !neg && decide (r ≠ 0)

/-- The magnitude m with its lowest k bits rounded off, k > 0, and whether that was inexact. -/
def roundOff (rm : BitVec 2) (neg : Bool) (m k : Nat) : Nat × Bool :=
  let q := m / 2 ^ k
  let r := m % 2 ^ k
  (if roundsUp rm neg (q % 2 == 1) r (2 ^ (k - 1)) then q + 1 else q, decide (r ≠ 0))

/-- The value m * 2^e at p bits of precision and any exponent: its magnitude, exponent, and whether it is inexact. -/
def roundTo (rm : BitVec 2) (neg : Bool) (p m : Nat) (e : Int) : Nat × Int × Bool :=
  let n := m.log2 + 1
  if n ≤ p then (m, e, false)
  else
    let q := roundOff rm neg m (n - p)
    (q.1, e + ((n - p : Nat) : Int), q.2)

/-! ### Results (R498, R499) -/

/-- The end of a floating-point computation: a value for the destination, whether FPSR.AFINX is set with it, or the
causes of an SFU1 exception. -/
inductive FpOut where
  | value (v : FpVal) (afinx : Bool)
  | trap (causes : Word)
  deriving DecidableEq, Repr

/-- FPECR.FROP or the universal NaN (R498). -/
def fpInvalid (fpcr : Word) (neg : Bool) : FpOut :=
  if fpcrTcfp fpcr then .value (.nan neg) false else .trap 0x10#32

/-- Overflow (R499). -/
def fpOverflow (fpcr : Word) (neg : Bool) : FpOut :=
  if fpcrTcfp fpcr || fpcrTcfpOvf fpcr then .value (.inf neg) Config.tcfpSetsAfinx else .trap 0x03#32

/-- Underflow (R499). -/
def fpUnderflow (fpcr : Word) (neg : Bool) : FpOut :=
  if fpcrTcfp fpcr || fpcrTcfpUnf fpcr then .value (.zero neg) Config.tcfpSetsAfinx else .trap 0x04#32

/-- Whether an inexact result sets AFINX, or none when it raises the exception (R499). -/
def fpInexact (fpcr : Word) : Option Bool :=
  if fpcrTcfp fpcr then some Config.tcfpSetsAfinx
  else if fpcrEfinx fpcr then none else some true

/-- The magnitude q, which fits in p bits or is 2^p, brought to exactly p bits. -/
def fpNormalize (p q : Nat) : Nat :=
  if p - 1 ≤ q.log2 then q / 2 ^ (q.log2 - (p - 1)) else q * 2 ^ (p - 1 - q.log2)

/-- A nonzero exact value delivered at a size (R499). -/
def fpDeliverNum (fpcr : Word) (td : FpSize) (neg : Bool) (m : Nat) (e : Int) : FpOut :=
  let r := roundTo (fpcrRm fpcr) neg (fpPrec td) m e
  let top := r.2.1 + (r.1.log2 : Int)
  let v := FpVal.num neg (fpNormalize (fpPrec td) r.1) (top - ((fpPrec td - 1 : Nat) : Int))
  if (fpBias td : Int) < top then fpOverflow fpcr neg
  else if top < 1 - (fpBias td : Int) then fpUnderflow fpcr neg
  else if r.2.2 then
    match fpInexact fpcr with
    | some a => .value v a
    | none => .trap 0x01#32
  else .value v false

/-- An exact value delivered at a size (R499, R500). -/
def fpDeliver (fpcr : Word) (td : FpSize) : FpVal → FpOut
  | .nan n => .value (.nan n) false
  | .denorm n => .value (.denorm n) false
  | .inf n => .value (.inf n) false
  | .zero n => .value (.zero n) false
  | .num n m e => fpDeliverNum fpcr td n m e

/-! ### The exact operations (R500 to R504) -/

/-- The integer a finite value is at exponent e, which is not above its own. -/
def fpScaled (v : FpVal) (e : Int) : Int :=
  match v with
  | .num n m k => (if n then -1 else 1) * ((m * 2 ^ (k - e).toNat : Nat) : Int)
  | .nan _ => 0
  | .denorm _ => 0
  | .inf _ => 0
  | .zero _ => 0

/-- The exponent of a value, 0 where it has none. -/
def FpVal.exponent : FpVal → Int
  | .num _ _ e => e
  | .nan _ => 0
  | .denorm _ => 0
  | .inf _ => 0
  | .zero _ => 0

/-- The sum of two nonzero finite values; an exact zero is -0 when rounding toward negative infinity (R500). -/
def fpSum (rm : BitVec 2) (a b : FpVal) : FpVal :=
  let e := min a.exponent b.exponent
  let v := fpScaled a e + fpScaled b e
  if v = 0 then .zero (rm == 2#2) else .num (decide (v < 0)) v.natAbs e

/-- The exact sum, none where it is invalid (R498, R500). Reserved operands do not reach it. -/
def fpAddExact (rm : BitVec 2) (a b : FpVal) : Option FpVal :=
  match a, b with
  | .inf n, .inf m => if n = m then some (.inf n) else none
  | .inf n, _ => some (.inf n)
  | _, .inf m => some (.inf m)
  | .zero n, .zero m => some (.zero (if n = m then n else rm == 2#2))
  | .zero _, b => some b
  | a, .zero _ => some a
  | a, b => some (fpSum rm a b)

/-- The exact product, none where it is invalid (R498, R500). -/
def fpMulExact (a b : FpVal) : Option FpVal :=
  let n := a.sign != b.sign
  match a, b with
  | .inf _, .zero _ => none
  | .zero _, .inf _ => none
  | .inf _, _ => some (.inf n)
  | _, .inf _ => some (.inf n)
  | .zero _, _ => some (.zero n)
  | _, .zero _ => some (.zero n)
  | .num _ m e, .num _ k f => some (.num n (m * k) (e + f))
  | a, _ => some a

/-- The quotient of two nonzero finite values, to far more bits than any format has; the last bit says whether anything
nonzero follows, so that one rounding of it is the rounding of the exact quotient (R492). -/
def fpQuotient (n : Bool) (m : Nat) (e : Int) (k : Nat) (f : Int) : FpVal :=
  let w := m * 2 ^ 130
  .num n (2 * (w / k) + (if w % k = 0 then 0 else 1)) (e - f - 131)

/-- The exact quotient of operands that are not both zero and not both infinite, the divisor not zero for a finite
dividend (R500, R504). -/
def fpDivExact (a b : FpVal) : FpVal :=
  let n := a.sign != b.sign
  match a, b with
  | .inf _, _ => .inf n
  | _, .inf _ => .zero n
  | .zero _, _ => .zero n
  | .num _ m e, .num _ k f => fpQuotient n m e k f
  | _, _ => .inf n

/-- fadd of two operands (R501). -/
def fpAdd (fpcr : Word) (td : FpSize) (a b : FpVal) : FpOut :=
  if a.reserved || b.reserved then fpInvalid fpcr false
  else
    match fpAddExact (fpcrRm fpcr) a b with
    | some v => fpDeliver fpcr td v
    | none => fpInvalid fpcr false

/-- fmul of two operands (R503). -/
def fpMul (fpcr : Word) (td : FpSize) (a b : FpVal) : FpOut :=
  let n := a.sign != b.sign
  if a.reserved || b.reserved then fpInvalid fpcr n
  else
    match fpMulExact a b with
    | some v => fpDeliver fpcr td v
    | none => fpInvalid fpcr n

/-- The operand is a zero. -/
def FpVal.isZero : FpVal → Bool
  | .zero _ => true
  | .nan _ => false
  | .denorm _ => false
  | .inf _ => false
  | .num _ _ _ => false

/-- The operand is an infinity. -/
def FpVal.isInf : FpVal → Bool
  | .inf _ => true
  | .nan _ => false
  | .denorm _ => false
  | .zero _ => false
  | .num _ _ _ => false

/-- fdiv of two operands (R504). -/
def fpDiv (fpcr : Word) (td : FpSize) (a b : FpVal) : FpOut :=
  let n := a.sign != b.sign
  if a.reserved || b.reserved || (a.isZero && b.isZero) || (a.isInf && b.isInf) then fpInvalid fpcr n
  else if b.isZero && !a.isInf then
    (if fpcrTcfp fpcr then .value (.inf n) false else .trap 0x08#32)
  else fpDeliver fpcr td (fpDivExact a b)

/-- fcvt of an operand (R506, D33). -/
def fpConvert (fpcr : Word) (td : FpSize) (a : FpVal) : FpOut :=
  if a.reserved then fpInvalid fpcr false else fpDeliver fpcr td a

/-- The value of a signed integer (R507). -/
def fpOfInt (n : Int) : FpVal := if n = 0 then .zero false else .num (decide (n < 0)) n.natAbs 0

/-! ### Conversion to an integer (R508 to R510) -/

/-- The end of a conversion: the register's value, whether AFINX is set, or the causes of an SFU1 exception. -/
inductive IntOut where
  | value (v : Word) (afinx : Bool)
  | trap (causes : Word)
  deriving DecidableEq, Repr

/-- The large integer of TCFP mode (R498). -/
def largeInteger (neg : Bool) : Word := if neg then 0x80000000#32 else 0x40000000#32

/-- FPECR.FIOV or the large integer (R508). -/
def intOverflowOut (fpcr : Word) (neg : Bool) : IntOut :=
  if fpcrTcfp fpcr then .value (largeInteger neg) false else .trap 0x80#32

/-- The integer nearest to m * 2^e in the rounding mode, as a magnitude, and whether it is inexact. -/
def roundToInteger (rm : BitVec 2) (neg : Bool) (m : Nat) (e : Int) : Nat × Bool :=
  if 0 ≤ e then (m * 2 ^ e.toNat, false) else roundOff rm neg m (-e).toNat

/-- A nonzero finite operand converted: the range is tested on the rounded integer (D32). -/
def fpToIntNum (fpcr : Word) (rm : BitVec 2) (neg : Bool) (m : Nat) (e : Int) : IntOut :=
  let r := roundToInteger rm neg m e
  let n : Int := if neg then -(r.1 : Int) else (r.1 : Int)
  if n < -2147483648 ∨ 2147483647 < n then intOverflowOut fpcr neg
  else if r.2 then
    match fpInexact fpcr with
    | some a => .value (BitVec.ofInt 32 n) a
    | none => .trap 0x01#32
  else .value (BitVec.ofInt 32 n) false

/-- int, nint and trnc of an operand in a rounding mode (R498, R508). -/
def fpToInt (fpcr : Word) (rm : BitVec 2) : FpVal → IntOut
  | .nan n => if fpcrTcfp fpcr then .value (largeInteger n) false else .trap 0x10#32
  | .denorm _ => if fpcrTcfp fpcr then .value 0#32 false else .trap 0x10#32
  | .inf n => intOverflowOut fpcr n
  | .zero _ => .value 0#32 false
  | .num n m e => fpToIntNum fpcr rm n m e

/-! ### Comparison (R511) -/

/-- The place of a value among the infinities: -1, 0 or 1. -/
def FpVal.rank : FpVal → Int
  | .inf n => if n then -1 else 1
  | .nan _ => 0
  | .denorm _ => 0
  | .zero _ => 0
  | .num _ _ _ => 0

/-- a < b of two ordered operands, infinities as the extended reals, +0 = -0. -/
def fpLt (a b : FpVal) : Bool :=
  let e := min a.exponent b.exponent
  decide (a.rank < b.rank) || (decide (a.rank = b.rank) && decide (fpScaled a e < fpScaled b e))

/-- Bit n of a result string. -/
def fpBit (n : Nat) (b : Bool) : Word := if b then BitVec.ofNat 32 (2 ^ n) else 0#32

/-- The result string of ordered operands (R511, D34). -/
def fpOrdered (a b : FpVal) : Word :=
  let lt := fpLt a b
  let gt := fpLt b a
  let eq := !lt && !gt
  let z := FpVal.zero false
  let neg := fpLt b z
  fpBit 1 true ||| fpBit 2 eq ||| fpBit 3 (!eq) ||| fpBit 4 gt ||| fpBit 5 (!gt) ||| fpBit 6 lt ||| fpBit 7 (!lt)
    ||| fpBit 8 (!neg && (fpLt a z || gt)) ||| fpBit 9 (!neg && (!fpLt a z && !gt))
    ||| fpBit 10 (!neg && (fpLt z a && lt)) ||| fpBit 11 (!neg && (!fpLt z a || !lt))
    ||| fpBit 12 eq ||| fpBit 13 (!eq) ||| fpBit 14 gt ||| fpBit 15 (!gt) ||| fpBit 16 lt ||| fpBit 17 (!lt)

/-- The result string of unordered operands in TCFP mode (R511, D34). -/
def fpUnordered : Word := 0x0003D909#32

/-- fcmp of two operands (R511). -/
def fpCompare (fpcr : Word) (a b : FpVal) : IntOut :=
  if a.reserved || b.reserved then
    (if fpcrTcfp fpcr then .value fpUnordered false else .trap 0x10#32)
  else .value (fpOrdered a b) false

end Sys2Proof.Machine
end

