-- ==== Sys2Proof/Machine/Float.lean ====
section
/-!
DEFINITION. The floating-point instructions (43_floating_point.md R501 to R514).
-/

namespace Sys2Proof.Machine

/-! ### Registers and checks (R494, R495) -/

/-- An operand left justified in 80 bits: a general register or pair, or an extended register (R494). -/
def fpOperand (s : State) (x : Bool) (t : FpSize) (r : RegNum) : XWord :=
  if x then readX s r
  else
    match t with
    | .single => readReg s r ++ 0#48
    | .double => readPair s r ++ 0#16
    | .ext => 0#80
    | .unused => 0#80

/-- The value of an operand. -/
def fpSource (s : State) (x : Bool) (t : FpSize) (r : RegNum) : FpVal := fpUnpack t (fpOperand s x t r)

/-- A register operand of a size is usable: the size exists in that file, a general pair is even (R495 steps 2, 3). -/
def fpUsable (x : Bool) (t : FpSize) (r : RegNum) : Bool := t.legal x && (x || t != .double || !oddReg r)

/-- The destination written at its size (R514). -/
def fpWrite (s : State) (x : Bool) (t : FpSize) (d : RegNum) (v : XWord) : State :=
  if x then
    match t with
    | .single => writeXSingle s d (v.extractLsb' 48 32)
    | .double => writeXDouble s d (v.extractLsb' 16 64)
    | .ext => writeX s d v
    | .unused => writeX s d v
  else
    match t with
    | .single => writeReg s d (v.extractLsb' 48 32)
    | .double => writePair s d (v.extractLsb' 16 64)
    | .ext => s
    | .unused => s

/-- FPSR.AFINX is set (10_state.md R56). -/
def setAfinx (s : State) (b : Bool) : State := if b then { s with fpsr := s.fpsr ||| 0x00000001#32 } else s

/-- The end of an instruction with a floating-point destination (R496, R514). -/
def fpFinish (x : Bool) (t : FpSize) (d : RegNum) (r : FpOut) (s : State) : Host.Outcome State Fault Refusal :=
  match r with
  | .value v a => done (fpWrite (setAfinx s a) x t d (fpPack t v))
  | .trap c => raise .sfu1 (setFpecr s c)

/-- The end of an instruction with an integer destination. -/
def intFinish (d : RegNum) (r : IntOut) (s : State) : Host.Outcome State Fault Refusal :=
  match r with
  | .value v a => result d v (setAfinx s a)
  | .trap c => raise .sfu1 (setFpecr s c)

/-- Steps 1 to 3 of R495: the SFU1 exception with FUNIMP unless the unit is enabled and the operands are usable. -/
def fpChecked (usable : Bool) (s : State) (k : State → Host.Outcome State Fault Refusal) :
    Host.Outcome State Fault Refusal :=
  if psrSfd1 s || !usable then raiseFunimp s else k s

/-! ### Arithmetic -/

/-- fmul (R503). -/
def execFmul (d s1 : RegNum) (x : Bool) (t1 t2 td : FpSize) (s2 : RegNum) (s : State) : Host.Outcome State Fault Refusal :=
  fpChecked (fpUsable x t1 s1 && fpUsable x t2 s2 && fpUsable x td d) s
    (fpFinish x td d (fpMul s.fpcr td (fpSource s x t1 s1) (fpSource s x t2 s2)))

/-- fadd (R501). -/
def execFadd (d s1 : RegNum) (x : Bool) (t1 t2 td : FpSize) (s2 : RegNum) (s : State) : Host.Outcome State Fault Refusal :=
  fpChecked (fpUsable x t1 s1 && fpUsable x t2 s2 && fpUsable x td d) s
    (fpFinish x td d (fpAdd s.fpcr td (fpSource s x t1 s1) (fpSource s x t2 s2)))

/-- fsub: the sum with the second operand negated (R502). -/
def execFsub (d s1 : RegNum) (x : Bool) (t1 t2 td : FpSize) (s2 : RegNum) (s : State) : Host.Outcome State Fault Refusal :=
  fpChecked (fpUsable x t1 s1 && fpUsable x t2 s2 && fpUsable x td d) s
    (fpFinish x td d (fpAdd s.fpcr td (fpSource s x t1 s1) (fpSource s x t2 s2).negate))

/-- fdiv (R504). -/
def execFdiv (d s1 : RegNum) (x : Bool) (t1 t2 td : FpSize) (s2 : RegNum) (s : State) : Host.Outcome State Fault Refusal :=
  fpChecked (fpUsable x t1 s1 && fpUsable x t2 s2 && fpUsable x td d) s
    (fpFinish x td d (fpDiv s.fpcr td (fpSource s x t1 s1) (fpSource s x t2 s2)))

/-- fcvt (R506). -/
def execFcvt (d : RegNum) (x : Bool) (t2 td : FpSize) (s2 : RegNum) (s : State) : Host.Outcome State Fault Refusal :=
  fpChecked (fpUsable x t2 s2 && fpUsable x td d) s (fpFinish x td d (fpConvert s.fpcr td (fpSource s x t2 s2)))

/-- fsqrt: not implemented in hardware, always the SFU1 exception with FUNIMP (R505). -/
def execFsqrt (_d : RegNum) (_x : Bool) (_t2 _td : FpSize) (_s2 : RegNum) (s : State) : Host.Outcome State Fault Refusal :=
  raiseFunimp s

/-- flt: the source is a general register (R507). -/
def execFlt (d : RegNum) (x : Bool) (td : FpSize) (s2 : RegNum) (s : State) : Host.Outcome State Fault Refusal :=
  fpChecked (fpUsable x td d) s (fpFinish x td d (fpDeliver s.fpcr td (fpOfInt (readReg s s2).toInt)))

/-! ### Comparison and conversion to an integer -/

/-- fcmp (R511). -/
def execFcmp (d s1 : RegNum) (x : Bool) (t1 t2 : FpSize) (s2 : RegNum) (s : State) : Host.Outcome State Fault Refusal :=
  fpChecked (fpUsable x t1 s1 && fpUsable x t2 s2) s (intFinish d (fpCompare s.fpcr (fpSource s x t1 s1) (fpSource s x t2 s2)))

/-- fcmpu (R512). -/
def execFcmpu (d s1 : RegNum) (x : Bool) (t1 t2 : FpSize) (s2 : RegNum) (s : State) : Host.Outcome State Fault Refusal :=
  fpChecked (fpUsable x t1 s1 && fpUsable x t2 s2) s (intFinish d (fpCompare s.fpcr (fpSource s x t1 s1) (fpSource s x t2 s2)))

/-- int: rounding in the mode of FPCR.RM (R508). -/
def execInt (d : RegNum) (x : Bool) (t2 : FpSize) (s2 : RegNum) (s : State) : Host.Outcome State Fault Refusal :=
  fpChecked (fpUsable x t2 s2) s (intFinish d (fpToInt s.fpcr (fpcrRm s.fpcr) (fpSource s x t2 s2)))

/-- nint: rounding to nearest (R509). -/
def execNint (d : RegNum) (x : Bool) (t2 : FpSize) (s2 : RegNum) (s : State) : Host.Outcome State Fault Refusal :=
  fpChecked (fpUsable x t2 s2) s (intFinish d (fpToInt s.fpcr 0#2 (fpSource s x t2 s2)))

/-- trnc: rounding toward zero (R510). -/
def execTrnc (d : RegNum) (x : Bool) (t2 : FpSize) (s2 : RegNum) (s : State) : Host.Outcome State Fault Refusal :=
  fpChecked (fpUsable x t2 s2) s (intFinish d (fpToInt s.fpcr 1#2 (fpSource s x t2 s2)))

/-! ### Moves (R513) -/

/-- The size of a move. -/
def moveSize (dbl : Bool) : FpSize := if dbl then .double else .single

/-- mov.s and mov.d rD,xS2 (R513). -/
def execMovToGrf (d : RegNum) (dbl : Bool) (s2 : RegNum) (s : State) : Host.Outcome State Fault Refusal :=
  fpChecked (fpUsable false (moveSize dbl) d) s fun s => done (fpWrite s false (moveSize dbl) d (readX s s2))

/-- mov.s and mov.d xD,rS2 (R513). -/
def execMovToXrf (d : RegNum) (dbl : Bool) (s2 : RegNum) (s : State) : Host.Outcome State Fault Refusal :=
  fpChecked (fpUsable false (moveSize dbl) s2) s
    fun s => done (fpWrite s true (moveSize dbl) d (fpOperand s false (moveSize dbl) s2))

/-- mov xD,xS2: all 80 bits (R513). -/
def execMovXrf (d s2 : RegNum) (s : State) : Host.Outcome State Fault Refusal :=
  fpChecked true s fun s => done (writeX s d (readX s s2))

end Sys2Proof.Machine
end

