-- ==== Sys2Proof/Machine/Flow.lean ====
section
/-!
DEFINITION. The flow-control instructions (46_flow_control.md R660 to R688). A flow-control instruction in a delay slot
(R662) follows the table of R661 literally (entry 37).
-/

namespace Sys2Proof.Machine

/-- A taken branch to t (R661). -/
def takeBranch (n : Bool) (t : Word) (s : State) : Host.Outcome State Fault Refusal :=
  .next (branchTo (ticTaken n t s) n t)

/-- A conditional branch (R661); predicted is the static prediction, which leaves a trace only where instructions were
fetched along the path not followed (R668). -/
def branchIf (predicted c n : Bool) (t : Word) (s : State) : Host.Outcome State Fault Refusal :=
  let u := wrongPath predicted c n t s
  if c then takeBranch n t u else .next (branchNotTaken u n)

/-- A jump to t: the TIC takes no part in it (R690). -/
def takeJump (n : Bool) (t : Word) (s : State) : Host.Outcome State Fault Refusal :=
  .next (branchTo (ticSkip n s) n t)

/-- The return address of bsr and jsr (R664, R672). -/
def returnAddress (s : State) (n : Bool) : Word := s.xip + (if n then 8#32 else 4#32)

/-- A trap instruction: privilege, then the condition (R680). -/
def trapIf (c : Bool) (vec : BitVec 9) (s : State) : Host.Outcome State Fault Refusal :=
  if !psrMode s && decide (vec.toNat < 128) then raise .privilege s
  else if c then raise (.trap vec) s
  else done s

/-- A bounds check (R684). -/
def boundsCheck (a bound : Word) (s : State) : Host.Outcome State Fault Refusal :=
  if bound.toNat < a.toNat then raise .bounds s else done s

/-- br and br.n (R663). -/
def execBr (n : Bool) (disp : BitVec 26) (s : State) : Host.Outcome State Fault Refusal :=
  takeBranch n (target26 s.xip disp) s

/-- bsr and bsr.n (R664). -/
def execBsr (n : Bool) (disp : BitVec 26) (s : State) : Host.Outcome State Fault Refusal :=
  takeBranch n (target26 s.xip disp) (writeReg s 1#5 (returnAddress s n))

/-- bb0 and bb0.n, predicted not taken (R665, R668). -/
def execBb0 (n : Bool) (b : BitVec 5) (s1 : RegNum) (disp : BitVec 16) (s : State) : Host.Outcome State Fault Refusal :=
  branchIf false (!bitOf (readReg s s1) b) n (target16 s.xip disp) s

/-- bb1 and bb1.n, predicted taken (R666, R668). -/
def execBb1 (n : Bool) (b : BitVec 5) (s1 : RegNum) (disp : BitVec 16) (s : State) : Host.Outcome State Fault Refusal :=
  branchIf true (bitOf (readReg s s1) b) n (target16 s.xip disp) s

/-- bcnd and bcnd.n, predicted by bit 21 of the word (R667, R668). -/
def execBcnd (n : Bool) (m : BitVec 5) (s1 : RegNum) (disp : BitVec 16) (s : State) : Host.Outcome State Fault Refusal :=
  branchIf (m.getLsbD 0) (condHolds m (readReg s s1)) n (target16 s.xip disp) s

/-- jmp and jmp.n (R671). -/
def execJmp (n : Bool) (s2 : RegNum) (s : State) : Host.Outcome State Fault Refusal :=
  takeJump n (targetReg (readReg s s2)) s

/-- jsr and jsr.n: the target is read before r1 is written (R672, D30). -/
def execJsr (n : Bool) (s2 : RegNum) (s : State) : Host.Outcome State Fault Refusal :=
  takeJump n (targetReg (readReg s s2)) (writeReg s 1#5 (returnAddress s n))

/-- tb0 (R681). -/
def execTb0 (b : BitVec 5) (s1 : RegNum) (vec : BitVec 9) (s : State) : Host.Outcome State Fault Refusal :=
  trapIf (!bitOf (readReg s s1) b) vec s

/-- tb1 (R682). -/
def execTb1 (b : BitVec 5) (s1 : RegNum) (vec : BitVec 9) (s : State) : Host.Outcome State Fault Refusal :=
  trapIf (bitOf (readReg s s1) b) vec s

/-- tcnd (R683). -/
def execTcnd (m : BitVec 5) (s1 : RegNum) (vec : BitVec 9) (s : State) : Host.Outcome State Fault Refusal :=
  trapIf (condHolds m (readReg s s1)) vec s

/-- tbnd rS1,rS2 (R684). -/
def execTbndReg (s1 s2 : RegNum) (s : State) : Host.Outcome State Fault Refusal :=
  boundsCheck (readReg s s1) (readReg s s2) s

/-- tbnd rS1,IMM16 (R684). -/
def execTbndImm (s1 : RegNum) (imm : BitVec 16) (s : State) : Host.Outcome State Fault Refusal :=
  boundsCheck (readReg s s1) (immLow imm) s

/-- rte (R686). -/
def execRte (s : State) : Host.Outcome State Fault Refusal :=
  if psrMode s then .next (returnFromException s) else raise .privilege s

/-- illop1 (R688). -/
def execIllop1 (s : State) : Host.Outcome State Fault Refusal :=
  raise .unimplementedOpcode s

/-- illop2 (R688). -/
def execIllop2 (s : State) : Host.Outcome State Fault Refusal :=
  raise .unimplementedOpcode s

/-- illop3 (R688). -/
def execIllop3 (s : State) : Host.Outcome State Fault Refusal :=
  raise .unimplementedOpcode s

end Sys2Proof.Machine
end

