-- ==== Sys2Proof/Machine/Graphics.lean ====
section
/-!
DEFINITION. The graphics instructions (44_graphics.md R560 to R573).
-/

namespace Sys2Proof.Machine

/-! ### Checks and fields (R560, R561) -/

/-- The SFU2 exception unless the unit is enabled and the operands are usable (R561). -/
def gfxChecked (usable : Bool) (s : State) (k : State → Host.Outcome State Fault Refusal) :
    Host.Outcome State Fault Refusal :=
  if psrSfd2 s || !usable then raise .sfu2 s else k s

/-- The bits of a field (R560). -/
def fieldBits : PackSize → Nat
  | .nibble => 4
  | .byte => 8
  | .half => 16
  | .word => 32

/-- f applied to the lowest n fields of t bits of a and b, the results put together again. -/
def zipFields (t : Nat) (f : Nat → Nat → Nat) : Nat → Nat → Nat → Nat
  | 0, _, _ => 0
  | n + 1, a, b => f (a % 2 ^ t) (b % 2 ^ t) + 2 ^ t * zipFields t f n (a / 2 ^ t) (b / 2 ^ t)

/-- f applied to the fields of two double words. -/
def onFields (p : PackSize) (f : Nat → Nat → Nat → Nat) (a b : DWord) : DWord :=
  BitVec.ofNat 64 (zipFields (fieldBits p) (f (fieldBits p)) (64 / fieldBits p) a.toNat b.toNat)

/-! ### Operations on one field of t bits (R563 to R567) -/

/-- The most significant bit of a field. -/
def fieldMsb (t a : Nat) : Bool := decide (2 ^ (t - 1) ≤ a)

/-- The two's complement value of a field. -/
def fieldSigned (t a : Nat) : Int := if fieldMsb t a then (a : Int) - 2 ^ t else a

/-- a + b modulo 2^t (R563). -/
def fieldAdd (t a b : Nat) : Nat := (a + b) % 2 ^ t

/-- The unsigned sum, saturated when it carries out (R564). -/
def fieldAddU (t a b : Nat) : Nat := if 2 ^ t ≤ a + b then 2 ^ t - 1 else fieldAdd t a b

/-- The signed sum, saturated when the carries into and out of its top bit differ (R564). -/
def fieldAddS (t a b : Nat) : Nat :=
  let cin := decide (2 ^ (t - 1) ≤ a % 2 ^ (t - 1) + b % 2 ^ (t - 1))
  let cout := decide (2 ^ t ≤ a + b)
  if cin != cout then (if cout then 2 ^ (t - 1) else 2 ^ (t - 1) - 1) else fieldAdd t a b

/-- The sum of an unsigned and a signed field, saturated as unsigned (R566). -/
def fieldAddUs (t a b : Nat) : Nat :=
  let sum := fieldAdd t a b
  if fieldMsb t a != fieldMsb t b && fieldMsb t b == fieldMsb t sum then (if fieldMsb t b then 0 else 2 ^ t - 1)
  else sum

/-- a - b modulo 2^t (R565). -/
def fieldSub (t a b : Nat) : Nat := (a + (2 ^ t - b)) % 2 ^ t

/-- The unsigned difference, 0 when it borrows (R567). -/
def fieldSubU (t a b : Nat) : Nat := if a < b then 0 else fieldSub t a b

/-- The signed difference, clamped to the signed range (R567). -/
def fieldSubS (t a b : Nat) : Nat :=
  let v := fieldSigned t a - fieldSigned t b
  if (2 ^ (t - 1) : Int) ≤ v then 2 ^ (t - 1) - 1
  else if v < -(2 ^ (t - 1) : Int) then 2 ^ (t - 1)
  else fieldSub t a b

/-- An unsigned field less a signed one, clamped to the unsigned range (R566). -/
def fieldSubUs (t a b : Nat) : Nat :=
  if fieldMsb t b then
    (if (2 ^ t : Int) ≤ (a : Int) - fieldSigned t b then 2 ^ t - 1 else fieldSub t a b)
  else (if a < b then 0 else fieldSub t a b)

/-- An instruction on the fields of two pairs (R561, R563 to R567). -/
def pixelOp (f : Nat → Nat → Nat → Nat) (d s1 : RegNum) (t : PackSize) (s2 : RegNum) (s : State) :
    Host.Outcome State Fault Refusal :=
  gfxChecked (t.addLegal && !oddReg d && !oddReg s1 && !oddReg s2) s fun s =>
    done (writePair s d (onFields t f (readPair s s1) (readPair s s2)))

/-! ### Pack, unpack, rotate (R571 to R573) -/

/-- The highest k bits of each of n fields of t bits, put together (R572). -/
def packFields (t k : Nat) : Nat → Nat → Nat
  | 0, _ => 0
  | n + 1, b => (b % 2 ^ t) / 2 ^ (t - k) + 2 ^ k * packFields t k n (b / 2 ^ t)

/-- The result of ppack for a rotation of r bits and fields of t bits (R572). -/
def packResult (r t : Nat) (a b : DWord) : DWord :=
  (a <<< r) ||| BitVec.ofNat 64 (packFields t (t * r / 64) (64 / t) b.toNat)

/-- n fields of t bits, each in the lower half of a field twice as large (R571). -/
def unpackFields (t : Nat) : Nat → Nat → Nat
  | 0, _ => 0
  | n + 1, v => v % 2 ^ t + 2 ^ (2 * t) * unpackFields t n (v / 2 ^ t)

/-- A rotation to the left by 4 * c bits (R573). -/
def rotateNibbles (v : DWord) (c : BitVec 4) : DWord := (v <<< (4 * c.toNat)) ||| (v >>> (64 - 4 * c.toNat))

/-- The result string of pcmp (R569). -/
def pixelCompare (a b : DWord) : Word :=
  let hi := decide ((b.extractLsb' 32 32).toNat ≤ (a.extractLsb' 32 32).toNat)
  let lo := decide ((b.extractLsb' 0 32).toNat ≤ (a.extractLsb' 0 32).toNat)
  let b4 := hi && lo
  let b5 := !hi && !lo
  let b6 := hi && !lo
  let b7 := !hi && lo
  0#20 ++ BitVec.ofBool (!b7) ++ BitVec.ofBool (!b6) ++ BitVec.ofBool (!b5) ++ BitVec.ofBool (!b4)
    ++ BitVec.ofBool b7 ++ BitVec.ofBool b6 ++ BitVec.ofBool b5 ++ BitVec.ofBool b4 ++ 0#4

/-! ### The instructions -/

/-- pmul: a single register by a pair (R570). -/
def execPmul (d s1 s2 : RegNum) (s : State) : Host.Outcome State Fault Refusal :=
  gfxChecked (!oddReg d && !oddReg s2) s fun s =>
    done (writePair s d (BitVec.ofNat 64 ((readReg s s1).toNat * (readPair s s2).toNat)))

/-- padd (R563). -/
def execPadd (d s1 : RegNum) (t : PackSize) (s2 : RegNum) (s : State) : Host.Outcome State Fault Refusal :=
  pixelOp fieldAdd d s1 t s2 s

/-- padds.u (R564). -/
def execPaddsU (d s1 : RegNum) (t : PackSize) (s2 : RegNum) (s : State) : Host.Outcome State Fault Refusal :=
  pixelOp fieldAddU d s1 t s2 s

/-- padds.us (R566). -/
def execPaddsUs (d s1 : RegNum) (t : PackSize) (s2 : RegNum) (s : State) : Host.Outcome State Fault Refusal :=
  pixelOp fieldAddUs d s1 t s2 s

/-- padds.s (R564). -/
def execPaddsS (d s1 : RegNum) (t : PackSize) (s2 : RegNum) (s : State) : Host.Outcome State Fault Refusal :=
  pixelOp fieldAddS d s1 t s2 s

/-- psub (R565). -/
def execPsub (d s1 : RegNum) (t : PackSize) (s2 : RegNum) (s : State) : Host.Outcome State Fault Refusal :=
  pixelOp fieldSub d s1 t s2 s

/-- psubs.u (R567). -/
def execPsubsU (d s1 : RegNum) (t : PackSize) (s2 : RegNum) (s : State) : Host.Outcome State Fault Refusal :=
  pixelOp fieldSubU d s1 t s2 s

/-- psubs.us (R566). -/
def execPsubsUs (d s1 : RegNum) (t : PackSize) (s2 : RegNum) (s : State) : Host.Outcome State Fault Refusal :=
  pixelOp fieldSubUs d s1 t s2 s

/-- psubs.s (R567). -/
def execPsubsS (d s1 : RegNum) (t : PackSize) (s2 : RegNum) (s : State) : Host.Outcome State Fault Refusal :=
  pixelOp fieldSubS d s1 t s2 s

/-- pcmp (R569). -/
def execPcmp (d s1 s2 : RegNum) (s : State) : Host.Outcome State Fault Refusal :=
  gfxChecked (!oddReg s1 && !oddReg s2) s fun s => result d (pixelCompare (readPair s s1) (readPair s s2)) s

/-- ppack: six rotation and size pairs are defined (R572, D35). -/
def execPpack (d s1 : RegNum) (r : BitVec 4) (t : PackSize) (s2 : RegNum) (s : State) : Host.Outcome State Fault Refusal :=
  gfxChecked (ppackLegal r t && !oddReg d && !oddReg s1 && !oddReg s2) s fun s =>
    done (writePair s d (packResult (4 * r.toNat) (fieldBits t) (readPair s s1) (readPair s s2)))

/-- punpk (R571). -/
def execPunpk (d s1 : RegNum) (t : PackSize) (s : State) : Host.Outcome State Fault Refusal :=
  gfxChecked (t.unpackLegal && !oddReg d) s fun s =>
    done (writePair s d (BitVec.ofNat 64 (unpackFields (fieldBits t) (32 / fieldBits t) (readReg s s1).toNat)))

/-- prot rD,rS1,<O6> (R573). -/
def execProtImm (d s1 : RegNum) (r : BitVec 4) (s : State) : Host.Outcome State Fault Refusal :=
  gfxChecked (!oddReg d && !oddReg s1) s fun s => done (writePair s d (rotateNibbles (readPair s s1) r))

/-- prot rD,rS1,rS2: the count is bits 5 to 2 of r[S2] (R573). -/
def execProtReg (d s1 s2 : RegNum) (s : State) : Host.Outcome State Fault Refusal :=
  gfxChecked (!oddReg d && !oddReg s1) s fun s =>
    done (writePair s d (rotateNibbles (readPair s s1) ((readReg s s2).extractLsb' 2 4)))

end Sys2Proof.Machine
end

