-- ==== Sys2Proof/Machine/Integer.lean ====
section
/-!
DEFINITION. The integer arithmetic instructions (41_integer_arith.md R440 to R458).
-/

namespace Sys2Proof.Machine

/-! ### Shared operations -/

/-- add: the integer overflow exception, or the sum (R442). -/
def addTrapping (d : RegNum) (a b : Word) (c co : Bool) (s : State) : Host.Outcome State Fault Refusal :=
  if addOverflow a b c then raise .integerOverflow s
  else result d (addWord a b c) (carryOut s co (addCarry a b c))

/-- addu: the sum (R443). -/
def addPlain (d : RegNum) (a b : Word) (c co : Bool) (s : State) : Host.Outcome State Fault Refusal :=
  result d (addWord a b c) (carryOut s co (addCarry a b c))

/-- sub: the integer overflow exception, or the difference (R444). -/
def subTrapping (d : RegNum) (a b : Word) (c co : Bool) (s : State) : Host.Outcome State Fault Refusal :=
  if subOverflow a b c then raise .integerOverflow s
  else result d (subWord a b c) (carryOut s co (subCarry a b c))

/-- subu: the difference (R445). -/
def subPlain (d : RegNum) (a b : Word) (c co : Bool) (s : State) : Host.Outcome State Fault Refusal :=
  result d (subWord a b c) (carryOut s co (subCarry a b c))

/-- Bit n of a result string. -/
def stringBit (n : Nat) (b : Bool) : Word := if b then BitVec.ofNat 32 (2 ^ n) else 0#32

/-- Some byte of a equals the byte of b in its place (R452). -/
def anyByteEqual (a b : Word) : Bool :=
  (a.extractLsb' 0 8 == b.extractLsb' 0 8) || (a.extractLsb' 8 8 == b.extractLsb' 8 8)
    || (a.extractLsb' 16 8 == b.extractLsb' 16 8) || (a.extractLsb' 24 8 == b.extractLsb' 24 8)

/-- Some half word of a equals the half word of b in its place (R452). -/
def anyHalfEqual (a b : Word) : Bool :=
  (a.extractLsb' 0 16 == b.extractLsb' 0 16) || (a.extractLsb' 16 16 == b.extractLsb' 16 16)

/-- The result string of cmp (R452). -/
def compareString (a b : Word) : Word :=
  stringBit 2 (a == b) ||| stringBit 3 (a != b)
    ||| stringBit 4 (decide (b.toInt < a.toInt)) ||| stringBit 5 (decide (a.toInt ≤ b.toInt))
    ||| stringBit 6 (decide (a.toInt < b.toInt)) ||| stringBit 7 (decide (b.toInt ≤ a.toInt))
    ||| stringBit 8 (decide (b.toNat < a.toNat)) ||| stringBit 9 (decide (a.toNat ≤ b.toNat))
    ||| stringBit 10 (decide (a.toNat < b.toNat)) ||| stringBit 11 (decide (b.toNat ≤ a.toNat))
    ||| stringBit 12 (anyByteEqual a b) ||| stringBit 13 (!anyByteEqual a b)
    ||| stringBit 14 (anyHalfEqual a b) ||| stringBit 15 (!anyHalfEqual a b)

/-- divu: the divide-by-zero exception, or the quotient (R457). -/
def divUnsigned (d : RegNum) (a b : Word) (s : State) : Host.Outcome State Fault Refusal :=
  if b = 0#32 then raise .divideByZero s else result d (BitVec.ofNat 32 (a.toNat / b.toNat)) s

/-- divs: its two exceptions, or the quotient rounded toward zero (R456, D2). -/
def divSigned (d : RegNum) (a b : Word) (s : State) : Host.Outcome State Fault Refusal :=
  if b = 0#32 then raise .divideByZero s
  else if a = 0x80000000#32 ∧ b = 0xFFFFFFFF#32 then raise .integerOverflow s
  else result d (BitVec.ofInt 32 (a.toInt.tdiv b.toInt)) s

/-- The exact signed product. -/
def productSigned (a b : Word) : Int := a.toInt * b.toInt

/-! ### Immediate forms -/

/-- addu rD,rS1,IMM16 (R443). -/
def execAdduImm (d s1 : RegNum) (imm : BitVec 16) (s : State) : Host.Outcome State Fault Refusal :=
  addPlain d (readReg s s1) (immLow imm) false false s

/-- subu rD,rS1,IMM16 (R445). -/
def execSubuImm (d s1 : RegNum) (imm : BitVec 16) (s : State) : Host.Outcome State Fault Refusal :=
  subPlain d (readReg s s1) (immLow imm) true false s

/-- divu rD,rS1,IMM16 (R457). -/
def execDivuImm (d s1 : RegNum) (imm : BitVec 16) (s : State) : Host.Outcome State Fault Refusal :=
  divUnsigned d (readReg s s1) (immLow imm) s

/-- mulu rD,rS1,IMM16 (R454). -/
def execMuluImm (d s1 : RegNum) (imm : BitVec 16) (s : State) : Host.Outcome State Fault Refusal :=
  result d (readReg s s1 * immLow imm) s

/-- add rD,rS1,SIMM16 (R442). -/
def execAddImm (d s1 : RegNum) (imm : BitVec 16) (s : State) : Host.Outcome State Fault Refusal :=
  addTrapping d (readReg s s1) (imm16 s imm) false false s

/-- sub rD,rS1,SIMM16 (R444). -/
def execSubImm (d s1 : RegNum) (imm : BitVec 16) (s : State) : Host.Outcome State Fault Refusal :=
  subTrapping d (readReg s s1) (imm16 s imm) true false s

/-- divs rD,rS1,SIMM16 (R456). -/
def execDivsImm (d s1 : RegNum) (imm : BitVec 16) (s : State) : Host.Outcome State Fault Refusal :=
  divSigned d (readReg s s1) (imm16 s imm) s

/-- cmp rD,rS1,SIMM16 (R452). -/
def execCmpImm (d s1 : RegNum) (imm : BitVec 16) (s : State) : Host.Outcome State Fault Refusal :=
  result d (compareString (readReg s s1) (imm16 s imm)) s

/-! ### Register forms -/

/-- addu, addu.ci, addu.co and addu.cio (R443). -/
def execAdduReg (d s1 : RegNum) (ci co : Bool) (s2 : RegNum) (s : State) : Host.Outcome State Fault Refusal :=
  addPlain d (readReg s s1) (readReg s s2) (carryIn s ci false) co s

/-- subu, subu.ci, subu.co and subu.cio (R445). -/
def execSubuReg (d s1 : RegNum) (ci co : Bool) (s2 : RegNum) (s : State) : Host.Outcome State Fault Refusal :=
  subPlain d (readReg s s1) (readReg s s2) (carryIn s ci true) co s

/-- add, add.ci, add.co and add.cio (R442). -/
def execAddReg (d s1 : RegNum) (ci co : Bool) (s2 : RegNum) (s : State) : Host.Outcome State Fault Refusal :=
  addTrapping d (readReg s s1) (readReg s s2) (carryIn s ci false) co s

/-- sub, sub.ci, sub.co and sub.cio (R444). -/
def execSubReg (d s1 : RegNum) (ci co : Bool) (s2 : RegNum) (s : State) : Host.Outcome State Fault Refusal :=
  subTrapping d (readReg s s1) (readReg s s2) (carryIn s ci true) co s

/-- divu rD,rS1,rS2 (R457). -/
def execDivuReg (d s1 s2 : RegNum) (s : State) : Host.Outcome State Fault Refusal :=
  divUnsigned d (readReg s s1) (readReg s s2) s

/-- divu.d rD,rS1,rS2: odd pairs first, then a zero divisor (R458, D27). -/
def execDivuD (d s1 s2 : RegNum) (s : State) : Host.Outcome State Fault Refusal :=
  if oddReg d || oddReg s1 then raise .unimplementedOpcode s
  else if readReg s s2 = 0#32 then raise .divideByZero s
  else done (writePair s d (BitVec.ofNat 64 ((readPair s s1).toNat / (readReg s s2).toNat)))

/-- mulu rD,rS1,rS2 (R454). -/
def execMuluReg (d s1 s2 : RegNum) (s : State) : Host.Outcome State Fault Refusal :=
  result d (readReg s s1 * readReg s s2) s

/-- mulu.d rD,rS1,rS2 (R455). -/
def execMuluD (d s1 s2 : RegNum) (s : State) : Host.Outcome State Fault Refusal :=
  if oddReg d then raise .unimplementedOpcode s
  else done (writePair s d (BitVec.ofNat 64 ((readReg s s1).toNat * (readReg s s2).toNat)))

/-- muls rD,rS1,rS2 (R453). -/
def execMuls (d s1 s2 : RegNum) (s : State) : Host.Outcome State Fault Refusal :=
  let p := productSigned (readReg s s1) (readReg s s2)
  if p < -2147483648 ∨ 2147483647 < p then raise .integerOverflow s else result d (BitVec.ofInt 32 p) s

/-- divs rD,rS1,rS2 (R456). -/
def execDivsReg (d s1 s2 : RegNum) (s : State) : Host.Outcome State Fault Refusal :=
  divSigned d (readReg s s1) (readReg s s2) s

/-- cmp rD,rS1,rS2 (R452). -/
def execCmpReg (d s1 s2 : RegNum) (s : State) : Host.Outcome State Fault Refusal :=
  result d (compareString (readReg s s1) (readReg s s2)) s

end Sys2Proof.Machine
end

