-- ==== Sys2Proof/Machine/LoadStore.lean ====
section
/-!
DEFINITION. The load, store, exchange and load-address instructions (45_load_store.md R600 to R635).
-/

namespace Sys2Proof.Machine

/-! ### Loads to a general register (R601, R605) -/

/-- ld.b: a signed byte; with r0 the touch load (R620). -/
def loadB (d : RegNum) (usr : Bool) (ea : Word) (s : State) : Res Unit :=
  if d = 0#5 then touchLoad usr ea s
  else loadInto usr 1 ea (fun t v => writeReg t d ((BitVec.ofNat 8 v).signExtend 32)) s

/-- ld.bu: an unsigned byte. -/
def loadBu (d : RegNum) (usr : Bool) (ea : Word) (s : State) : Res Unit :=
  loadInto usr 1 ea (fun t v => writeReg t d (BitVec.ofNat 32 v)) s

/-- ld.h: a signed half word; with r0 the allocate load (R622). -/
def loadH (d : RegNum) (usr : Bool) (ea : Word) (s : State) : Res Unit :=
  if d = 0#5 then allocateLoad usr ea s
  else loadInto usr 2 ea (fun t v => writeReg t d ((BitVec.ofNat 16 v).signExtend 32)) s

/-- ld.hu: an unsigned half word. -/
def loadHu (d : RegNum) (usr : Bool) (ea : Word) (s : State) : Res Unit :=
  loadInto usr 2 ea (fun t v => writeReg t d (BitVec.ofNat 32 v)) s

/-- ld: a word; with r0 the flush load (R621). -/
def loadW (d : RegNum) (usr : Bool) (ea : Word) (s : State) : Res Unit :=
  if d = 0#5 then flushLoad usr ea s
  else loadInto usr 4 ea (fun t v => writeReg t d (BitVec.ofNat 32 v)) s

/-- ld.d: a double word to a pair; privilege before the odd pair (R602, D28). -/
def loadD (d : RegNum) (usr : Bool) (ea : Word) (s : State) : Res Unit :=
  if usrViolation s usr then .trap .privilege s
  else if oddReg d then .trap .unimplementedOpcode s
  else loadInto usr 8 ea (fun t v => writePair t d (BitVec.ofNat 64 v)) s

/-! ### Loads to an extended register (R606) -/

/-- ld xD: a single-precision image. -/
def loadXSingle (d : RegNum) (usr : Bool) (ea : Word) (s : State) : Res Unit :=
  loadInto usr 4 ea (fun t v => writeXSingle t d (BitVec.ofNat 32 v)) s

/-- ld.d xD: a double-precision image. -/
def loadXDouble (d : RegNum) (usr : Bool) (ea : Word) (s : State) : Res Unit :=
  loadInto usr 8 ea (fun t v => writeXDouble t d (BitVec.ofNat 64 v)) s

/-- ld.x xD: the high 80 bits of a quad word (20_memory.md R176). -/
def loadXExt (d : RegNum) (usr : Bool) (ea : Word) (s : State) : Res Unit :=
  loadInto usr 16 ea (fun t v => writeX t d (BitVec.ofNat 80 (v / 2 ^ 48))) s

/-! ### Stores (R610, R607) -/

/-- st.b: the low byte of r[d]. -/
def storeB (d : RegNum) (usr wt : Bool) (ea : Word) (s : State) : Res Unit :=
  storeValue usr wt 1 ea (readReg s d).toNat s

/-- st.h: the low half word of r[d]. -/
def storeH (d : RegNum) (usr wt : Bool) (ea : Word) (s : State) : Res Unit :=
  storeValue usr wt 2 ea (readReg s d).toNat s

/-- st: r[d]. -/
def storeW (d : RegNum) (usr wt : Bool) (ea : Word) (s : State) : Res Unit :=
  storeValue usr wt 4 ea (readReg s d).toNat s

/-- st.d: the pair r[d]; privilege before the odd pair (R602, D28). -/
def storeD (d : RegNum) (usr wt : Bool) (ea : Word) (s : State) : Res Unit :=
  if usrViolation s usr then .trap .privilege s
  else if oddReg d then .trap .unimplementedOpcode s
  else storeValue usr wt 8 ea (readPair s d).toNat s

/-- st xD: bits 79 to 48. -/
def storeXSingle (d : RegNum) (usr wt : Bool) (ea : Word) (s : State) : Res Unit :=
  storeValue usr wt 4 ea ((readX s d).extractLsb' 48 32).toNat s

/-- st.d xD: bits 79 to 16. -/
def storeXDouble (d : RegNum) (usr wt : Bool) (ea : Word) (s : State) : Res Unit :=
  storeValue usr wt 8 ea ((readX s d).extractLsb' 16 64).toNat s

/-- st.x xD: all 80 bits and 48 zeros (20_memory.md R176). -/
def storeXExt (d : RegNum) (usr wt : Bool) (ea : Word) (s : State) : Res Unit :=
  storeValue usr wt 16 ea ((readX s d).toNat * 2 ^ 48) s

/-! ### Exchange (R630) -/

/-- xmem and xmem.bu: the register's old value is stored, memory's old value goes to the register. -/
def exchangeReg (d : RegNum) (usr : Bool) (n : Nat) (ea : Word) (s : State) : Res Unit :=
  match exchangeAt usr n ea (readReg s d).toNat s with
  | .ok v s' => .ok () (writeReg s' d (BitVec.ofNat 32 v))
  | .trap e s' => .trap e s'
  | .stop f => .stop f

/-! ### Immediate index -/

/-- ld.d xD,rS1,SI16 (R606). -/
def execLdXrfDImm (d s1 : RegNum) (imm : BitVec 16) (s : State) : Host.Outcome State Fault Refusal :=
  finish (loadXDouble d false (eaImm s s1 imm) s)

/-- ld xD,rS1,SI16 (R606). -/
def execLdXrfImm (d s1 : RegNum) (imm : BitVec 16) (s : State) : Host.Outcome State Fault Refusal :=
  finish (loadXSingle d false (eaImm s s1 imm) s)

/-- ld.hu rD,rS1,SI16 (R601). -/
def execLdHuImm (d s1 : RegNum) (imm : BitVec 16) (s : State) : Host.Outcome State Fault Refusal :=
  finish (loadHu d false (eaImm s s1 imm) s)

/-- ld.bu rD,rS1,SI16 (R601). -/
def execLdBuImm (d s1 : RegNum) (imm : BitVec 16) (s : State) : Host.Outcome State Fault Refusal :=
  finish (loadBu d false (eaImm s s1 imm) s)

/-- ld.d rD,rS1,SI16 (R601). -/
def execLdDImm (d s1 : RegNum) (imm : BitVec 16) (s : State) : Host.Outcome State Fault Refusal :=
  finish (loadD d false (eaImm s s1 imm) s)

/-- ld rD,rS1,SI16 (R601). -/
def execLdImm (d s1 : RegNum) (imm : BitVec 16) (s : State) : Host.Outcome State Fault Refusal :=
  finish (loadW d false (eaImm s s1 imm) s)

/-- ld.h rD,rS1,SI16 (R601). -/
def execLdHImm (d s1 : RegNum) (imm : BitVec 16) (s : State) : Host.Outcome State Fault Refusal :=
  finish (loadH d false (eaImm s s1 imm) s)

/-- ld.b rD,rS1,SI16 (R601). -/
def execLdBImm (d s1 : RegNum) (imm : BitVec 16) (s : State) : Host.Outcome State Fault Refusal :=
  finish (loadB d false (eaImm s s1 imm) s)

/-- ld.x xD,rS1,SI16 (R606). -/
def execLdXrfXImm (d s1 : RegNum) (imm : BitVec 16) (s : State) : Host.Outcome State Fault Refusal :=
  finish (loadXExt d false (eaImm s s1 imm) s)

/-- st.d rD,rS1,SI16 (R610). -/
def execStDImm (d s1 : RegNum) (imm : BitVec 16) (s : State) : Host.Outcome State Fault Refusal :=
  finish (storeD d false false (eaImm s s1 imm) s)

/-- st rD,rS1,SI16 (R610). -/
def execStImm (d s1 : RegNum) (imm : BitVec 16) (s : State) : Host.Outcome State Fault Refusal :=
  finish (storeW d false false (eaImm s s1 imm) s)

/-- st.h rD,rS1,SI16 (R610). -/
def execStHImm (d s1 : RegNum) (imm : BitVec 16) (s : State) : Host.Outcome State Fault Refusal :=
  finish (storeH d false false (eaImm s s1 imm) s)

/-- st.b rD,rS1,SI16 (R610). -/
def execStBImm (d s1 : RegNum) (imm : BitVec 16) (s : State) : Host.Outcome State Fault Refusal :=
  finish (storeB d false false (eaImm s s1 imm) s)

/-- st.d xD,rS1,SI16 (R607). -/
def execStXrfDImm (d s1 : RegNum) (imm : BitVec 16) (s : State) : Host.Outcome State Fault Refusal :=
  finish (storeXDouble d false false (eaImm s s1 imm) s)

/-- st xD,rS1,SI16 (R607). -/
def execStXrfImm (d s1 : RegNum) (imm : BitVec 16) (s : State) : Host.Outcome State Fault Refusal :=
  finish (storeXSingle d false false (eaImm s s1 imm) s)

/-- st.x xD,rS1,SI16 (R607). -/
def execStXrfXImm (d s1 : RegNum) (imm : BitVec 16) (s : State) : Host.Outcome State Fault Refusal :=
  finish (storeXExt d false false (eaImm s s1 imm) s)

/-! ### Register index -/

/-- ld.d xD with a register index (R606). -/
def execLdXrfD (d s1 : RegNum) (scaled usr : Bool) (s2 : RegNum) (s : State) : Host.Outcome State Fault Refusal :=
  finish (loadXDouble d usr (eaReg s s1 s2 scaled 3) s)

/-- ld xD with a register index (R606). -/
def execLdXrf (d s1 : RegNum) (scaled usr : Bool) (s2 : RegNum) (s : State) : Host.Outcome State Fault Refusal :=
  finish (loadXSingle d usr (eaReg s s1 s2 scaled 2) s)

/-- ld.x xD with a register index (R606). -/
def execLdXrfX (d s1 : RegNum) (scaled usr : Bool) (s2 : RegNum) (s : State) : Host.Outcome State Fault Refusal :=
  finish (loadXExt d usr (eaReg s s1 s2 scaled 4) s)

/-- ld.hu rD with a register index (R601). -/
def execLdHu (d s1 : RegNum) (scaled usr : Bool) (s2 : RegNum) (s : State) : Host.Outcome State Fault Refusal :=
  finish (loadHu d usr (eaReg s s1 s2 scaled 1) s)

/-- ld.bu rD with a register index (R601). -/
def execLdBu (d s1 : RegNum) (scaled usr : Bool) (s2 : RegNum) (s : State) : Host.Outcome State Fault Refusal :=
  finish (loadBu d usr (eaReg s s1 s2 scaled 0) s)

/-- ld.d rD with a register index (R601). -/
def execLdD (d s1 : RegNum) (scaled usr : Bool) (s2 : RegNum) (s : State) : Host.Outcome State Fault Refusal :=
  finish (loadD d usr (eaReg s s1 s2 scaled 3) s)

/-- ld rD with a register index (R601). -/
def execLd (d s1 : RegNum) (scaled usr : Bool) (s2 : RegNum) (s : State) : Host.Outcome State Fault Refusal :=
  finish (loadW d usr (eaReg s s1 s2 scaled 2) s)

/-- ld.h rD with a register index (R601). -/
def execLdH (d s1 : RegNum) (scaled usr : Bool) (s2 : RegNum) (s : State) : Host.Outcome State Fault Refusal :=
  finish (loadH d usr (eaReg s s1 s2 scaled 1) s)

/-- ld.b rD with a register index (R601). -/
def execLdB (d s1 : RegNum) (scaled usr : Bool) (s2 : RegNum) (s : State) : Host.Outcome State Fault Refusal :=
  finish (loadB d usr (eaReg s s1 s2 scaled 0) s)

/-- st.d xD with a register index (R607). -/
def execStXrfD (d s1 : RegNum) (scaled usr wt : Bool) (s2 : RegNum) (s : State) : Host.Outcome State Fault Refusal :=
  finish (storeXDouble d usr wt (eaReg s s1 s2 scaled 3) s)

/-- st xD with a register index (R607). -/
def execStXrf (d s1 : RegNum) (scaled usr wt : Bool) (s2 : RegNum) (s : State) : Host.Outcome State Fault Refusal :=
  finish (storeXSingle d usr wt (eaReg s s1 s2 scaled 2) s)

/-- st.x xD with a register index (R607). -/
def execStXrfX (d s1 : RegNum) (scaled usr wt : Bool) (s2 : RegNum) (s : State) : Host.Outcome State Fault Refusal :=
  finish (storeXExt d usr wt (eaReg s s1 s2 scaled 4) s)

/-- st.d rD with a register index (R610). -/
def execStD (d s1 : RegNum) (scaled usr wt : Bool) (s2 : RegNum) (s : State) : Host.Outcome State Fault Refusal :=
  finish (storeD d usr wt (eaReg s s1 s2 scaled 3) s)

/-- st rD with a register index (R610). -/
def execSt (d s1 : RegNum) (scaled usr wt : Bool) (s2 : RegNum) (s : State) : Host.Outcome State Fault Refusal :=
  finish (storeW d usr wt (eaReg s s1 s2 scaled 2) s)

/-- st.h rD with a register index (R610). -/
def execStH (d s1 : RegNum) (scaled usr wt : Bool) (s2 : RegNum) (s : State) : Host.Outcome State Fault Refusal :=
  finish (storeH d usr wt (eaReg s s1 s2 scaled 1) s)

/-- st.b rD with a register index (R610). -/
def execStB (d s1 : RegNum) (scaled usr wt : Bool) (s2 : RegNum) (s : State) : Host.Outcome State Fault Refusal :=
  finish (storeB d usr wt (eaReg s s1 s2 scaled 0) s)

/-- xmem.bu (R630). -/
def execXmemBu (d s1 : RegNum) (scaled usr : Bool) (s2 : RegNum) (s : State) : Host.Outcome State Fault Refusal :=
  finish (exchangeReg d usr 1 (eaReg s s1 s2 scaled 0) s)

/-- xmem (R630). -/
def execXmem (d s1 : RegNum) (scaled usr : Bool) (s2 : RegNum) (s : State) : Host.Outcome State Fault Refusal :=
  finish (exchangeReg d usr 4 (eaReg s s1 s2 scaled 2) s)

/-! ### Load address (R635) -/

/-- lda.d rD,rS1[rS2] (R635). -/
def execLdaD (d s1 s2 : RegNum) (s : State) : Host.Outcome State Fault Refusal :=
  result d (eaReg s s1 s2 true 3) s

/-- lda rD,rS1[rS2] (R635). -/
def execLda (d s1 s2 : RegNum) (s : State) : Host.Outcome State Fault Refusal :=
  result d (eaReg s s1 s2 true 2) s

/-- lda.h rD,rS1[rS2] (R635). -/
def execLdaH (d s1 s2 : RegNum) (s : State) : Host.Outcome State Fault Refusal :=
  result d (eaReg s s1 s2 true 1) s

/-- lda.x rD,rS1[rS2] (R635). -/
def execLdaX (d s1 s2 : RegNum) (s : State) : Host.Outcome State Fault Refusal :=
  result d (eaReg s s1 s2 true 4) s

end Sys2Proof.Machine
end

