-- ==== Sys2Proof/Machine/Logical.lean ====
section
/-!
DEFINITION. The logical instructions (40_logical.md R420 to R424): no flag, no exception.
-/

namespace Sys2Proof.Machine

/-- The second operand of a register form: complemented with .c (R421 to R423). -/
def complementIf (c : Bool) (v : Word) : Word := if c then ~~~v else v

/-- and rD,rS1,IMM16: the high half is kept (R420, R421). -/
def execAndImm (d s1 : RegNum) (imm : BitVec 16) (s : State) : Host.Outcome State Fault Refusal :=
  result d (readReg s s1 &&& (0xFFFF#16 ++ imm)) s

/-- and.u rD,rS1,IMM16: the low half is kept (R420, R421). -/
def execAndUImm (d s1 : RegNum) (imm : BitVec 16) (s : State) : Host.Outcome State Fault Refusal :=
  result d (readReg s s1 &&& (imm ++ 0xFFFF#16)) s

/-- mask rD,rS1,IMM16: the high half is cleared (R424). -/
def execMaskImm (d s1 : RegNum) (imm : BitVec 16) (s : State) : Host.Outcome State Fault Refusal :=
  result d (readReg s s1 &&& immLow imm) s

/-- mask.u rD,rS1,IMM16: the low half is cleared (R424). -/
def execMaskUImm (d s1 : RegNum) (imm : BitVec 16) (s : State) : Host.Outcome State Fault Refusal :=
  result d (readReg s s1 &&& immHigh imm) s

/-- xor rD,rS1,IMM16 (R423). -/
def execXorImm (d s1 : RegNum) (imm : BitVec 16) (s : State) : Host.Outcome State Fault Refusal :=
  result d (readReg s s1 ^^^ immLow imm) s

/-- xor.u rD,rS1,IMM16 (R423). -/
def execXorUImm (d s1 : RegNum) (imm : BitVec 16) (s : State) : Host.Outcome State Fault Refusal :=
  result d (readReg s s1 ^^^ immHigh imm) s

/-- or rD,rS1,IMM16 (R422). -/
def execOrImm (d s1 : RegNum) (imm : BitVec 16) (s : State) : Host.Outcome State Fault Refusal :=
  result d (readReg s s1 ||| immLow imm) s

/-- or.u rD,rS1,IMM16 (R422). -/
def execOrUImm (d s1 : RegNum) (imm : BitVec 16) (s : State) : Host.Outcome State Fault Refusal :=
  result d (readReg s s1 ||| immHigh imm) s

/-- and and and.c rD,rS1,rS2 (R421). -/
def execAndReg (d s1 : RegNum) (c : Bool) (s2 : RegNum) (s : State) : Host.Outcome State Fault Refusal :=
  result d (readReg s s1 &&& complementIf c (readReg s s2)) s

/-- xor and xor.c rD,rS1,rS2 (R423). -/
def execXorReg (d s1 : RegNum) (c : Bool) (s2 : RegNum) (s : State) : Host.Outcome State Fault Refusal :=
  result d (readReg s s1 ^^^ complementIf c (readReg s s2)) s

/-- or and or.c rD,rS1,rS2 (R422). -/
def execOrReg (d s1 : RegNum) (c : Bool) (s2 : RegNum) (s : State) : Host.Outcome State Fault Refusal :=
  result d (readReg s s1 ||| complementIf c (readReg s s2)) s

end Sys2Proof.Machine
end

