-- ==== Sys2Proof/Machine/Dispatch.lean ====
section
/-!
DEFINITION. The dispatch: one arm for each constructor of Instr (46_flow_control.md R661).
-/

namespace Sys2Proof.Machine

/-- The meaning of an instruction. -/
def exec (i : Instr) (s : State) : Host.Outcome State Fault Refusal :=
  match i with
  | .ldXrfDImm d s1 imm => Sys2Proof.Machine.execLdXrfDImm d s1 imm s
  | .ldXrfImm d s1 imm => Sys2Proof.Machine.execLdXrfImm d s1 imm s
  | .ldHuImm d s1 imm => Sys2Proof.Machine.execLdHuImm d s1 imm s
  | .ldBuImm d s1 imm => Sys2Proof.Machine.execLdBuImm d s1 imm s
  | .ldDImm d s1 imm => Sys2Proof.Machine.execLdDImm d s1 imm s
  | .ldImm d s1 imm => Sys2Proof.Machine.execLdImm d s1 imm s
  | .ldHImm d s1 imm => Sys2Proof.Machine.execLdHImm d s1 imm s
  | .ldBImm d s1 imm => Sys2Proof.Machine.execLdBImm d s1 imm s
  | .stDImm d s1 imm => Sys2Proof.Machine.execStDImm d s1 imm s
  | .stImm d s1 imm => Sys2Proof.Machine.execStImm d s1 imm s
  | .stHImm d s1 imm => Sys2Proof.Machine.execStHImm d s1 imm s
  | .stBImm d s1 imm => Sys2Proof.Machine.execStBImm d s1 imm s
  | .stXrfDImm d s1 imm => Sys2Proof.Machine.execStXrfDImm d s1 imm s
  | .stXrfImm d s1 imm => Sys2Proof.Machine.execStXrfImm d s1 imm s
  | .stXrfXImm d s1 imm => Sys2Proof.Machine.execStXrfXImm d s1 imm s
  | .ldXrfXImm d s1 imm => Sys2Proof.Machine.execLdXrfXImm d s1 imm s
  | .andImm d s1 imm => Sys2Proof.Machine.execAndImm d s1 imm s
  | .andUImm d s1 imm => Sys2Proof.Machine.execAndUImm d s1 imm s
  | .maskImm d s1 imm => Sys2Proof.Machine.execMaskImm d s1 imm s
  | .maskUImm d s1 imm => Sys2Proof.Machine.execMaskUImm d s1 imm s
  | .xorImm d s1 imm => Sys2Proof.Machine.execXorImm d s1 imm s
  | .xorUImm d s1 imm => Sys2Proof.Machine.execXorUImm d s1 imm s
  | .orImm d s1 imm => Sys2Proof.Machine.execOrImm d s1 imm s
  | .orUImm d s1 imm => Sys2Proof.Machine.execOrUImm d s1 imm s
  | .adduImm d s1 imm => Sys2Proof.Machine.execAdduImm d s1 imm s
  | .subuImm d s1 imm => Sys2Proof.Machine.execSubuImm d s1 imm s
  | .divuImm d s1 imm => Sys2Proof.Machine.execDivuImm d s1 imm s
  | .muluImm d s1 imm => Sys2Proof.Machine.execMuluImm d s1 imm s
  | .addImm d s1 imm => Sys2Proof.Machine.execAddImm d s1 imm s
  | .subImm d s1 imm => Sys2Proof.Machine.execSubImm d s1 imm s
  | .divsImm d s1 imm => Sys2Proof.Machine.execDivsImm d s1 imm s
  | .cmpImm d s1 imm => Sys2Proof.Machine.execCmpImm d s1 imm s
  | .ldcr d cr => Sys2Proof.Machine.execLdcr d cr s
  | .stcr s1 cr s2 => Sys2Proof.Machine.execStcr s1 cr s2 s
  | .xcr d s1 cr s2 => Sys2Proof.Machine.execXcr d s1 cr s2 s
  | .fldcr d cr => Sys2Proof.Machine.execFldcr d cr s
  | .fstcr s1 cr s2 => Sys2Proof.Machine.execFstcr s1 cr s2 s
  | .fxcr d s1 cr s2 => Sys2Proof.Machine.execFxcr d s1 cr s2 s
  | .br n disp => Sys2Proof.Machine.execBr n disp s
  | .bsr n disp => Sys2Proof.Machine.execBsr n disp s
  | .bb0 n b s1 disp => Sys2Proof.Machine.execBb0 n b s1 disp s
  | .bb1 n b s1 disp => Sys2Proof.Machine.execBb1 n b s1 disp s
  | .bcnd n m s1 disp => Sys2Proof.Machine.execBcnd n m s1 disp s
  | .clrImm d s1 w o => Sys2Proof.Machine.execClrImm d s1 w o s
  | .setImm d s1 w o => Sys2Proof.Machine.execSetImm d s1 w o s
  | .extImm d s1 w o => Sys2Proof.Machine.execExtImm d s1 w o s
  | .extuImm d s1 w o => Sys2Proof.Machine.execExtuImm d s1 w o s
  | .makImm d s1 w o => Sys2Proof.Machine.execMakImm d s1 w o s
  | .rotImm d s1 o => Sys2Proof.Machine.execRotImm d s1 o s
  | .tb0 b s1 vec => Sys2Proof.Machine.execTb0 b s1 vec s
  | .tb1 b s1 vec => Sys2Proof.Machine.execTb1 b s1 vec s
  | .tcnd m s1 vec => Sys2Proof.Machine.execTcnd m s1 vec s
  | .ldXrfD d s1 scaled usr s2 => Sys2Proof.Machine.execLdXrfD d s1 scaled usr s2 s
  | .ldXrf d s1 scaled usr s2 => Sys2Proof.Machine.execLdXrf d s1 scaled usr s2 s
  | .ldXrfX d s1 scaled usr s2 => Sys2Proof.Machine.execLdXrfX d s1 scaled usr s2 s
  | .stXrfD d s1 scaled usr wt s2 => Sys2Proof.Machine.execStXrfD d s1 scaled usr wt s2 s
  | .stXrf d s1 scaled usr wt s2 => Sys2Proof.Machine.execStXrf d s1 scaled usr wt s2 s
  | .stXrfX d s1 scaled usr wt s2 => Sys2Proof.Machine.execStXrfX d s1 scaled usr wt s2 s
  | .xmemBu d s1 scaled usr s2 => Sys2Proof.Machine.execXmemBu d s1 scaled usr s2 s
  | .xmem d s1 scaled usr s2 => Sys2Proof.Machine.execXmem d s1 scaled usr s2 s
  | .ldHu d s1 scaled usr s2 => Sys2Proof.Machine.execLdHu d s1 scaled usr s2 s
  | .ldBu d s1 scaled usr s2 => Sys2Proof.Machine.execLdBu d s1 scaled usr s2 s
  | .ldD d s1 scaled usr s2 => Sys2Proof.Machine.execLdD d s1 scaled usr s2 s
  | .ld d s1 scaled usr s2 => Sys2Proof.Machine.execLd d s1 scaled usr s2 s
  | .ldH d s1 scaled usr s2 => Sys2Proof.Machine.execLdH d s1 scaled usr s2 s
  | .ldB d s1 scaled usr s2 => Sys2Proof.Machine.execLdB d s1 scaled usr s2 s
  | .stD d s1 scaled usr wt s2 => Sys2Proof.Machine.execStD d s1 scaled usr wt s2 s
  | .st d s1 scaled usr wt s2 => Sys2Proof.Machine.execSt d s1 scaled usr wt s2 s
  | .stH d s1 scaled usr wt s2 => Sys2Proof.Machine.execStH d s1 scaled usr wt s2 s
  | .stB d s1 scaled usr wt s2 => Sys2Proof.Machine.execStB d s1 scaled usr wt s2 s
  | .ldaD d s1 s2 => Sys2Proof.Machine.execLdaD d s1 s2 s
  | .lda d s1 s2 => Sys2Proof.Machine.execLda d s1 s2 s
  | .ldaH d s1 s2 => Sys2Proof.Machine.execLdaH d s1 s2 s
  | .ldaX d s1 s2 => Sys2Proof.Machine.execLdaX d s1 s2 s
  | .andReg d s1 c s2 => Sys2Proof.Machine.execAndReg d s1 c s2 s
  | .xorReg d s1 c s2 => Sys2Proof.Machine.execXorReg d s1 c s2 s
  | .orReg d s1 c s2 => Sys2Proof.Machine.execOrReg d s1 c s2 s
  | .adduReg d s1 ci co s2 => Sys2Proof.Machine.execAdduReg d s1 ci co s2 s
  | .subuReg d s1 ci co s2 => Sys2Proof.Machine.execSubuReg d s1 ci co s2 s
  | .addReg d s1 ci co s2 => Sys2Proof.Machine.execAddReg d s1 ci co s2 s
  | .subReg d s1 ci co s2 => Sys2Proof.Machine.execSubReg d s1 ci co s2 s
  | .divuReg d s1 s2 => Sys2Proof.Machine.execDivuReg d s1 s2 s
  | .divuD d s1 s2 => Sys2Proof.Machine.execDivuD d s1 s2 s
  | .muluReg d s1 s2 => Sys2Proof.Machine.execMuluReg d s1 s2 s
  | .muluD d s1 s2 => Sys2Proof.Machine.execMuluD d s1 s2 s
  | .muls d s1 s2 => Sys2Proof.Machine.execMuls d s1 s2 s
  | .divsReg d s1 s2 => Sys2Proof.Machine.execDivsReg d s1 s2 s
  | .cmpReg d s1 s2 => Sys2Proof.Machine.execCmpReg d s1 s2 s
  | .clrReg d s1 s2 => Sys2Proof.Machine.execClrReg d s1 s2 s
  | .setReg d s1 s2 => Sys2Proof.Machine.execSetReg d s1 s2 s
  | .extReg d s1 s2 => Sys2Proof.Machine.execExtReg d s1 s2 s
  | .extuReg d s1 s2 => Sys2Proof.Machine.execExtuReg d s1 s2 s
  | .makReg d s1 s2 => Sys2Proof.Machine.execMakReg d s1 s2 s
  | .rotReg d s1 s2 => Sys2Proof.Machine.execRotReg d s1 s2 s
  | .jmp n s2 => Sys2Proof.Machine.execJmp n s2 s
  | .jsr n s2 => Sys2Proof.Machine.execJsr n s2 s
  | .ff1 d s2 => Sys2Proof.Machine.execFf1 d s2 s
  | .ff0 d s2 => Sys2Proof.Machine.execFf0 d s2 s
  | .tbndReg s1 s2 => Sys2Proof.Machine.execTbndReg s1 s2 s
  | .tbndImm s1 imm => Sys2Proof.Machine.execTbndImm s1 imm s
  | .rte => Sys2Proof.Machine.execRte s
  | .illop1 => Sys2Proof.Machine.execIllop1 s
  | .illop2 => Sys2Proof.Machine.execIllop2 s
  | .illop3 => Sys2Proof.Machine.execIllop3 s
  | .fmul d s1 x t1 t2 td s2 => Sys2Proof.Machine.execFmul d s1 x t1 t2 td s2 s
  | .fadd d s1 x t1 t2 td s2 => Sys2Proof.Machine.execFadd d s1 x t1 t2 td s2 s
  | .fsub d s1 x t1 t2 td s2 => Sys2Proof.Machine.execFsub d s1 x t1 t2 td s2 s
  | .fdiv d s1 x t1 t2 td s2 => Sys2Proof.Machine.execFdiv d s1 x t1 t2 td s2 s
  | .fcvt d x t2 td s2 => Sys2Proof.Machine.execFcvt d x t2 td s2 s
  | .fsqrt d x t2 td s2 => Sys2Proof.Machine.execFsqrt d x t2 td s2 s
  | .flt d x td s2 => Sys2Proof.Machine.execFlt d x td s2 s
  | .fcmp d s1 x t1 t2 s2 => Sys2Proof.Machine.execFcmp d s1 x t1 t2 s2 s
  | .fcmpu d s1 x t1 t2 s2 => Sys2Proof.Machine.execFcmpu d s1 x t1 t2 s2 s
  | .int d x t2 s2 => Sys2Proof.Machine.execInt d x t2 s2 s
  | .nint d x t2 s2 => Sys2Proof.Machine.execNint d x t2 s2 s
  | .trnc d x t2 s2 => Sys2Proof.Machine.execTrnc d x t2 s2 s
  | .movToGrf d dbl s2 => Sys2Proof.Machine.execMovToGrf d dbl s2 s
  | .movToXrf d dbl s2 => Sys2Proof.Machine.execMovToXrf d dbl s2 s
  | .movXrf d s2 => Sys2Proof.Machine.execMovXrf d s2 s
  | .pmul d s1 s2 => Sys2Proof.Machine.execPmul d s1 s2 s
  | .padd d s1 t s2 => Sys2Proof.Machine.execPadd d s1 t s2 s
  | .paddsU d s1 t s2 => Sys2Proof.Machine.execPaddsU d s1 t s2 s
  | .paddsUs d s1 t s2 => Sys2Proof.Machine.execPaddsUs d s1 t s2 s
  | .paddsS d s1 t s2 => Sys2Proof.Machine.execPaddsS d s1 t s2 s
  | .psub d s1 t s2 => Sys2Proof.Machine.execPsub d s1 t s2 s
  | .psubsU d s1 t s2 => Sys2Proof.Machine.execPsubsU d s1 t s2 s
  | .psubsUs d s1 t s2 => Sys2Proof.Machine.execPsubsUs d s1 t s2 s
  | .psubsS d s1 t s2 => Sys2Proof.Machine.execPsubsS d s1 t s2 s
  | .pcmp d s1 s2 => Sys2Proof.Machine.execPcmp d s1 s2 s
  | .ppack d s1 r t s2 => Sys2Proof.Machine.execPpack d s1 r t s2 s
  | .punpk d s1 t => Sys2Proof.Machine.execPunpk d s1 t s
  | .protImm d s1 r => Sys2Proof.Machine.execProtImm d s1 r s
  | .protReg d s1 s2 => Sys2Proof.Machine.execProtReg d s1 s2 s

end Sys2Proof.Machine
end

