-- ==== Sys2Proof/Machine/Inputs.lean ====
section
/-!
DEFINITION. What the outside does at the boundary between two instructions: the interrupt pins (60_exceptions.md R740
to R742), reset (70_reset_and_hazards.md R800), another master's bus transactions (80_bus_platform.md R892).
-/

namespace Sys2Proof.Machine

/-! ### Reset (R800, 10_state.md R65) -/

/-- How many free values a reset draws. -/
def resetDraws : Nat := 300

/-- A memory unit after a reset while the machine runs: HTEN alone is set, M6 to M0 and everything else is free
(12_cache_mmu_state.md R119); reserved bits stay 0. -/
def freeMmu (side : Side) (k : Nat) : Mmu where
  ctl := (Config.freeWord k &&& 0x007F0000#32) ||| 0x00000040#32
  sar := Config.freeWord (k + 1)
  sap := Config.freeWord (k + 2) &&& 0xFFFFFEC1#32
  uap := Config.freeWord (k + 3) &&& 0xFFFFFEC1#32
  ir := Config.freeWord (k + 4) &&& 0x0003F703#32
  ppu := Config.freeWord (k + 5)
  ppl := Config.freeWord (k + 6)
  status := Config.freeWord (k + 7) &&& statusLegal side
  lar := Config.freeWord (k + 8)
  par := Config.freeWord (k + 9)
  batc := Vector.ofFn fun i => ⟨Config.freeWord (k + 10 + i.val), (Config.freeWord (k + 18 + i.val)).setWidth 2⟩
  patc := Vector.ofFn fun i =>
    ⟨Config.freeWord (k + 26 + i.val) &&& 0xFFFFF040#32, Config.freeWord (k + 58 + i.val) &&& 0xFFFFFEC5#32⟩
  fifo := ⟨Config.freeNat k % 32, Nat.mod_lt _ (by decide)⟩

/-- RST asserted and negated while the machine runs: what R800 names is set, what it leaves unspecified is free, and the
memory, the cache and TIC arrays and the pins are as they were (10_state.md R65). -/
def resetInput (s : State) : State :=
  let k := s.draws
  { s with
    gpr := Vector.ofFn fun i => if i.val = 0 then 0#32 else Config.freeWord (k + i.val)
    xrf := Vector.ofFn fun i => if i.val = 0 then 0#80 else Config.freeX (k + i.val)
    xip := 0x00000000#32
    nip := 0x00000004#32
    ds := false
    psr := 0xA20003FF#32
    epsr := psrLegal (Config.freeWord (k + 32))
    exip := Config.freeWord (k + 33) &&& 0xFFFFFFFD#32
    enip := Config.freeWord (k + 34) &&& 0xFFFFFFFC#32
    vbr := 0#32
    sr0 := Config.freeWord (k + 35)
    sr1 := Config.freeWord (k + 36)
    sr2 := Config.freeWord (k + 37)
    sr3 := Config.freeWord (k + 38)
    sr4 := Config.freeWord (k + 39)
    fpecr := 0#32
    fpsr := 0#32
    fpcr := 0#32
    imu := freeMmu .instr (k + 40)
    dmu := freeMmu .data (k + 130)
    bp0 := ⟨Config.freeWord (k + 220), Config.freeWord (k + 221) &&& 0x0000FFFF#32⟩
    bp1 := ⟨Config.freeWord (k + 222), Config.freeWord (k + 223) &&& 0x0000FFFF#32⟩
    ibias := false
    dbias := false
    ticFifo := ⟨Config.freeNat (k + 1) % 32, Nat.mod_lt _ (by decide)⟩
    ticSupply := []
    ticFill := none
    prefetched := []
    nmiPending := false
    modeWindow := 0
    stuck := false
    draws := k + resetDraws
    lastExc := none
    halted := none
    snoopFault := none }

/-! ### Steps that are cut short -/

/-- A step that began in state b and was cut short: what it had done outside the registers stays, and the machine is
reset (80_bus_platform.md R908), or waits for RST while its transaction does not end (R910). -/
def endHalt (b : State) (h : Halt) : State :=
  let t := { b with
    icache := h.icache, dcache := h.dcache, tic := h.tic, mem := h.mem, busLog := h.busLog, script := h.script,
    draws := h.draws, halted := none }
  if h.reset then resetInput t else { t with stuck := true, lastExc := none }

/-- The end of a step that began in b and led to t. -/
def settleHalt (b t : State) : State :=
  match t.halted with
  | none => t
  | some h => endHalt b h

/-! ### The boundary -/

/-- One input. -/
def applyInput (s : State) : Input → State
  | .int b => { s with intPin := b }
  | .nmi b => { s with nmiPin := b, nmiPending := s.nmiPending || (b && !s.nmiPin) }
  | .reset => resetInput s
  | .bus t => settleHalt s (otherMaster t s)

/-- The boundary before a step: the next group of inputs in order, then a snoop copyback that ended with TEA is
recorded; true when its data access exception is to be taken (22_caches.md R317). -/
def boundary (s : State) : Bool × State :=
  let v := (s.inputs.headD []).foldl applyInput { s with inputs := s.inputs.tail, lastExc := none }
  match v.snoopFault with
  | none => (false, v)
  | some a => (true, recordFault .data true 0#32 (copybackFault false true a) { v with snoopFault := none })

/-- The interrupt that is pending and enabled: NMI before INT (60_exceptions.md R706, R740, R741). -/
def pendingInterrupt (s : State) : Option Exc :=
  if s.nmiPending && !psrEfrz s then some .nonmaskableInterrupt
  else if s.intPin && !psrInd s then some .maskableInterrupt
  else none

/-- Taking an interrupt; taking NMI clears its latch (R741). -/
def takeInterrupt (e : Exc) (s : State) : State :=
  takeException e (if e = .nonmaskableInterrupt then { s with nmiPending := false } else s)

end Sys2Proof.Machine
end

