-- ==== Sys2Proof/Machine/Run.lean ====
section
/-!
DEFINITION. One step: the boundary's inputs, a pending interrupt, or one instruction (46_flow_control.md R661,
60_exceptions.md R705, R706, R742).
-/

namespace Sys2Proof.Machine

/-- The serializing instructions (70_reset_and_hazards.md R810). A word of stcr, xcr, fstcr or fxcr whose two source fields
differ is a reserved encoding (30_encoding.md R369), which the list does not name; that it does not serialize is the
model's choice (entry 38). -/
def serializes : Instr → Bool
  | .xmem .. | .xmemBu .. | .tb0 .. | .tb1 .. | .tcnd .. | .rte .. | .ldcr .. | .fldcr .. => true
  | .stcr s1 _ s2 => s1 == s2
  | .xcr _ s1 _ s2 => s1 == s2
  | .fstcr s1 _ s2 => s1 == s2
  | .fxcr _ s1 _ s2 => s1 == s2
  | .ldXrfDImm .. | .ldXrfImm .. | .ldHuImm .. | .ldBuImm .. | .ldDImm .. | .ldImm .. | .ldHImm ..
  | .ldBImm .. | .stDImm .. | .stImm .. | .stHImm .. | .stBImm .. | .stXrfDImm .. | .stXrfImm ..
  | .stXrfXImm .. | .ldXrfXImm .. | .andImm .. | .andUImm .. | .maskImm .. | .maskUImm .. | .xorImm ..
  | .xorUImm .. | .orImm .. | .orUImm .. | .adduImm .. | .subuImm .. | .divuImm .. | .muluImm ..
  | .addImm .. | .subImm .. | .divsImm .. | .cmpImm .. | .br .. | .bsr .. | .bb0 .. | .bb1 .. | .bcnd ..
  | .clrImm .. | .setImm .. | .extImm .. | .extuImm .. | .makImm .. | .rotImm .. | .ldXrfD .. | .ldXrf ..
  | .ldXrfX .. | .stXrfD .. | .stXrf .. | .stXrfX .. | .ldHu .. | .ldBu .. | .ldD .. | .ld .. | .ldH ..
  | .ldB .. | .stD .. | .st .. | .stH .. | .stB .. | .ldaD .. | .lda .. | .ldaH .. | .ldaX .. | .andReg ..
  | .xorReg .. | .orReg .. | .adduReg .. | .subuReg .. | .addReg .. | .subReg .. | .divuReg .. | .divuD ..
  | .muluReg .. | .muluD .. | .muls .. | .divsReg .. | .cmpReg .. | .clrReg .. | .setReg .. | .extReg ..
  | .extuReg .. | .makReg .. | .rotReg .. | .jmp .. | .jsr .. | .ff1 .. | .ff0 .. | .tbndReg ..
  | .tbndImm .. | .illop1 .. | .illop2 .. | .illop3 .. | .fmul .. | .fadd .. | .fsub .. | .fdiv ..
  | .fcvt .. | .fsqrt .. | .flt .. | .fcmp .. | .fcmpu .. | .int .. | .nint .. | .trnc .. | .movToGrf ..
  | .movToXrf .. | .movXrf .. | .pmul .. | .padd .. | .paddsU .. | .paddsUs .. | .paddsS .. | .psub ..
  | .psubsU .. | .psubsUs .. | .psubsS .. | .pcmp .. | .ppack .. | .punpk .. | .protImm .. | .protReg .. => false

/-- The instruction issues: a serializing one discards the prefetched words (20_memory.md R197), and a branch in whose
delay slot it stands fills no TIC entry, because the two do not issue together (46_flow_control.md R690,
70_reset_and_hazards.md R810). -/
def issue (i : Instr) (s : State) : State := if serializes i then { s with prefetched := [], ticFill := none } else s

/-- The instruction a word stands for runs; a reserved word raises the exception of its opcode space (30_encoding.md
R364). -/
def runWord (w : Word) (s : State) : Host.Outcome State Fault Refusal :=
  match decodeWord w with
  | .ok i => exec i (issue i s)
  | .error (.reserved space) => raiseReserved space s
  | .error .truncated => raise .unimplementedOpcode s

/-- The error vector cannot be fetched: a fetch faulted there while PSR.EFRZ is 1 (60_exceptions.md R751). -/
def errorVectorLost (s : State) : Bool := psrEfrz s && (s.xip == vectorAddress s errorVector)

/-- Where an exception takes a machine from state b to t: the loads behind, at most n, that had been granted access, made
in the address spaces of b. With PSR.SRM 1 there are none, since each load waits for all instructions before it
(60_exceptions.md R713, 20_memory.md R187, R192, 93_implementation_defined.md P30). -/
def waivedLoads (n : Nat) (b t : State) : State :=
  match b.script.waived with
  | [] => t
  | ls :: rest =>
    let u := { t with psr := b.psr, script := { t.script with waived := rest } }
    let v := if psrSrm b then u else (ls.take n).foldl (fun w l => waivedLoad l w) u
    { v with psr := t.psr }

/-- How many instructions can stand in the history buffer behind one that takes an exception (70_reset_and_hazards.md
R805). -/
def issuedBehind : Nat := 11

/-- How many instructions the history buffer holds (R805). -/
def historyDepth : Nat := 12

/-- The outcome of the instruction that ran in state b: when it took an exception, the loads behind it that had been
granted access complete and their results are waived (60_exceptions.md R713). -/
def waive (b : State) : Host.Outcome State Fault Refusal → Host.Outcome State Fault Refusal
  | .next t => .next (if t.lastExc.isSome then waivedLoads issuedBehind b t else t)
  | .fault f => .fault f
  | .refused r => .refused r

/-- Nothing is issued behind the instruction of a word before it completes (70_reset_and_hazards.md R810, R811). A word
that is no instruction does not serialize (entry 38). -/
def issuesAlone (w : Word) : Bool :=
  match decodeWord w with
  | .ok i => serializes i
  | .error _ => false

/-- A fetched word runs, unless RST or a transaction that never ends came first (80_bus_platform.md R908, R910). -/
def runFetched (w : Word) (s : State) : Host.Outcome State Fault Refusal :=
  if s.halted.isSome then .next s
  else if issuesAlone w then runWord w s
  else waive s (runWord w s)

/-- The instruction at XIP is fetched, decoded and runs (R661, R705); a machine that cannot fetch the error vector
is stuck (R751). -/
def runInstruction (s : State) : Host.Outcome State Fault Refusal :=
  match fetch s with
  | .ok w s' => runFetched w (lookAhead s')
  | .trap e s' =>
    if errorVectorLost s' then .next { s' with stuck := true } else .next (waivedLoads issuedBehind s' (takeException e s'))
  | .stop f => .fault f

/-- The outcome is a data access exception's entry. -/
def tookDataAccess : Host.Outcome State Fault Refusal → Bool
  | .next t => t.lastExc == some .dataAccess
  | .fault _ => false
  | .refused _ => false

/-- The end of a step that began in b. -/
def endStep (b : State) : Host.Outcome State Fault Refusal → Host.Outcome State Fault Refusal
  | .next t => .next (settleHalt b t)
  | .fault f => .fault f
  | .refused r => .refused r

/-- One step: a stuck machine waits for RST (R751); else a snoop copyback's error, else a pending interrupt unless the
instruction at XIP raises a data access exception (R706), else that instruction. RST may cut the step short. -/
def runStep (s : State) : Host.Outcome State Fault Refusal :=
  let b := boundary s
  if b.2.stuck then .next b.2
  else
    endStep b.2
      (if b.1 then .next (waivedLoads historyDepth b.2 (takeException .dataAccess b.2))
      else
        match pendingInterrupt b.2 with
        | none => runInstruction b.2
        | some e =>
          let r := runInstruction b.2
          if tookDataAccess r then r else .next (waivedLoads historyDepth b.2 (takeInterrupt e b.2)))

end Sys2Proof.Machine
end

