-- ==== Sys2Proof/Safety.lean ====
section
/-!
DEFINITION. What a safe state is: the legal values of the registers that have reserved or hardwired bits, aligned
instruction pointers, and a memory in canonical form; every step keeps it. Then the terms the statements of
Certificates/Slice0/Obligations.lean are written in: what an instruction leaves as it was, what entering an exception
leaves, a memory access in its plain setting, and the exact value of a floating-point operand.
-/

namespace Sys2Proof.Machine

/-! ### Legal states -/

/-- The bits of a general control register that are fixed (10_state.md R33, R46 to R49; 46_flow_control.md R661). -/
structure ControlLegal (s : State) : Prop where
  psr : psrLegal s.psr = s.psr
  epsr : psrLegal s.epsr = s.epsr
  exip : s.exip &&& 0xFFFFFFFD#32 = s.exip
  enip : s.enip &&& 0xFFFFFFFC#32 = s.enip
  vbr : s.vbr &&& 0xFFFFF000#32 = s.vbr
  fpecr : s.fpecr &&& 0x000000FF#32 = s.fpecr
  fpsr : s.fpsr &&& 0x0001001F#32 = s.fpsr
  fpcr : s.fpcr &&& 0x0026C01F#32 = s.fpcr

/-- Both instruction pointers name a word (10_state.md R26). -/
structure PointersAligned (s : State) : Prop where
  xip : s.xip &&& 3#32 = 0#32
  nip : s.nip &&& 3#32 = 0#32

/-- The reserved bits of the memory units' control, area pointer, index and status registers are zero
(93_implementation_defined.md P13). -/
structure MmuLegal (side : Side) (m : Mmu) : Prop where
  ctl : m.ctl &&& ctlLegal side = m.ctl
  sap : m.sap &&& 0xFFFFFEC1#32 = m.sap
  uap : m.uap &&& 0xFFFFFEC1#32 = m.uap
  ir : m.ir &&& 0x0003F703#32 = m.ir
  status : m.status &&& statusLegal side = m.status

/-- A state in which every register with reserved or hardwired bits holds them as the spec says, the instruction
pointers are aligned, outside a delay slot NIP follows XIP, the memory is in canonical form, and no step is in progress.
-/
structure Legal (s : State) : Prop where
  control : ControlLegal s
  pointers : PointersAligned s
  sequence : s.ds = false → s.nip = s.xip + 4#32
  imu : MmuLegal .instr s.imu
  dmu : MmuLegal .data s.dmu
  memory : Memory.wf s.mem = true
  between : s.halted = none

/-! ### What an instruction does and leaves -/

/-- The instruction ends in a next state that has the property. -/
def Does (i : Instr) (s : State) (after : State → Prop) : Prop := ∃ t, exec i s = .next t ∧ after t

/-- Every byte of memory reads as before. -/
def SameMemory (s t : State) : Prop := ∀ a : Word, readByte t a = readByte s a

/-- Every general register reads as before. -/
def SameRegisters (s t : State) : Prop := ∀ r : RegNum, readReg t r = readReg s r

/-- The next instruction in execution order follows, and nothing else changes. -/
structure FallsThrough (s t : State) : Prop where
  frame : t = { s with xip := s.nip, nip := s.nip + 4#32, ds := false }
  memory : SameMemory s t

/-- r[d] receives v (a write to r0 is discarded), the next instruction follows, and nothing else changes. -/
structure Sets (d : RegNum) (v : Word) (s t : State) : Prop where
  reads : ∀ r : RegNum, readReg t r = if r = d ∧ d ≠ 0#5 then v else readReg s r
  frame : t = { s with gpr := t.gpr, xip := s.nip, nip := s.nip + 4#32, ds := false }
  memory : SameMemory s t

/-- As Sets, and PSR.C is c; the other bits of PSR are as before. -/
structure SetsCarry (d : RegNum) (v : Word) (c : Bool) (s t : State) : Prop where
  reads : ∀ r : RegNum, readReg t r = if r = d ∧ d ≠ 0#5 then v else readReg s r
  carry : ∀ i : Nat, i < 32 → t.psr.getLsbD i = if i = 28 then c else s.psr.getLsbD i
  frame : t = { s with gpr := t.gpr, psr := t.psr, xip := s.nip, nip := s.nip + 4#32, ds := false }
  memory : SameMemory s t

/-- The pair of an even d receives hi and lo (of r0:r1 only r1 is written), the next instruction follows, and nothing
else changes. -/
structure SetsPair (d : RegNum) (hi lo : Word) (s t : State) : Prop where
  reads : ∀ r : RegNum,
    readReg t r = if r = d + 1#5 then lo else if r = d ∧ d ≠ 0#5 then hi else readReg s r
  frame : t = { s with gpr := t.gpr, xip := s.nip, nip := s.nip + 4#32, ds := false }
  memory : SameMemory s t

/-- A branch to target is taken: at once, or with n after the next instruction; of the rest only general registers and
the bookkeeping of the target instruction cache may differ (46_flow_control.md R661). -/
structure Branches (n : Bool) (target : Word) (s t : State) : Prop where
  xip : t.xip = if n then s.nip else target
  nip : t.nip = if n then target else target + 4#32
  ds : t.ds = n
  frame : t = { s with
    gpr := t.gpr, xip := t.xip, nip := t.nip, ds := t.ds, ticSupply := t.ticSupply, ticFill := t.ticFill,
    draws := t.draws }
  memory : SameMemory s t

/-- A conditional branch is not taken: with n the next instruction is in a delay slot all the same (R661). -/
structure Passes (n : Bool) (s t : State) : Prop where
  frame : t = { s with xip := s.nip, nip := s.nip + 4#32, ds := n }
  memory : SameMemory s t

/-- The exception with vector number n is entered from s (60_exceptions.md R720; R750 while PSR.EFRZ is 1): what is
saved, what PSR becomes, where execution goes on, and that nothing else changes but the pending supply of the target
instruction cache, the prefetched words, the window after MODE was cleared and the model's own mark of the exception.
-/
structure Enters (n : BitVec 9) (s t : State) : Prop where
  exip : t.exip = if psrEfrz s then s.exip else s.xip.extractLsb' 2 30 ++ 0#1 ++ BitVec.ofBool s.ds
  enip : t.enip = if psrEfrz s = false ∧ s.ds = true then s.nip else s.enip
  epsr : t.epsr = if psrEfrz s then s.epsr else s.psr
  psr : ∀ i : Nat, i < 32 → t.psr.getLsbD i = (decide (i ∈ [31, 4, 3, 1, 0]) || s.psr.getLsbD i)
  xip : t.xip = s.vbr.extractLsb' 12 20 ++ (if psrEfrz s then 10#9 else n) ++ 0#3
  nip : t.nip = t.xip + 4#32
  ds : t.ds = false
  frame : t = { s with
    exip := t.exip, enip := t.enip, epsr := t.epsr, psr := t.psr, xip := t.xip, nip := t.nip, ds := t.ds,
    ticSupply := t.ticSupply, ticFill := t.ticFill, prefetched := t.prefetched, modeWindow := t.modeWindow,
    lastExc := t.lastExc }
  memory : SameMemory s t

/-- The SFU1 exception is entered with exactly the causes given in FPECR (43_floating_point.md R496). -/
def EntersSfu1 (causes : Word) (s t : State) : Prop := Enters 114#9 { s with fpecr := causes } t

/-- The SFU1 exception is entered with FPECR.FUNIMP set; the other cause bits are undefined, the reserved bits zero
(10_state.md R54, 43_floating_point.md R497). -/
structure EntersUnimplemented (s t : State) : Prop where
  funimp : t.fpecr.getLsbD 6 = true
  reserved : ∀ i : Nat, 8 ≤ i → t.fpecr.getLsbD i = false
  entry : Enters 114#9 { s with fpecr := t.fpecr, draws := t.draws } t

/-! ### Memory accesses in their plain setting -/

/-- The data unit goes straight to memory at the physical address a, undisturbed: data MMU and data cache disabled, no
breakpoint armed, memory alone at a, and nothing from outside during the instruction. -/
structure PlainData (s : State) (a : Word) : Prop where
  mmu : ctlMen s.dmu.ctl = false
  cache : ctlCen s.dmu.ctl = false
  bp0 : ctlBpen0 s.dmu.ctl = false
  bp1 : ctlBpen1 s.dmu.ctl = false
  memory : plainAt s a = true
  idle : s.script = Script.idle

/-- The place, from the least significant, of the byte at offset k of an n-byte operand (20_memory.md R172). -/
def bytePlace (s : State) (n k : Nat) : Nat := if psrBo s then k else n - 1 - k

/-- v is the n-byte operand at a: every byte of it stands where PSR.BO puts it. -/
structure HeldAt (s : State) (a : Word) (n v : Nat) : Prop where
  bound : v < 256 ^ n
  bytes : ∀ k : Nat, k < n → v / 256 ^ bytePlace s n k % 256 = (readByte s (a + BitVec.ofNat 32 k)).toNat

/-- r[d] receives v from memory: as Sets, but for the bus transactions. -/
structure Loads (d : RegNum) (v : Word) (s t : State) : Prop where
  reads : ∀ r : RegNum, readReg t r = if r = d ∧ d ≠ 0#5 then v else readReg s r
  frame : t = { s with gpr := t.gpr, busLog := t.busLog, xip := s.nip, nip := s.nip + 4#32, ds := false }
  memory : SameMemory s t

/-- The pair of an even d receives hi and lo from memory. -/
structure LoadsPair (d : RegNum) (hi lo : Word) (s t : State) : Prop where
  reads : ∀ r : RegNum,
    readReg t r = if r = d + 1#5 then lo else if r = d ∧ d ≠ 0#5 then hi else readReg s r
  frame : t = { s with gpr := t.gpr, busLog := t.busLog, xip := s.nip, nip := s.nip + 4#32, ds := false }
  memory : SameMemory s t

/-- The high w bits of x[d] receive v; the bits below are undefined. FPSR.XMOD is set; a write to x0 is discarded and
sets nothing (10_state.md R28, R29; 92_eei_decisions.md D9). -/
structure WritesX (d : RegNum) (w v : Nat) (s t : State) : Prop where
  value : d ≠ 0#5 → (readX t d).toNat / 2 ^ (80 - w) = v
  others : ∀ r : RegNum, (r = d → d = 0#5) → readX t r = readX s r
  fpsr : ∀ i : Nat, i < 32 → t.fpsr.getLsbD i = ((decide (i = 16) && d != 0#5) || s.fpsr.getLsbD i)

/-- The n-byte operand v is stored at a: its bytes in the order of PSR.BO, every other byte as before, nothing else
changed but the bus transactions. -/
structure Stores (a : Word) (n v : Nat) (s t : State) : Prop where
  bytes : ∀ k : Nat, k < n →
    (readByte t (a + BitVec.ofNat 32 k)).toNat = v / 256 ^ bytePlace s n k % 256
  others : ∀ b : Word, n ≤ (b - a).toNat → readByte t b = readByte s b
  frame : t = { s with mem := t.mem, busLog := t.busLog, xip := s.nip, nip := s.nip + 4#32, ds := false }

/-! ### Exact values -/

/-- The exact value of a floating-point operand that is a number; 0 for every other. -/
def fpRat : FpVal → ℚ
  | .num n m e => (if n then -1 else 1) * (m : ℚ) * (2 : ℚ) ^ e
  | .nan _ => 0
  | .denorm _ => 0
  | .inf _ => 0
  | .zero _ => 0

/-- The operand is a normalized number. -/
def FpVal.isNum : FpVal → Bool
  | .num _ _ _ => true
  | .nan _ => false
  | .denorm _ => false
  | .inf _ => false
  | .zero _ => false

/-- The operand is a normalized number or a zero. -/
def FpVal.isFinite (v : FpVal) : Bool := v.isNum || v.isZero

/-- q is the number (-1)^neg * m * 2^e, normalized in the format: m has exactly its precision, and the exponent of the
leading bit is in its range (43_floating_point.md R490, R491). -/
def IsNormalAs (td : FpSize) (q : ℚ) (neg : Bool) (m : Nat) (e : Int) : Prop :=
  2 ^ (fpPrec td - 1) ≤ m ∧ m < 2 ^ fpPrec td ∧ 1 - (fpBias td : Int) ≤ e + (fpPrec td : Int) - 1
    ∧ e + (fpPrec td : Int) - 1 ≤ (fpBias td : Int) ∧ q = (if neg then -1 else 1) * (m : ℚ) * (2 : ℚ) ^ e

/-- q is a normalized number of the format. -/
def IsNormal (td : FpSize) (q : ℚ) : Prop := ∃ neg m e, IsNormalAs td q neg m e

/-- q is the normalized number of the format that v rounds to in a rounding mode (R492): of the two nearest the even
one in mode 00; the largest in magnitude not above v in mode 01; the largest not above v in mode 10; the smallest not
below v in mode 11. -/
structure RoundsTo (rm : BitVec 2) (td : FpSize) (v q : ℚ) : Prop where
  normal : IsNormal td q
  nearest : rm = 0#2 → ∀ y, IsNormal td y → |q - v| ≤ |y - v|
  even : rm = 0#2 → ∀ y neg m e, IsNormal td y → y ≠ q → |y - v| = |q - v| → IsNormalAs td q neg m e → m % 2 = 0
  towardZero : rm = 1#2 → |q| ≤ |v| ∧ 0 < q * v ∧ ∀ y, IsNormal td y → |y| ≤ |v| → |y| ≤ |q|
  down : rm = 2#2 → q ≤ v ∧ ∀ y, IsNormal td y → y ≤ v → y ≤ q
  up : rm = 3#2 → v ≤ q ∧ ∀ y, IsNormal td y → v ≤ y → q ≤ y

/-- v is in the range of the format's normalized numbers. -/
def InRange (td : FpSize) (v : ℚ) : Prop :=
  (2 : ℚ) ^ (1 - (fpBias td : Int)) ≤ |v|
    ∧ |v| ≤ (2 ^ fpPrec td - 1) * (2 : ℚ) ^ ((fpBias td : Int) - (fpPrec td : Int) + 1)

/-- The integer that v rounds to in a rounding mode (R492, R508 to R510). -/
structure RoundsToInt (rm : BitVec 2) (v : ℚ) (n : Int) : Prop where
  nearest : rm = 0#2 → |v - n| ≤ 1 / 2 ∧ (|v - n| = 1 / 2 → n % 2 = 0)
  towardZero : rm = 1#2 → n = if v < 0 then ⌈v⌉ else ⌊v⌋
  down : rm = 2#2 → n = ⌊v⌋
  up : rm = 3#2 → n = ⌈v⌉

/-- An inexact result raises no exception: FPCR.TCFP is 1 or EFINX is 0 (R499). -/
def InexactAllowed (s : State) : Bool := fpcrTcfp s.fpcr || !fpcrEfinx s.fpcr

/-- The frame of an instruction with a floating-point destination d of a size, in the extended file if x: only the
destination, FPSR.AFINX, FPSR.XMOD and the count of the free values may differ (R514). -/
structure FpFrame (x : Bool) (td : FpSize) (d : RegNum) (s t : State) : Prop where
  general : ∀ r : RegNum, (x = false → r ≠ d ∧ (td = .double → r ≠ d + 1#5)) → readReg t r = readReg s r
  extended : ∀ r : RegNum, (x = true → r ≠ d ∨ d = 0#5) → readX t r = readX s r
  fpsr : ∀ i : Nat, i < 32 → i ≠ 0 → t.fpsr.getLsbD i = ((decide (i = 16) && x && d != 0#5) || s.fpsr.getLsbD i)
  frame : t = { s with
    gpr := t.gpr, xrf := t.xrf, fpsr := t.fpsr, draws := t.draws, xip := s.nip, nip := s.nip + 4#32, ds := false }
  memory : SameMemory s t

/-- The destination d of a size, in the extended file if x, holds the image w, which is left justified; a write of r0 or
x0 is discarded (of r0:r1 the high word only), and what stands below a shorter image in an extended register is not said
(10_state.md R22, R28, R29). -/
def HoldsImage (t : State) (x : Bool) (td : FpSize) (d : RegNum) (w : XWord) : Prop :=
  match x, td with
  | true, .single => d ≠ 0#5 → (readX t d).extractLsb' 48 32 = w.extractLsb' 48 32
  | true, .double => d ≠ 0#5 → (readX t d).extractLsb' 16 64 = w.extractLsb' 16 64
  | true, _ => d ≠ 0#5 → readX t d = w
  | false, .single => d ≠ 0#5 → readReg t d = w.extractLsb' 48 32
  | false, _ => (d ≠ 0#5 → readReg t d = w.extractLsb' 48 32) ∧ readReg t (d + 1#5) = w.extractLsb' 16 32

/-- The exact result v is delivered: the destination holds the number v rounds to, and FPSR.AFINX is set when that is
not v. -/
structure Delivers (x : Bool) (td : FpSize) (d : RegNum) (v : ℚ) (s t : State) : Prop where
  result : ∃ q, RoundsTo (fpcrRm s.fpcr) td v q ∧ t.fpsr.getLsbD 0 = (decide (q ≠ v) || s.fpsr.getLsbD 0)
    ∧ ∃ w : XWord, (fpUnpack td w).isNum = true ∧ fpRat (fpUnpack td w) = q ∧ HoldsImage t x td d w
  frame : FpFrame x td d s t

/-- The destination holds the zero or infinity v, its leading bit clear in the extended format too (R499). -/
def HoldsSpecial (t : State) (x : Bool) (td : FpSize) (d : RegNum) (v : FpVal) : Prop :=
  ∃ w : XWord, fpUnpack td w = v ∧ w.getLsbD 63 = false ∧ HoldsImage t x td d w

/-- The zero or infinity v is delivered, an exact result: FPSR.AFINX stays. -/
structure DeliversSpecial (x : Bool) (td : FpSize) (d : RegNum) (v : FpVal) (s t : State) : Prop where
  result : HoldsSpecial t x td d v
  afinx : t.fpsr.getLsbD 0 = s.fpsr.getLsbD 0
  frame : FpFrame x td d s t

/-- Instruction i, whose exact result is v: in the range of the destination's numbers it is delivered, or where it is
inexact and FPCR.EFINX asks for it the SFU1 exception with FPECR.FINX is taken (R499). -/
structure Rounds (i : Instr) (x : Bool) (td : FpSize) (d : RegNum) (v : ℚ) (s : State) : Prop where
  delivers : InRange td v → (InexactAllowed s = true ∨ IsNormal td v) → Does i s (Delivers x td d v s)
  traps : InRange td v → InexactAllowed s = false → ¬ IsNormal td v → Does i s (EntersSfu1 0x01#32 s)

/-! ### Control registers that hold what was written -/

/-- The word of a general control register that a read returns and that changes nothing: all but the ports of the
translation caches and cr14 and cr15 (10_state.md R30). -/
def controlWord (s : State) : Nat → Option Word
  | 0 => some (0#16 ++ 1#8 ++ s.env.pidVersion ++ 1#1)
  | 1 => some s.psr
  | 2 => some s.epsr
  | 4 => some s.exip
  | 5 => some s.enip
  | 7 => some s.vbr
  | 16 => some s.sr0
  | 17 => some s.sr1
  | 18 => some s.sr2
  | 19 => some s.sr3
  | 20 => some s.sr4
  | 25 => some 0xFFFFFFFF#32
  | 26 => some s.imu.ctl
  | 27 => some s.imu.sar
  | 28 => some s.imu.sap
  | 29 => some s.imu.uap
  | 30 => some s.imu.ir
  | 33 => some s.imu.ppl
  | 34 => some s.imu.status
  | 35 => some s.imu.lar
  | 36 => some s.imu.par
  | 40 => some 0xFFFFFFFF#32
  | 41 => some s.dmu.ctl
  | 42 => some s.dmu.sar
  | 43 => some s.dmu.sap
  | 44 => some s.dmu.uap
  | 45 => some s.dmu.ir
  | 48 => some s.dmu.ppl
  | 49 => some s.dmu.status
  | 50 => some s.dmu.lar
  | 51 => some s.dmu.par
  | _ => none

/-- Of a control register that holds what is written: the bits a write changes, and the bits that are hardwired to
one. ISR and DSR are such while PSR.EFRZ is 0 (60_exceptions.md R760). -/
def writableBits (s : State) : Nat → Option (Word × Word)
  | 1 => some (0xF600001F#32, 0x000003E0#32)
  | 2 => some (0xF600001F#32, 0x000003E0#32)
  | 4 => some (0xFFFFFFFD#32, 0#32)
  | 5 => some (0xFFFFFFFC#32, 0#32)
  | 7 => some (0xFFFFF000#32, 0#32)
  | 16 => some (0xFFFFFFFF#32, 0#32)
  | 17 => some (0xFFFFFFFF#32, 0#32)
  | 18 => some (0xFFFFFFFF#32, 0#32)
  | 19 => some (0xFFFFFFFF#32, 0#32)
  | 20 => some (0xFFFFFFFF#32, 0#32)
  | 26 => some (0x007FC1E5#32, 0#32)
  | 27 => some (0xFFFFFFFF#32, 0#32)
  | 28 => some (0xFFFFFEC1#32, 0#32)
  | 29 => some (0xFFFFFEC1#32, 0#32)
  | 30 => some (0x0003F703#32, 0#32)
  | 34 => if psrEfrz s then none else some (0x003C0C81#32, 0#32)
  | 35 => some (0xFFFFFFFF#32, 0#32)
  | 36 => some (0xFFFFFFFF#32, 0#32)
  | 41 => some (0x007FF9E5#32, 0#32)
  | 42 => some (0xFFFFFFFF#32, 0#32)
  | 43 => some (0xFFFFFEC1#32, 0#32)
  | 44 => some (0xFFFFFEC1#32, 0#32)
  | 45 => some (0x0003F703#32, 0#32)
  | 49 => if psrEfrz s then none else some (0x003F0CC7#32, 0#32)
  | 50 => some (0xFFFFFFFF#32, 0#32)
  | 51 => some (0xFFFFFFFF#32, 0#32)
  | _ => none

/-- Of the whole state only control registers, general registers and the sequence may differ, and what the target
instruction cache was about to supply or fill, which is dropped. -/
structure ControlFrame (s t : State) : Prop where
  frame : t = { s with
    gpr := t.gpr, psr := t.psr, epsr := t.epsr, exip := t.exip, enip := t.enip, vbr := t.vbr, sr0 := t.sr0,
    sr1 := t.sr1, sr2 := t.sr2, sr3 := t.sr3, sr4 := t.sr4, modeWindow := t.modeWindow, ticSupply := [],
    ticFill := none,
    imu := { s.imu with ctl := t.imu.ctl, sar := t.imu.sar, sap := t.imu.sap, uap := t.imu.uap, ir := t.imu.ir,
                        status := t.imu.status, lar := t.imu.lar, par := t.imu.par },
    dmu := { s.dmu with ctl := t.dmu.ctl, sar := t.dmu.sar, sap := t.dmu.sap, uap := t.dmu.uap, ir := t.dmu.ir,
                        status := t.dmu.status, lar := t.dmu.lar, par := t.dmu.par },
    xip := s.nip, nip := s.nip + 4#32, ds := false }
  memory : SameMemory s t

/-- The registers that only privileged software and exceptions write: every control register but PSR.C and the port of
the data PATC, which a PATC miss preloads (12_cache_mmu_state.md R104), and the instruction side. -/
structure SameControl (s t : State) : Prop where
  psr : ∀ i : Nat, i < 32 → i ≠ 28 → t.psr.getLsbD i = s.psr.getLsbD i
  saved : t.epsr = s.epsr ∧ t.exip = s.exip ∧ t.enip = s.enip
  vbr : t.vbr = s.vbr
  storage : t.sr0 = s.sr0 ∧ t.sr1 = s.sr1 ∧ t.sr2 = s.sr2 ∧ t.sr3 = s.sr3 ∧ t.sr4 = s.sr4
  fpecr : t.fpecr = s.fpecr
  imu : t.imu = s.imu
  dmu : t.dmu.ctl = s.dmu.ctl ∧ t.dmu.sar = s.dmu.sar ∧ t.dmu.sap = s.dmu.sap ∧ t.dmu.uap = s.dmu.uap
    ∧ t.dmu.ir = s.dmu.ir ∧ t.dmu.status = s.dmu.status ∧ t.dmu.lar = s.dmu.lar ∧ t.dmu.par = s.dmu.par
    ∧ t.dmu.batc = s.dmu.batc
  breakpoints : t.bp0 = s.bp0 ∧ t.bp1 = s.bp1

end Sys2Proof.Machine
end

