-- ==== Sys2Proof/Certificates/Slice0/Obligations.lean ====
section
/-!
DEFINITION. The statements for the provers. Each is about every state and every operand that meets its hypotheses; the
terms are those of Sys2Proof/Safety.lean. Where an exact number or a bit stands in a conclusion, it is computed from
the operands by integer or rational arithmetic, not by the model's own functions.
-/

open Sys2Proof Sys2Proof.Machine

/-! ### Encoding -/

/-- Decoding undoes encoding, for every instruction with every operand, whatever bytes follow (30_encoding.md R360 to
R410). The model's choices in it: entries 7, 60. -/
def Obligations.DecodeUndoesEncode : Prop :=
  ∀ (i : Instr) (rest : List Byte), decode (encodeBytes i ++ rest) = .ok (i, rest)

/-- Every word that decodes is the encoding of what it decodes to: no two words mean one instruction, and no constant
bit is ignored (30_encoding.md R362). The model's choices in it: entries 7, 8, 60. -/
def Obligations.EncodeUndoesDecode : Prop :=
  ∀ (w : Word) (i : Instr), decodeWord w = .ok i → encode i = w

/-- Worked examples of the spec, the words as printed (R501, R563, R572, R664, R665, R667, R682,
R684, R686, R422). -/
def Obligations.WorkedExampleWordsDecode : Prop :=
  decodeWord 0x84612802#32 = .ok (.fadd 3#5 1#5 false .single .single .single 2#5)
    ∧ decodeWord 0x88442026#32 = .ok (.padd 2#5 4#5 .byte 6#5)
    ∧ decodeWord 0x88446266#32 = .ok (.ppack 2#5 4#5 4#4 .word 6#5)
    ∧ decodeWord 0xCFFFFFFF#32 = .ok (.bsr true 0x3FFFFFF#26)
    ∧ decodeWord 0xD0640003#32 = .ok (.bb0 false 3#5 4#5 3#16)
    ∧ decodeWord 0xE9A20005#32 = .ok (.bcnd false 0b01101#5 2#5 5#16)
    ∧ decodeWord 0xF0A3D881#32 = .ok (.tb1 5#5 3#5 129#9)
    ∧ decodeWord 0xF8020064#32 = .ok (.tbndImm 2#5 100#16)
    ∧ decodeWord 0xF400FC00#32 = .ok .rte
    ∧ decodeWord 0xF4005800#32 = .ok (.orReg 0#5 0#5 false 0#5)

/-- A word that is no instruction takes the exception of its opcode space when it runs (30_encoding.md R364): major
opcode 33 is SFU1's, 34 SFU2's, 35 to 39 those of SFU3 to SFU7, 32 that of its SFU field (of SFU1 only where the
operation field, bits 15 and 14, is 00: R385), every other the base processor's. The model's choices in it: entries 6,
7, 8, 12, 13. -/
def Obligations.ReservedWordsRaiseTheExceptionOfTheirSpace : Prop :=
  ∀ (w : Word) (r : Reject) (s : State), decodeWord w = .error r →
    let op := (w.extractLsb' 26 6).toNat
    let field := (w.extractLsb' 11 3).toNat
    let sfu :=
      if op = 32 then (if field = 1 ∧ w.extractLsb' 14 2 ≠ 0#2 then 0 else field)
      else if 33 ≤ op ∧ op ≤ 39 then op - 32 else 0
    ∃ t, runWord w s = .next t
      ∧ (sfu = 0 → Enters 5#9 s t)
      ∧ (sfu = 1 → EntersUnimplemented s t)
      ∧ (2 ≤ sfu → Enters (BitVec.ofNat 9 (112 + 2 * sfu)) s t)

/-! ### One step -/

/-- A step with no interrupt pending runs the word that the fetch delivers: the instruction it decodes to, by exec, in
the state the fetch leaves, after what is prefetched (nothing unless the script says so) and, at a serializing
instruction, without the words prefetched before (20_memory.md R197); where it takes an exception, loads behind it may
have read (R713), but not behind a serializing instruction, and none unless the script says so. Where the instruction
unit goes straight to memory (instruction MMU and cache disabled, nothing supplied by the target instruction cache or
prefetched, no region of the board at the instruction) and nothing comes from outside, that is the instruction that the
four bytes at XIP decode to; the state it runs in differs by the bus transaction of the fetch and the model's cleared
mark of the last exception (46_flow_control.md R661). A fault of the fetch is taken as the exception it names, but at the error vector with
PSR.EFRZ 1 the machine is stuck and only waits from then on (60_exceptions.md R751). endStep changes the outcome only
where a transaction was cut short, and where that comes before the instruction the instruction does not run
(80_bus_platform.md R908, R910). The model's choices in it: entries 12, 38, 57, 58, 69. -/
def Obligations.StepRunsTheInstructionAtXip : Prop :=
  (∀ (s s' : State) (w : Word) (i : Instr),
    (boundary s).1 = false → (boundary s).2.stuck = false → pendingInterrupt (boundary s).2 = none →
    fetch (boundary s).2 = .ok w s' → decodeWord w = .ok i →
    let u := lookAhead s'
    step s = endStep (boundary s).2
        (if u.halted ≠ none then .next u
        else if serializes i then exec i (issue i u) else waive u (exec i (issue i u)))
      ∧ (s'.script.ahead = [] → u = s')
      ∧ (∀ (b : State) (o : Host.Outcome State Fault Refusal), b.script.waived = [] → waive b o = o)
      ∧ (∀ b t : State, waive b (.next t) = .next (if t.lastExc = none then t else waivedLoads 11 b t))
      ∧ (∀ u : State, issue i u = u ∨ issue i u = { u with prefetched := [], ticFill := none })
      ∧ ∀ b u : State, u.halted = none → endStep b (.next u) = .next u)
    ∧ (∀ (s : State) (i : Instr),
      s.inputs = [] → s.halted = none → s.snoopFault = none → s.stuck = false → pendingInterrupt s = none →
      s.ticSupply = [] → s.ticFill = none → s.prefetched = [] → s.modeWindow = 0 → s.script = Script.idle →
      ctlMen s.imu.ctl = false → ctlCen s.imu.ctl = false → plainAt s s.xip = true → s.xip &&& 3#32 = 0#32 →
      decode [readByte s s.xip, readByte s (s.xip + 1#32), readByte s (s.xip + 2#32), readByte s (s.xip + 3#32)]
        = .ok (i, []) →
      ∃ log, step s = endStep { s with lastExc := none } (exec i { s with busLog := log, lastExc := none }))
    ∧ (∀ (s s' : State) (e : Exc),
      (boundary s).1 = false → (boundary s).2.stuck = false → pendingInterrupt (boundary s).2 = none →
      fetch (boundary s).2 = .trap e s' →
      step s = endStep (boundary s).2 (.next (if psrEfrz s' = true ∧ s'.xip = s'.vbr.extractLsb' 12 20 ++ 10#9 ++ 0#3
        then { s' with stuck := true } else waivedLoads 11 s' (takeException e s'))))
    ∧ ∀ s : State, s.stuck = true → s.inputs = [] → s.snoopFault = none →
      step s = .next { s with lastExc := none }

/-! ### Registers and memory -/

/-- r0 reads zero whatever was written to it, every other general register reads what was written to it last, and the
same of the extended registers, whose x0 reads positive zero (10_state.md R22, R28). -/
def Obligations.RegistersReadWhatWasWritten : Prop :=
  ∀ (s : State) (d r : RegNum) (v : Word) (x : XWord),
    readReg s 0#5 = 0#32 ∧ writeReg s 0#5 v = s
      ∧ readReg (writeReg s d v) r = (if r = d ∧ d ≠ 0#5 then v else readReg s r)
      ∧ readX s 0#5 = 0#80 ∧ (writeX s 0#5 x).xrf = s.xrf
      ∧ readX (writeX s d x) r = (if r = d ∧ d ≠ 0#5 then x else readX s r)

/-! ### Logical instructions (40_logical.md) -/

/-- and, or, xor with two registers, .c complementing the second, bit by bit; the immediate forms work on one half of
r[S1], and the other half is kept by and, or, xor and cleared by mask (40_logical.md R420 to R424). -/
def Obligations.LogicalInstructions : Prop :=
  ∀ (s : State) (d s1 s2 : RegNum) (c : Bool) (imm : BitVec 16),
    let a := readReg s s1
    let b := readReg s s2
    (∃ v : Word, (∀ i, i < 32 → v.getLsbD i = (a.getLsbD i && (b.getLsbD i != c)))
        ∧ Does (.andReg d s1 c s2) s (Sets d v s))
      ∧ (∃ v : Word, (∀ i, i < 32 → v.getLsbD i = (a.getLsbD i || (b.getLsbD i != c)))
        ∧ Does (.orReg d s1 c s2) s (Sets d v s))
      ∧ (∃ v : Word, (∀ i, i < 32 → v.getLsbD i = (a.getLsbD i != (b.getLsbD i != c)))
        ∧ Does (.xorReg d s1 c s2) s (Sets d v s))
      ∧ (∃ v : Word, (∀ i, i < 32 → v.getLsbD i = (a.getLsbD i && (decide (16 ≤ i) || imm.getLsbD i)))
        ∧ Does (.andImm d s1 imm) s (Sets d v s))
      ∧ (∃ v : Word, (∀ i, i < 32 → v.getLsbD i = (a.getLsbD i && (decide (i < 16) || imm.getLsbD (i - 16))))
        ∧ Does (.andUImm d s1 imm) s (Sets d v s))
      ∧ (∃ v : Word, (∀ i, i < 32 → v.getLsbD i = (a.getLsbD i && decide (i < 16) && imm.getLsbD i))
        ∧ Does (.maskImm d s1 imm) s (Sets d v s))
      ∧ (∃ v : Word, (∀ i, i < 32 → v.getLsbD i = (a.getLsbD i && decide (16 ≤ i) && imm.getLsbD (i - 16)))
        ∧ Does (.maskUImm d s1 imm) s (Sets d v s))
      ∧ (∃ v : Word, (∀ i, i < 32 → v.getLsbD i = (a.getLsbD i || (decide (i < 16) && imm.getLsbD i)))
        ∧ Does (.orImm d s1 imm) s (Sets d v s))
      ∧ (∃ v : Word, (∀ i, i < 32 → v.getLsbD i = (a.getLsbD i || (decide (16 ≤ i) && imm.getLsbD (i - 16))))
        ∧ Does (.orUImm d s1 imm) s (Sets d v s))
      ∧ (∃ v : Word, (∀ i, i < 32 → v.getLsbD i = (a.getLsbD i != (decide (i < 16) && imm.getLsbD i)))
        ∧ Does (.xorImm d s1 imm) s (Sets d v s))
      ∧ (∃ v : Word, (∀ i, i < 32 → v.getLsbD i = (a.getLsbD i != (decide (16 ≤ i) && imm.getLsbD (i - 16))))
        ∧ Does (.xorUImm d s1 imm) s (Sets d v s))

/-! ### Integer arithmetic (41_integer_arith.md) -/

/-- addu and subu: the result modulo 2^32, the carry with .co (for subu 1 when nothing is borrowed), the carry in with
.ci; no exception (R441, R443, R445). The model's choices in it: entry 9. -/
def Obligations.UnsignedAddAndSubtract : Prop :=
  ∀ (s : State) (d s1 s2 : RegNum) (ci co : Bool) (imm : BitVec 16),
    let a := (readReg s s1).toNat
    let b := (readReg s s2).toNat
    let plus := if ci = true then (psrCarry s).toNat else 0
    let less := if ci = true then 1 - (psrCarry s).toNat else 0
    (∃ v : Word, v.toNat = (a + b + plus) % 4294967296
        ∧ Does (.adduReg d s1 ci co s2) s
            (SetsCarry d v (if co then decide (4294967296 ≤ a + b + plus) else psrCarry s) s))
      ∧ (∃ v : Word, v.toNat = (a + imm.toNat) % 4294967296 ∧ Does (.adduImm d s1 imm) s (Sets d v s))
      ∧ (∃ v : Word, (v.toNat : Int) = ((a : Int) - b - less) % 4294967296
        ∧ Does (.subuReg d s1 ci co s2) s (SetsCarry d v (if co then decide (b + less ≤ a) else psrCarry s) s))
      ∧ (∃ v : Word, (v.toNat : Int) = ((a : Int) - imm.toNat) % 4294967296 ∧ Does (.subuImm d s1 imm) s (Sets d v s))

/-- add and sub: the signed sum or difference (with .ci the carry in is added, or one more subtracted when it is clear),
or the integer overflow exception exactly when it is no signed 32-bit integer; the immediate is extended as PSR.SGN says
(R442, R444). The model's choices in it: entries 6, 9, 12. -/
def Obligations.SignedAddAndSubtract : Prop :=
  ∀ (s : State) (d s1 s2 : RegNum) (ci co : Bool) (imm : BitVec 16),
    let a := readReg s s1
    let b := readReg s s2
    let plus := if ci = true then (psrCarry s).toNat else 0
    let sum : Int := a.toInt + b.toInt + plus
    let sumImm : Int := a.toInt + (if psrSgn s then imm.toInt else (imm.toNat : Int))
    let less := if ci = true then 1 - (psrCarry s).toNat else 0
    let diff : Int := a.toInt - b.toInt - less
    let diffImm : Int := a.toInt - (if psrSgn s then imm.toInt else (imm.toNat : Int))
    (if -2147483648 ≤ sum ∧ sum ≤ 2147483647 then
        ∃ v : Word, v.toInt = sum
          ∧ Does (.addReg d s1 ci co s2) s
              (SetsCarry d v (if co then decide (4294967296 ≤ a.toNat + b.toNat + plus) else psrCarry s) s)
      else Does (.addReg d s1 ci co s2) s (Enters 9#9 s))
      ∧ (if -2147483648 ≤ sumImm ∧ sumImm ≤ 2147483647 then
          ∃ v : Word, v.toInt = sumImm ∧ Does (.addImm d s1 imm) s (Sets d v s)
        else Does (.addImm d s1 imm) s (Enters 9#9 s))
      ∧ (if -2147483648 ≤ diff ∧ diff ≤ 2147483647 then
        ∃ v : Word, v.toInt = diff
          ∧ Does (.subReg d s1 ci co s2) s
              (SetsCarry d v (if co then decide (b.toNat + less ≤ a.toNat) else psrCarry s) s)
      else Does (.subReg d s1 ci co s2) s (Enters 9#9 s))
      ∧ (if -2147483648 ≤ diffImm ∧ diffImm ≤ 2147483647 then
          ∃ v : Word, v.toInt = diffImm ∧ Does (.subImm d s1 imm) s (Sets d v s)
        else Does (.subImm d s1 imm) s (Enters 9#9 s))

/-- The result string of cmp of a and b: the fourteen bits of R452, every other bit zero. -/
def Sys2Proof.Machine.IsCompareString (a b v : Word) : Prop :=
  v.getLsbD 2 = decide (a = b) ∧ v.getLsbD 3 = decide (a ≠ b)
    ∧ v.getLsbD 4 = decide (b.toInt < a.toInt) ∧ v.getLsbD 5 = decide (a.toInt ≤ b.toInt)
    ∧ v.getLsbD 6 = decide (a.toInt < b.toInt) ∧ v.getLsbD 7 = decide (b.toInt ≤ a.toInt)
    ∧ v.getLsbD 8 = decide (b.toNat < a.toNat) ∧ v.getLsbD 9 = decide (a.toNat ≤ b.toNat)
    ∧ v.getLsbD 10 = decide (a.toNat < b.toNat) ∧ v.getLsbD 11 = decide (b.toNat ≤ a.toNat)
    ∧ (v.getLsbD 12 = true ↔ ∃ k, k < 4 ∧ a.extractLsb' (8 * k) 8 = b.extractLsb' (8 * k) 8)
    ∧ v.getLsbD 13 = !v.getLsbD 12
    ∧ (v.getLsbD 14 = true ↔ ∃ k, k < 2 ∧ a.extractLsb' (16 * k) 16 = b.extractLsb' (16 * k) 16)
    ∧ v.getLsbD 15 = !v.getLsbD 14
    ∧ ∀ i, i < 2 ∨ 16 ≤ i → v.getLsbD i = false

/-- cmp with a register and with an immediate extended as PSR.SGN says (R452). The model's choices in it: entry 59.
-/
def Obligations.CompareGivesTheResultString : Prop :=
  ∀ (s : State) (d s1 s2 : RegNum) (imm : BitVec 16),
    (∃ v, IsCompareString (readReg s s1) (readReg s s2) v ∧ Does (.cmpReg d s1 s2) s (Sets d v s))
      ∧ (∃ v, IsCompareString (readReg s s1) (if psrSgn s then imm.signExtend 32 else imm.setWidth 32) v
        ∧ Does (.cmpImm d s1 imm) s (Sets d v s))

/-- mulu, mulu.d and muls: the product modulo 2^32, the 64-bit product in a pair (an odd pair is an unimplemented
opcode), the signed product or the integer overflow exception (R453 to R455). The model's choices in it: entries 6,
9, 12, 42. -/
def Obligations.IntegerMultiply : Prop :=
  ∀ (s : State) (d s1 s2 : RegNum) (imm : BitVec 16),
    let a := readReg s s1
    let b := readReg s s2
    let product : Int := a.toInt * b.toInt
    (∃ v : Word, v.toNat = a.toNat * b.toNat % 4294967296 ∧ Does (.muluReg d s1 s2) s (Sets d v s))
      ∧ (∃ v : Word, v.toNat = a.toNat * imm.toNat % 4294967296 ∧ Does (.muluImm d s1 imm) s (Sets d v s))
      ∧ (if d.toNat % 2 = 0 then
          ∃ hi lo : Word, hi.toNat * 4294967296 + lo.toNat = a.toNat * b.toNat
            ∧ Does (.muluD d s1 s2) s (SetsPair d hi lo s)
        else Does (.muluD d s1 s2) s (Enters 5#9 s))
      ∧ (if -2147483648 ≤ product ∧ product ≤ 2147483647 then
          ∃ v : Word, v.toInt = product ∧ Does (.muls d s1 s2) s (Sets d v s)
        else Does (.muls d s1 s2) s (Enters 9#9 s))

/-- divu, divu.d and divs: the quotient, rounded down for divu and toward zero for divs (92_eei_decisions.md D2); a
zero divisor is the divide-by-zero exception, an odd pair of divu.d comes first (D27), and the most negative number
by -1 is the integer overflow exception (R456 to R458). The model's choices in it: entries 6, 9, 12, 21, 50. -/
def Obligations.IntegerDivide : Prop :=
  ∀ (s : State) (d s1 s2 : RegNum) (imm : BitVec 16),
    let a := (readReg s s1).toNat
    let b := (readReg s s2).toNat
    let n := a * 4294967296 + (readReg s (s1 + 1#5)).toNat
    let m := (readReg s s1).toInt
    let k := (readReg s s2).toInt
    let j : Int := if psrSgn s then imm.toInt else (imm.toNat : Int)
    (if b = 0 then Does (.divuReg d s1 s2) s (Enters 8#9 s)
      else ∃ v : Word, v.toNat = a / b ∧ Does (.divuReg d s1 s2) s (Sets d v s))
      ∧ (if imm.toNat = 0 then Does (.divuImm d s1 imm) s (Enters 8#9 s)
        else ∃ v : Word, v.toNat = a / imm.toNat ∧ Does (.divuImm d s1 imm) s (Sets d v s))
      ∧ (if d.toNat % 2 = 1 ∨ s1.toNat % 2 = 1 then Does (.divuD d s1 s2) s (Enters 5#9 s)
        else if b = 0 then Does (.divuD d s1 s2) s (Enters 8#9 s)
        else ∃ hi lo : Word, hi.toNat * 4294967296 + lo.toNat = n / b ∧ Does (.divuD d s1 s2) s (SetsPair d hi lo s))
      ∧ (if k = 0 then Does (.divsReg d s1 s2) s (Enters 8#9 s)
      else if m = -2147483648 ∧ k = -1 then Does (.divsReg d s1 s2) s (Enters 9#9 s)
      else ∃ v : Word, v.toInt = m.tdiv k ∧ Does (.divsReg d s1 s2) s (Sets d v s))
      ∧ (if j = 0 then Does (.divsImm d s1 imm) s (Enters 8#9 s)
        else if m = -2147483648 ∧ j = -1 then Does (.divsImm d s1 imm) s (Enters 9#9 s)
        else ∃ v : Word, v.toInt = m.tdiv j ∧ Does (.divsImm d s1 imm) s (Sets d v s))

/-! ### Bit fields (42_bitfield.md) -/

/-- clr and set: the bits of the field that lie in the word, and no other, become 0 or 1. ext and extu: bit i is bit
o + i of the field, above the field its top bit inside the word, or zero. Width 0 denotes 32; the register forms take
the width from bits 9 to 5 and the offset from bits 4 to 0 of r[S2] (R470 to R474). -/
def Obligations.BitFieldClearSetAndExtract : Prop :=
  ∀ (s : State) (d s1 s2 : RegNum) (w o : BitVec 5),
    let a := readReg s s1
    let b := readReg s s2
    let width := fun c : BitVec 5 => if c.toNat = 0 then 32 else c.toNat
    let inside := fun (c p : BitVec 5) (i : Nat) => decide (p.toNat ≤ i) && decide (i < p.toNat + width c)
    let top := fun c p : BitVec 5 => min (p.toNat + width c - 1) 31
    let signed := fun (c p : BitVec 5) (i : Nat) => a.getLsbD (min (p.toNat + i) (top c p))
    let unsigned := fun (c p : BitVec 5) (i : Nat) => decide (p.toNat + i ≤ top c p) && a.getLsbD (p.toNat + i)
    (∃ v : Word, (∀ i, i < 32 → v.getLsbD i = (a.getLsbD i && !inside w o i))
        ∧ Does (.clrImm d s1 w o) s (Sets d v s))
      ∧ (∃ v : Word, (∀ i, i < 32 → v.getLsbD i = (a.getLsbD i && !inside (b.extractLsb' 5 5) (b.extractLsb' 0 5) i))
        ∧ Does (.clrReg d s1 s2) s (Sets d v s))
      ∧ (∃ v : Word, (∀ i, i < 32 → v.getLsbD i = (a.getLsbD i || inside w o i))
        ∧ Does (.setImm d s1 w o) s (Sets d v s))
      ∧ (∃ v : Word, (∀ i, i < 32 → v.getLsbD i = (a.getLsbD i || inside (b.extractLsb' 5 5) (b.extractLsb' 0 5) i))
        ∧ Does (.setReg d s1 s2) s (Sets d v s))
      ∧ (∃ v : Word, (∀ i, i < 32 → v.getLsbD i = signed w o i) ∧ Does (.extImm d s1 w o) s (Sets d v s))
      ∧ (∃ v : Word, (∀ i, i < 32 → v.getLsbD i = signed (b.extractLsb' 5 5) (b.extractLsb' 0 5) i)
        ∧ Does (.extReg d s1 s2) s (Sets d v s))
      ∧ (∃ v : Word, (∀ i, i < 32 → v.getLsbD i = unsigned w o i) ∧ Does (.extuImm d s1 w o) s (Sets d v s))
      ∧ (∃ v : Word, (∀ i, i < 32 → v.getLsbD i = unsigned (b.extractLsb' 5 5) (b.extractLsb' 0 5) i)
        ∧ Does (.extuReg d s1 s2) s (Sets d v s))

/-- n is the number of the highest bit of v that equals b, or 32 when no bit does. -/
def Sys2Proof.Machine.IsHighest (v : Word) (b : Bool) (n : Nat) : Prop :=
  (n < 32 ∧ v.getLsbD n = b ∧ ∀ i, n < i → i < 32 → v.getLsbD i ≠ b) ∨ (n = 32 ∧ ∀ i, i < 32 → v.getLsbD i ≠ b)

/-- mak moves the low bits up to the offset, rot rotates right by the offset; ff1 and ff0 find the highest bit set and
the highest bit clear, 32 when there is none (R475 to R478). -/
def Obligations.BitFieldMakeRotateAndFindFirst : Prop :=
  ∀ (s : State) (d s1 s2 : RegNum) (w o : BitVec 5),
    let a := readReg s s1
    let b := readReg s s2
    let width := fun c : BitVec 5 => if c.toNat = 0 then 32 else c.toNat
    let made := fun (c p : BitVec 5) (i : Nat) =>
      decide (p.toNat ≤ i) && decide (i < p.toNat + width c) && a.getLsbD (i - p.toNat)
    (∃ v : Word, (∀ i, i < 32 → v.getLsbD i = made w o i) ∧ Does (.makImm d s1 w o) s (Sets d v s))
      ∧ (∃ v : Word, (∀ i, i < 32 → v.getLsbD i = made (b.extractLsb' 5 5) (b.extractLsb' 0 5) i)
        ∧ Does (.makReg d s1 s2) s (Sets d v s))
      ∧ (∃ v : Word, (∀ i, i < 32 → v.getLsbD i = a.getLsbD ((i + o.toNat) % 32)) ∧ Does (.rotImm d s1 o) s (Sets d v s))
      ∧ (∃ v : Word, (∀ i, i < 32 → v.getLsbD i = a.getLsbD ((i + (b.extractLsb' 0 5).toNat) % 32))
        ∧ Does (.rotReg d s1 s2) s (Sets d v s))
      ∧ (∃ v : Word, IsHighest (readReg s s2) true v.toNat ∧ Does (.ff1 d s2) s (Sets d v s))
      ∧ (∃ v : Word, IsHighest (readReg s s2) false v.toNat ∧ Does (.ff0 d s2) s (Sets d v s))

/-! ### Flow control (46_flow_control.md). A flow-control instruction in a delay slot has no stated result (R662), so
these statements are about instructions outside one. -/

/-- br, bsr, jmp and jsr: the target is the branch's own address plus four times the signed displacement, or the
register with its two low bits cleared, read before r1 is written; bsr and jsr leave the return address in r1 (R660,
R661, R663, R664, R671, R672). The model's choices in it: entries 22, 40. -/
def Obligations.UnconditionalBranches : Prop :=
  ∀ (s : State) (n : Bool) (disp : BitVec 26) (s2 : RegNum), s.ds = false →
    let near := BitVec.ofInt 32 (s.xip.toInt + 4 * disp.toInt)
    let far := (readReg s s2).extractLsb' 2 30 ++ 0#2
    let back := s.xip + (if n then 8#32 else 4#32)
    let linked := fun t : State => ∀ r, readReg t r = if r = 1#5 then back else readReg s r
    Does (.br n disp) s (fun t => Branches n near s t ∧ SameRegisters s t)
      ∧ Does (.bsr n disp) s (fun t => Branches n near s t ∧ linked t)
      ∧ Does (.jmp n s2) s (fun t => Branches n far s t ∧ SameRegisters s t)
      ∧ Does (.jsr n s2) s (fun t => Branches n far s t ∧ linked t)

/-- bb0, bb1 and bcnd: taken to the branch's own address plus four times the signed displacement when the bit is clear,
the bit is set, or the class of r[S1] (the most negative number, negative, zero, positive) is in the mask; nothing else
changes, but where instructions are fetched along a wrongly predicted path (ICTL.PREN 1, and the script says so) that
leaves what a fetch leaves (R660, R661, R665 to R668). The model's choices in it: entries 22, 40, 41, 69. -/
def Obligations.ConditionalBranches : Prop :=
  ∀ (s : State) (n : Bool) (b : BitVec 5) (s1 : RegNum) (disp : BitVec 16), s.ds = false →
    let a := readReg s s1
    let target := BitVec.ofInt 32 (s.xip.toInt + 4 * disp.toInt)
    let inMask := b.getLsbD (if a.toInt = -2147483648 then 3 else if a.toInt < 0 then 2 else if a.toInt = 0 then 1 else 0)
    let goes := fun (c : Bool) (t : State) =>
      SameRegisters s t ∧ t.xip = (if c = true ∧ n = false then target else s.nip)
        ∧ t.nip = (if c then (if n then target else target + 4#32) else s.nip + 4#32) ∧ t.ds = n
        ∧ t = { s with
            xip := t.xip, nip := t.nip, ds := t.ds, ticSupply := t.ticSupply, ticFill := t.ticFill, draws := t.draws,
            icache := t.icache, ibias := t.ibias, dcache := t.dcache, mem := t.mem, busLog := t.busLog,
            script := t.script, halted := t.halted, snoopFault := t.snoopFault }
        ∧ (ctlPren s.imu.ctl = false ∨ s.script.guesses = [] →
          if c then Branches n target s t ∧ SameRegisters s t else Passes n s t)
    Does (.bb0 n b s1 disp) s (goes (!a.getLsbD b.toNat))
      ∧ Does (.bb1 n b s1 disp) s (goes (a.getLsbD b.toNat))
      ∧ Does (.bcnd n b s1 disp) s (goes inMask)

/-- tb0, tb1 and tcnd: in user mode a vector below 128 is a privilege violation whatever the condition; otherwise the
trap is taken when the condition holds, and nothing happens when it does not. tbnd: the bounds check exception when
r[S1] is above the bound, both unsigned; nothing otherwise (R680 to R684). The three illegal operations always take the
unimplemented opcode exception (R688), and fsqrt, with whatever operands, always the SFU1 exception with FPECR.FUNIMP
(43_floating_point.md R505): that is their whole effect. The model's choices in it: entries 6, 12, 13. -/
def Obligations.TrapInstructions : Prop :=
  ∀ (s : State) (b : BitVec 5) (s1 s2 d : RegNum) (vec : BitVec 9) (imm : BitVec 16) (x : Bool) (t2 td : FpSize),
    let a := readReg s s1
    let inMask := b.getLsbD (if a.toInt = -2147483648 then 3 else if a.toInt < 0 then 2 else if a.toInt = 0 then 1 else 0)
    let goes := fun (c : Bool) (t : State) =>
      if psrMode s = false ∧ vec.toNat < 128 then Enters 6#9 s t else if c then Enters vec s t else FallsThrough s t
    let check := fun (bound : Nat) (t : State) =>
      if bound < (readReg s s1).toNat then Enters 7#9 s t else FallsThrough s t
    (s.ds = false →
        Does (.tb0 b s1 vec) s (goes (!a.getLsbD b.toNat))
          ∧ Does (.tb1 b s1 vec) s (goes (a.getLsbD b.toNat))
          ∧ Does (.tcnd b s1 vec) s (goes inMask)
          ∧ Does (.tbndReg s1 s2) s (check (readReg s s2).toNat) ∧ Does (.tbndImm s1 imm) s (check imm.toNat)
          ∧ Does .illop1 s (Enters 5#9 s) ∧ Does .illop2 s (Enters 5#9 s) ∧ Does .illop3 s (Enters 5#9 s))
      ∧ Does (.fsqrt d x t2 td s2) s (EntersUnimplemented s)

/-- rte: in supervisor mode PSR receives the fields of EPSR (reserved bits zero, bits 9 to 5 one), execution goes on at
EXIP, and when EXIP.D is 1 the instruction after that is at ENIP and the one at EXIP is in a delay slot; in user mode it
is a privilege violation (R686). The model's choices in it: entries 6, 11, 12. -/
def Obligations.ReturnFromException : Prop :=
  ∀ s : State, s.ds = false →
    if psrMode s then
      Does .rte s fun t =>
        (∀ i, i < 32 → t.psr.getLsbD i
            = ((decide (i ∈ [31, 30, 29, 28, 26, 25, 4, 3, 2, 1, 0]) && s.epsr.getLsbD i) || decide (i ∈ [9, 8, 7, 6, 5])))
          ∧ t.xip = s.exip.extractLsb' 2 30 ++ 0#2
          ∧ t.ds = s.exip.getLsbD 0
          ∧ t.nip = (if s.exip.getLsbD 0 then s.enip.extractLsb' 2 30 ++ 0#2 else t.xip + 4#32)
          ∧ t = { s with
              psr := t.psr, xip := t.xip, nip := t.nip, ds := t.ds, ticSupply := t.ticSupply, ticFill := t.ticFill,
              prefetched := t.prefetched, modeWindow := t.modeWindow }
          ∧ SameMemory s t
    else Does .rte s (Enters 6#9 s)

/-! ### Control registers (45_load_store.md, 10_state.md) -/

/-- ldcr in supervisor mode: every control register that is no port of a translation cache is read into r[D] and
nothing else changes; cr14 and cr15 return a value that nothing determines (R640, R30, R51). The model's choices in
it: entries 5, 9, 10. -/
def Obligations.ControlRegisterRead : Prop :=
  ∀ (s : State) (d : RegNum) (n : BitVec 6), psrMode s = true →
    (∀ v, controlWord s n.toNat = some v → Does (.ldcr d n) s (Sets d v s))
      ∧ (n.toNat = 14 ∨ n.toNat = 15 → Does (.ldcr d n) s fun t => ∃ v, Sets d v { s with draws := t.draws } t)

/-- stcr and xcr in supervisor mode on a control register that holds what is written: its writable bits receive
r[S1], its hardwired bits stay, and no other control register or byte of memory changes; xcr puts the old word into
r[D], and the register receives the old r[S1] also when D is S1. PID ignores a store (R32, 92_eei_decisions.md D4),
and so do cr14 and cr15 (R641, R642, R51). The model's choices in it: entries 5, 6, 9, 10, 11, 12, 15, 31, 40. -/
def Obligations.ControlRegisterWriteAndExchange : Prop :=
  ∀ (s : State) (d s1 : RegNum) (n : BitVec 6), psrMode s = true →
    (∀ old mask ones, controlWord s n.toNat = some old → writableBits s n.toNat = some (mask, ones) →
      let written := fun t : State => ControlFrame s t ∧ controlWord t n.toNat = some ((readReg s s1 &&& mask) ||| ones)
        ∧ ∀ m, m ≠ n.toNat → controlWord t m = controlWord s m
      Does (.stcr s1 n s1) s (fun t => written t ∧ SameRegisters s t)
        ∧ Does (.xcr d s1 n s1) s fun t => written t ∧ ∀ r, readReg t r = if r = d ∧ d ≠ 0#5 then old else readReg s r)
      ∧ (n.toNat = 0 ∨ n.toNat = 14 ∨ n.toNat = 15 →
        Does (.stcr s1 n s1) s fun t => ControlFrame s t ∧ SameRegisters s t ∧ ∀ m, controlWord t m = controlWord s m)

/-- ldcr, stcr and xcr: in user mode a privilege violation whatever the register; in supervisor mode the
unimplemented opcode exception for the unimplemented numbers. A word of stcr, xcr, fstcr or fxcr whose two source fields
differ is a reserved encoding of the base processor's space, the unimplemented opcode exception whatever the mode (R639,
R641, R644, R645, 30_encoding.md R364, R369). The model's choices in it: entries 6, 8, 12, 21. -/
def Obligations.ControlRegisterTraps : Prop :=
  ∀ (s : State) (d s1 s2 : RegNum) (n : BitVec 6),
    let absent := n.toNat ∈ [3, 6] ∨ (8 ≤ n.toNat ∧ n.toNat ≤ 13) ∨ (21 ≤ n.toNat ∧ n.toNat ≤ 24)
      ∨ (37 ≤ n.toNat ∧ n.toNat ≤ 39) ∨ 52 ≤ n.toNat
    (psrMode s = false →
        Does (.ldcr d n) s (Enters 6#9 s) ∧ Does (.stcr s1 n s1) s (Enters 6#9 s) ∧ Does (.xcr d s1 n s1) s (Enters 6#9 s))
      ∧ (psrMode s = true → absent →
        Does (.ldcr d n) s (Enters 5#9 s) ∧ Does (.stcr s1 n s1) s (Enters 5#9 s) ∧ Does (.xcr d s1 n s1) s (Enters 5#9 s))
      ∧ (s1 ≠ s2 →
        Does (.stcr s1 n s2) s (Enters 5#9 s) ∧ Does (.xcr d s1 n s2) s (Enters 5#9 s)
          ∧ Does (.fstcr s1 n s2) s (Enters 5#9 s) ∧ Does (.fxcr d s1 n s2) s (Enters 5#9 s))

/-- fldcr, fstcr and fxcr on FPECR (in supervisor mode), FPSR and FPCR with SFU1 enabled: the word is read into r[D],
the register receives r[S1] in its writable bits, its reserved bits stay zero, and nothing else changes (R643 to
R645, 10_state.md R54 to R56). The model's choices in it: entries 5, 9, 13. -/
def Obligations.FpControlRegisterAccess : Prop :=
  ∀ (s : State) (d s1 : RegNum) (n : BitVec 6), psrSfd1 s = false →
    (n.toNat = 0 ∧ psrMode s = true) ∨ n.toNat = 62 ∨ n.toNat = 63 →
    let old := if n.toNat = 62 then s.fpsr else if n.toNat = 63 then s.fpcr else s.fpecr
    let written := fun t : State =>
      t.fpecr = (if n.toNat = 0 then readReg s s1 &&& 0x000000FF#32 else s.fpecr)
        ∧ t.fpsr = (if n.toNat = 62 then readReg s s1 &&& 0x0001001F#32 else s.fpsr)
        ∧ t.fpcr = (if n.toNat = 63 then readReg s s1 &&& 0x0026C01F#32 else s.fpcr)
        ∧ t = { s with
            gpr := t.gpr, fpecr := t.fpecr, fpsr := t.fpsr, fpcr := t.fpcr, xip := s.nip, nip := s.nip + 4#32,
            ds := false }
        ∧ SameMemory s t
    Does (.fldcr d n) s (Sets d old s)
      ∧ Does (.fstcr s1 n s1) s (fun t => written t ∧ SameRegisters s t)
      ∧ Does (.fxcr d s1 n s1) s fun t => written t ∧ ∀ r, readReg t r = if r = d ∧ d ≠ 0#5 then old else readReg s r

/-- The checks of fldcr, fstcr and fxcr: the SFU1 exception is taken with FPECR.FUNIMP (bit 6) when SFU1 is disabled, with
FPRV (bit 5) and not FUNIMP in user mode on fcr0 to fcr61, with FUNIMP in supervisor mode on fcr1 to fcr61 (R638). -/
def Obligations.FpControlRegisterTraps : Prop :=
  ∀ (s : State) (d s1 : RegNum) (n : BitVec 6),
    let raises := fun P : Word → Prop =>
      ∀ i : Instr, i ∈ [.fldcr d n, .fstcr s1 n s1, .fxcr d s1 n s1] →
        ∃ c k, P c ∧ exec i s = .next (takeException .sfu1 { s with fpecr := c, draws := k })
    (psrSfd1 s = true → raises fun c => c.getLsbD 6 = true)
      ∧ (psrSfd1 s = false → psrMode s = false → n.toNat ≤ 61 → raises fun c => c.getLsbD 5 = true ∧ c.getLsbD 6 = false)
      ∧ (psrSfd1 s = false → psrMode s = true → 1 ≤ n.toNat → n.toNat ≤ 61 → raises fun c => c.getLsbD 6 = true)

/-- What a command, or a write of a port, leaves: the given memory unit and breakpoint registers, the next instruction
(whose fetch is made anew), and everything else as before. -/
def Sys2Proof.Machine.PortWrite (side : Side) (m : Mmu) (b0 b1 : Breakpoint) (s t : State) : Prop :=
  SameRegisters s t ∧ SameMemory s t
    ∧ t = { setMmu side s m with
        bp0 := b0, bp1 := b1, ticSupply := [], ticFill := none, xip := s.nip, nip := s.nip + 4#32, ds := false }

/-- What a read of a port into r[d] leaves: the word read, the given memory unit, everything else as before. -/
def Sys2Proof.Machine.PortRead (side : Side) (d : RegNum) (v : Word) (m : Mmu) (s t : State) : Prop :=
  (∀ r, readReg t r = if r = d ∧ d ≠ 0#5 then v else readReg s r) ∧ SameMemory s t
    ∧ t = { setMmu side s m with gpr := t.gpr, xip := s.nip, nip := s.nip + 4#32, ds := false }

/-- The ports of the translation caches of both sides, in supervisor mode. A store to IBP or DBP makes its word and the
U bits of IIR or DIR the block descriptor that the index names, a load returns the descriptor and puts its U bits there
(12_cache_mmu_state.md R102, R103). A load from IPPU or DPPU fills both port buffers from the page descriptor, or (DPPU)
the breakpoint register, that the index names; a store there only buffers the upper word; a store to IPPL or DPPL makes
an entry of the buffered word and its own; an index that names no entry stops the model (R104, R105, R116, 21_mmu.md
R262; 93_implementation_defined.md P14). The model's choices in it: entries 5, 16, 33, 34, 40. -/
def Obligations.TranslationCachePorts : Prop :=
  ∀ (side : Side) (s : State) (d s1 : RegNum), psrMode s = true →
    let v := readReg s s1
    let m := mmuOf side s
    let port := fun k : BitVec 6 => (match side with | .instr => 26#6 | .data => 41#6) + k
    let block := (m.ir.extractLsb' 8 3).toNat
    let page := (m.ir.extractLsb' 12 6).toNat
    let stores := fun (k : BitVec 6) (P : State → Prop) => Does (.stcr s1 (port k) s1) s P
    let loads := fun (k : BitVec 6) (P : State → Prop) => Does (.ldcr d (port k)) s P
    let reads := fun u l : Word => loads 6#6 (PortRead side d u { m with ppu := u, ppl := l } s)
    stores 5#6 (fun t => PortWrite side { m with batc := (mmuOf side t).batc } s.bp0 s.bp1 s t
        ∧ ∀ j : Fin 8, (mmuOf side t).batc[j] = if j.val = block then ⟨v, m.ir.extractLsb' 0 2⟩ else m.batc[j])
      ∧ (∀ j : Fin 8, j.val = block →
        loads 5#6 fun t => PortRead side d m.batc[j].port { m with ir := (mmuOf side t).ir } s t
          ∧ (mmuOf side t).ir.extractLsb' 0 2 = m.batc[j].user
          ∧ (mmuOf side t).ir.extractLsb' 2 30 = m.ir.extractLsb' 2 30)
      ∧ stores 6#6 (PortWrite side { m with ppu := v } s.bp0 s.bp1 s)
      ∧ (∀ j : Fin 32, j.val = page →
        reads m.patc[j].upper m.patc[j].lower
          ∧ stores 7#6 fun t => PortWrite side { m with patc := (mmuOf side t).patc } s.bp0 s.bp1 s t
            ∧ (∀ i, i < 32 → (mmuOf side t).patc[j].upper.getLsbD i = (decide (12 ≤ i ∨ i = 6) && m.ppu.getLsbD i))
            ∧ (∀ i, i < 32 → (mmuOf side t).patc[j].lower.getLsbD i
                = (decide (9 ≤ i ∨ i ∈ [7, 6, 2, 0]) && v.getLsbD i))
            ∧ ∀ k : Fin 32, k ≠ j → (mmuOf side t).patc[k] = m.patc[k])
      ∧ (side = .data → page = 32 →
        reads s.bp0.lba s.bp0.control ∧ stores 7#6 (PortWrite side m ⟨m.ppu, 0#16 ++ v.extractLsb' 0 16⟩ s.bp1 s))
      ∧ (side = .data → page = 33 →
        reads s.bp1.lba s.bp1.control ∧ stores 7#6 (PortWrite side m s.bp0 ⟨m.ppu, 0#16 ++ v.extractLsb' 0 16⟩ s))
      ∧ ((match side with | .instr => 32 | .data => 34) ≤ page →
        exec (.ldcr d (port 6#6)) s = .fault .unimplementedAtcIndex
          ∧ exec (.stcr s1 (port 7#6) s1) s = .fault .unimplementedAtcIndex)

/-- The commands to ICMD and DCMD that concern the translation caches, in supervisor mode: A and B clear the valid bit of
that unit's page descriptors of one privilege level (21_mmu.md R274); the probes 8 and 9 compare the address in ISAR or
DSAR with every valid descriptor of one privilege level and say in PH and BH whether a page and a block hit (not while
PSR.EFRZ is 1), in the index fields which one; a field of the kind that did not hit keeps its value when the other did,
and the port words are overwritten (R270 to R272, 12_cache_mmu_state.md R91). The model's choices in it: entries 5, 17,
35, 40, 62. -/
def Obligations.TranslationCacheCommands : Prop :=
  ∀ (side : Side) (s : State) (s1 : RegNum) (su : Bool), psrMode s = true →
    let m := mmuOf side s
    let command := fun (code : Word) (P : State → Prop) =>
      readReg s s1 = code → Does (.stcr s1 (match side with | .instr => 25#6 | .data => 40#6) s1) s P
    let page := fun e : PatcEntry => e.lower.getLsbD 0 = true ∧ e.upper.getLsbD 6 = su
      ∧ e.upper.toNat / 4096 = m.sar.toNat / 4096
    let block := fun (k : Nat) (e : BatcEntry) => e.port.getLsbD 0 = true ∧ e.port.getLsbD 5 = su
      ∧ e.port.toNat / 2 ^ (19 + k) = m.sar.toNat / 2 ^ (19 + k)
    command (if su then 10#32 else 11#32) (fun t =>
        PortWrite side { m with patc := (mmuOf side t).patc } s.bp0 s.bp1 s t
          ∧ ∀ j : Fin 32, (mmuOf side t).patc[j].upper = m.patc[j].upper ∧ ∀ i, i < 32 →
            (mmuOf side t).patc[j].lower.getLsbD i
              = (m.patc[j].lower.getLsbD i && !(i == 0 && m.patc[j].upper.getLsbD 6 == su)))
      ∧ ∀ k : Nat, k ≤ 7 → (ctlMask m.ctl).toNat = 2 ^ k - 1 →
        command (if su then 8#32 else 9#32) fun t =>
          let n := mmuOf side t
          PortWrite side { m with ir := n.ir, status := n.status, ppu := n.ppu, ppl := n.ppl } s.bp0 s.bp1
              { s with draws := t.draws } t
            ∧ (psrEfrz s = true → n.status = m.status)
            ∧ (psrEfrz s = false → (∀ i, i < 32 → i ≠ 10 → i ≠ 11 → n.status.getLsbD i = m.status.getLsbD i)
              ∧ (n.status.getLsbD 11 = true ↔ ∃ i : Fin 32, page m.patc[i])
              ∧ (n.status.getLsbD 10 = true ↔ ∃ i : Fin 8, block k m.batc[i]))
            ∧ (∀ i, i < 32 → ¬ (8 ≤ i ∧ i ≤ 10) → ¬ (12 ≤ i ∧ i ≤ 17) → n.ir.getLsbD i = m.ir.getLsbD i)
            ∧ (∀ j : Fin 32, (∀ i : Fin 32, page m.patc[i] ↔ i = j) → (n.ir.extractLsb' 12 6).toNat = j.val)
            ∧ (∀ j : Fin 8, (∀ i : Fin 8, block k m.batc[i] ↔ i = j) → (n.ir.extractLsb' 8 3).toNat = j.val)
            ∧ ((∃ i : Fin 32, page m.patc[i]) → (∀ i : Fin 8, ¬ block k m.batc[i]) →
              n.ir.extractLsb' 8 3 = m.ir.extractLsb' 8 3)
            ∧ ((∃ i : Fin 8, block k m.batc[i]) → (∀ i : Fin 32, ¬ page m.patc[i]) →
              n.ir.extractLsb' 12 6 = m.ir.extractLsb' 12 6)

/-- The cache commands that copy nothing back, in supervisor mode: 1 to ICMD invalidates every instruction cache line
and every TIC entry, 2 every TIC entry, 1 to DCMD every data cache line without any write to memory, and the bias bit of
an invalidated cache is cleared; 5 to ICMD or DCMD invalidates the line that holds the address in ISAR or DSAR, if there
is one; nothing else changes but what the TIC was about to supply or fill (22_caches.md R330, R331, 12_cache_mmu_state.md
R113). The model's choices in it: entries 40, 61. -/
def Obligations.CacheInvalidateCommands : Prop :=
  ∀ (s : State) (s1 : RegNum), psrMode s = true →
    let quiet := fun t : State => SameRegisters s t ∧ SameMemory s t ∧ t = { s with
      icache := t.icache, dcache := t.dcache, ibias := t.ibias, dbias := t.dbias, tic := t.tic, ticSupply := [],
      ticFill := none, xip := s.nip, nip := s.nip + 4#32, ds := false }
    let instr := fun t : State => quiet t ∧ t.dcache = s.dcache ∧ t.dbias = s.dbias
    let data := fun t : State => quiet t ∧ t.icache = s.icache ∧ t.ibias = s.ibias ∧ t.tic = s.tic
    let command := fun (code : Word) (cr : BitVec 6) (P : State → Prop) =>
      readReg s s1 = code → Does (.stcr s1 cr s1) s P
    command 1#32 25#6 (fun t => instr t ∧ t.ibias = false
        ∧ (∀ j : Fin 256, t.icache[j].valid = false) ∧ ∀ j : Fin 32, t.tic[j].valid = false)
      ∧ command 2#32 25#6 (fun t => instr t ∧ t.icache = s.icache ∧ t.ibias = s.ibias
        ∧ ∀ j : Fin 32, t.tic[j].valid = false)
      ∧ command 5#32 25#6 (fun t => instr t ∧ t.ibias = s.ibias ∧ t.tic = s.tic
        ∧ (iHit s s.imu.sar = none → t.icache = s.icache)
        ∧ ∀ way, iHit s s.imu.sar = some way →
          iLine t s.imu.sar way = { iLine s s.imu.sar way with valid := false }
            ∧ ∀ b w, lineIndex b w ≠ lineIndex s.imu.sar way → iLine t b w = iLine s b w)
      ∧ command 1#32 40#6 (fun t => data t ∧ t.dbias = false ∧ ∀ j : Fin 256, t.dcache[j].state = .invalid)
      ∧ command 5#32 40#6 (fun t => data t ∧ t.dbias = s.dbias
        ∧ (dHit s s.dmu.sar = none → t.dcache = s.dcache)
        ∧ ∀ way, dHit s s.dmu.sar = some way →
          dLine t s.dmu.sar way = { dLine s s.dmu.sar way with state := .invalid }
            ∧ ∀ b w, lineIndex b w ≠ lineIndex s.dmu.sar way → dLine t b w = dLine s b w)

/-- The flush commands of DCMD in supervisor mode, nothing from outside and memory alone on the bus: 2 and 3 take every
line, 0 and 4 those of the page of DSAR, 6 and 7 the line of DSAR. A modified line taken is copied back to memory and
becomes exclusive-unmodified, or invalid with 3, 4 and 7, which make every other line taken invalid too; every other
line and every other byte of memory stays as it was (22_caches.md R332 to R334). The model's choices in it: entries 5,
18, 40, 61, 63. -/
def Obligations.CacheFlushCommands : Prop :=
  ∀ (s : State) (s1 : RegNum), psrMode s = true → s.script = Script.idle → s.env.regions = [] →
    Memory.wf s.mem = true →
    let line := fun j : Fin 256 => s.dcache[j].tag ++ BitVec.ofNat 7 (j.val / 2) ++ 0#5
    let flushes := fun (code : Word) (inv : Bool) (takes : Fin 256 → Prop) =>
      let saved := fun j : Fin 256 => takes j ∧ s.dcache[j].state = .exclusiveModified
      readReg s s1 = code → Does (.stcr s1 40#6 s1) s fun t =>
        SameRegisters s t
          ∧ (∀ j : Fin 256, takes j → t.dcache[j] = { s.dcache[j] with
              state := if inv then .invalid
                else if s.dcache[j].state = .exclusiveModified then .exclusiveUnmodified else s.dcache[j].state })
          ∧ (∀ j : Fin 256, ¬ takes j → t.dcache[j] = s.dcache[j])
          ∧ (∀ j : Fin 256, saved j → (∀ j' : Fin 256, saved j' → line j' = line j → j' = j) →
            ∀ k : Fin 32, readByte t (line j + BitVec.ofNat 32 k.val) = s.dcache[j].data[k])
          ∧ (∀ b : Word, (∀ j : Fin 256, saved j → 32 ≤ (b - line j).toNat) → readByte t b = readByte s b)
          ∧ t = { s with
              dcache := t.dcache, mem := t.mem, busLog := t.busLog, ticSupply := [], ticFill := none,
              xip := s.nip, nip := s.nip + 4#32, ds := false }
    let all := fun _ : Fin 256 => True
    let page := fun j : Fin 256 => s.dcache[j].tag = s.dmu.sar.extractLsb' 12 20
    let one := fun j : Fin 256 => page j ∧ j.val / 2 = (s.dmu.sar.extractLsb' 5 7).toNat
    flushes 2#32 false all ∧ flushes 3#32 true all ∧ flushes 0#32 false page ∧ flushes 4#32 true page
      ∧ flushes 6#32 false one ∧ flushes 7#32 true one

/-! ### Floating point (43_floating_point.md) -/

/-- fadd and fsub of numbers, zeros and infinities, whatever the three sizes and in either register file. When the exact
sum or difference lies in the range of the destination's normalized numbers the destination receives the number it
rounds to in the mode of FPCR.RM, and AFINX is set when that is inexact, or FPCR.EFINX asks for the exception instead; a
sum of zero is a zero, negative when both terms are negative zeros or when FPCR.RM is 10 and they are not both positive
zeros; an infinity added to a number, a zero or an infinity of the same sign is that infinity (R492, R494, R499 to
R502). The model's choices in it: entries 6, 9, 12, 13, 14, 23, and entry 43 for the sign of a zero sum (presumed: R500
marks it as general knowledge). -/
def Obligations.FloatingAddAndSubtractRoundCorrectly : Prop :=
  ∀ (s : State) (x : Bool) (t1 t2 td : FpSize) (d s1 s2 : RegNum),
    psrSfd1 s = false → fpUsable x t1 s1 = true → fpUsable x t2 s2 = true → fpUsable x td d = true →
    let sum := fun (a b : FpVal) (i : Instr) =>
      let v := fpRat a + fpRat b
      let minus := if a.isZero = true ∧ b.isZero = true ∧ a.sign = b.sign then a.sign else fpcrRm s.fpcr == 2#2
      (a.isFinite = true → b.isFinite = true → Rounds i x td d v s
          ∧ (v = 0 → Does i s (DeliversSpecial x td d (.zero minus) s)))
        ∧ ∀ n, (a = .inf n ∧ (b = .inf n ∨ b.isFinite = true)) ∨ (b = .inf n ∧ a.isFinite = true) →
          Does i s (DeliversSpecial x td d (.inf n) s)
    sum (fpSource s x t1 s1) (fpSource s x t2 s2) (.fadd d s1 x t1 t2 td s2)
      ∧ sum (fpSource s x t1 s1) (fpSource s x t2 s2).negate (.fsub d s1 x t1 t2 td s2)

/-- fmul and fdiv of numbers, zeros and infinities, as the sums: a product with a zero and a quotient of zero or by
infinity are a zero, a product with an infinity and a quotient of infinity are an infinity, with the exclusive or of the
signs; a number divided by zero in time-critical mode is such an infinity too (R492, R494, R499, R500, R503, R504). The
model's choices in it: entries 6, 9, 12, 13, 14, 23, 46, and entry 43 for the sign of a zero (presumed: R500 marks it as
general knowledge). -/
def Obligations.FloatingMultiplyAndDivideRoundCorrectly : Prop :=
  ∀ (s : State) (x : Bool) (t1 t2 td : FpSize) (d s1 s2 : RegNum),
    psrSfd1 s = false → fpUsable x t1 s1 = true → fpUsable x t2 s2 = true → fpUsable x td d = true →
    let a := fpSource s x t1 s1
    let b := fpSource s x t2 s2
    let minus := a.sign != b.sign
    let gives := fun (i : Instr) (v : FpVal) => Does i s (DeliversSpecial x td d v s)
    (a.isNum = true → b.isNum = true → Rounds (.fmul d s1 x t1 t2 td s2) x td d (fpRat a * fpRat b) s
        ∧ Rounds (.fdiv d s1 x t1 t2 td s2) x td d (fpRat a / fpRat b) s)
      ∧ ((a.isZero = true ∧ b.isFinite = true) ∨ (a.isFinite = true ∧ b.isZero = true) →
        gives (.fmul d s1 x t1 t2 td s2) (.zero minus))
      ∧ ((a.isInf = true ∧ (b.isInf = true ∨ b.isNum = true)) ∨ (a.isNum = true ∧ b.isInf = true) →
        gives (.fmul d s1 x t1 t2 td s2) (.inf minus))
      ∧ ((a.isZero = true ∧ (b.isNum = true ∨ b.isInf = true)) ∨ (a.isNum = true ∧ b.isInf = true) →
        gives (.fdiv d s1 x t1 t2 td s2) (.zero minus))
      ∧ ((a.isInf = true ∧ b.isFinite = true) ∨ (a.isNum = true ∧ b.isZero = true ∧ fpcrTcfp s.fpcr = true) →
        gives (.fdiv d s1 x t1 t2 td s2) (.inf minus))

/-- fcvt of a number in the range of the destination rounds it, of a zero or an infinity keeps it with its sign; flt of a
nonzero integer rounds it, of 0 gives positive zero (R492, R499, R506, R507). The model's choices in it: entries 6, 9,
12, 13, 14, 23. -/
def Obligations.FloatingConversionsRoundCorrectly : Prop :=
  ∀ (s : State) (x : Bool) (t2 td : FpSize) (d s2 : RegNum),
    psrSfd1 s = false → fpUsable x td d = true →
    let a := fpSource s x t2 s2
    let n : Int := (readReg s s2).toInt
    (fpUsable x t2 s2 = true →
        (a.isNum = true → Rounds (.fcvt d x t2 td s2) x td d (fpRat a) s)
          ∧ (a.isZero = true → Does (.fcvt d x t2 td s2) s (DeliversSpecial x td d (.zero a.sign) s))
          ∧ (a.isInf = true → Does (.fcvt d x t2 td s2) s (DeliversSpecial x td d (.inf a.sign) s)))
      ∧ (n ≠ 0 → InRange td (n : ℚ) ∧ Rounds (.flt d x td s2) x td d (n : ℚ) s)
      ∧ (n = 0 → Does (.flt d x td s2) s (DeliversSpecial x td d (.zero false) s))

/-- int, nint and trnc of a number or zero: the integer it rounds to in the mode of FPCR.RM, to nearest, toward zero;
when inexact AFINX is set, or the exception taken that FPCR.EFINX asks for; when that integer does not fit, or the source
is an infinity, the conversion overflow exception, or with FPCR.TCFP 1 the large integer of the source's sign (R498,
R499, R508 to R510, 92_eei_decisions.md D31, D32). The model's choices in it: entries 6, 9, 12, 13, 23, 24. -/
def Obligations.FloatingToIntegerConversions : Prop :=
  ∀ (s : State) (x : Bool) (t2 : FpSize) (d s2 : RegNum) (n : Int),
    psrSfd1 s = false → fpUsable x t2 s2 = true →
    let src := fpSource s x t2 s2
    let a := fpRat src
    let fits := -2147483648 ≤ n ∧ n ≤ 2147483647
    let puts := fun (v : Word) (t : State) =>
      (∀ j, j < 32 → j ≠ 0 → t.fpsr.getLsbD j = s.fpsr.getLsbD j) ∧ Sets d v { s with fpsr := t.fpsr } t
    let tooLarge := fun i : Instr =>
      if fpcrTcfp s.fpcr then Does i s (puts (if src.sign then 0x80000000#32 else 0x40000000#32))
      else Does i s (EntersSfu1 0x80#32 s)
    let goes := fun i : Instr =>
      (fits → (InexactAllowed s = true ∨ (n : ℚ) = a) →
          Does i s fun t => ∃ v : Word, v.toInt = n ∧ t.fpsr.getLsbD 0 = (decide ((n : ℚ) ≠ a) || s.fpsr.getLsbD 0)
            ∧ puts v t)
        ∧ (fits → InexactAllowed s = false → (n : ℚ) ≠ a → Does i s (EntersSfu1 0x01#32 s))
        ∧ (¬ fits → tooLarge i)
    (src.isFinite = true →
        (RoundsToInt (fpcrRm s.fpcr) a n → goes (.int d x t2 s2))
          ∧ (RoundsToInt 0#2 a n → goes (.nint d x t2 s2))
          ∧ (RoundsToInt 1#2 a n → goes (.trnc d x t2 s2)))
      ∧ (src.isInf = true → tooLarge (.int d x t2 s2) ∧ tooLarge (.nint d x t2 s2) ∧ tooLarge (.trnc d x t2 s2))

/-- An ordered operand among the extended reals. -/
def Sys2Proof.Machine.fpExtended : FpVal → WithBot (WithTop ℚ)
  | .inf true => ⊥
  | .inf false => ((⊤ : WithTop ℚ) : WithBot (WithTop ℚ))
  | v => ((fpRat v : WithTop ℚ) : WithBot (WithTop ℚ))

/-- The result string of fcmp of two ordered values: the bits of R511, every other bit zero; a negative second value
clears the four range bits (92_eei_decisions.md D34). -/
def Sys2Proof.Machine.IsFpCompareString (a b : WithBot (WithTop ℚ)) (v : Word) : Prop :=
  v.getLsbD 0 = false ∧ v.getLsbD 1 = true
    ∧ (v.getLsbD 2 = true ↔ a = b) ∧ (v.getLsbD 3 = true ↔ a ≠ b) ∧ (v.getLsbD 4 = true ↔ b < a)
    ∧ (v.getLsbD 5 = true ↔ a ≤ b) ∧ (v.getLsbD 6 = true ↔ a < b) ∧ (v.getLsbD 7 = true ↔ b ≤ a)
    ∧ (v.getLsbD 8 = true ↔ 0 ≤ b ∧ (a < 0 ∨ b < a)) ∧ (v.getLsbD 9 = true ↔ 0 ≤ b ∧ 0 ≤ a ∧ a ≤ b)
    ∧ (v.getLsbD 10 = true ↔ 0 ≤ b ∧ 0 < a ∧ a < b) ∧ (v.getLsbD 11 = true ↔ 0 ≤ b ∧ (a ≤ 0 ∨ b ≤ a))
    ∧ (v.getLsbD 12 = true ↔ a = b) ∧ (v.getLsbD 13 = true ↔ a ≠ b) ∧ (v.getLsbD 14 = true ↔ b < a)
    ∧ (v.getLsbD 15 = true ↔ a ≤ b) ∧ (v.getLsbD 16 = true ↔ a < b) ∧ (v.getLsbD 17 = true ↔ b ≤ a)
    ∧ ∀ i, 18 ≤ i → v.getLsbD i = false

/-- fcmp and fcmpu of two ordered operands (numbers, zeros, infinities) of any sizes give the same result string in a
general register (R511, R512). The model's choices in it: entries 9, 24. -/
def Obligations.FloatingCompare : Prop :=
  ∀ (s : State) (x : Bool) (t1 t2 : FpSize) (d s1 s2 : RegNum),
    psrSfd1 s = false → fpUsable x t1 s1 = true → fpUsable x t2 s2 = true →
    (fpSource s x t1 s1).reserved = false → (fpSource s x t2 s2).reserved = false →
    ∃ v, IsFpCompareString (fpExtended (fpSource s x t1 s1)) (fpExtended (fpSource s x t2 s2)) v
      ∧ Does (.fcmp d s1 x t1 t2 s2) s (Sets d v s) ∧ Does (.fcmpu d s1 x t1 t2 s2) s (Sets d v s)

/-- The mov instructions copy bits, with SFU1 enabled: 32 or 64 bits between a general register or even pair and the
top of an extended register, or all 80 bits between extended registers (R513). The model's choices in it: entries 9,
14. -/
def Obligations.ExtendedRegisterMoves : Prop :=
  ∀ (s : State) (d s2 : RegNum), psrSfd1 s = false →
    let out := fun (w v : Nat) (t : State) => WritesX d w v s t ∧ SameRegisters s t ∧ SameMemory s t
      ∧ t = { s with xrf := t.xrf, fpsr := t.fpsr, draws := t.draws, xip := s.nip, nip := s.nip + 4#32, ds := false }
    Does (.movToGrf d false s2) s (Sets d ((readX s s2).extractLsb' 48 32) s)
      ∧ (d.toNat % 2 = 0 → Does (.movToGrf d true s2) s
        (SetsPair d ((readX s s2).extractLsb' 48 32) ((readX s s2).extractLsb' 16 32) s))
      ∧ Does (.movToXrf d false s2) s (out 32 (readReg s s2).toNat)
      ∧ (s2.toNat % 2 = 0 → Does (.movToXrf d true s2) s
        (out 64 ((readReg s s2).toNat * 4294967296 + (readReg s (s2 + 1#5)).toNat)))
      ∧ Does (.movXrf d s2) s (out 80 (readX s s2).toNat)

/-- An SFU1 instruction with SFU1 disabled, with a size code its register file does not have, or with an odd register
for a double in the general file, is the floating-point unimplemented exception (R495, R497). The model's choices in
it: entries 6, 12, 13. -/
def Obligations.FloatingUnimplementedCases : Prop :=
  ∀ (s : State) (x dbl : Bool) (t1 t2 td : FpSize) (d s1 s2 : RegNum),
    let bad := fun (y : Bool) (t : FpSize) (r : RegNum) =>
      t = .unused ∨ (y = false ∧ t = .ext) ∨ (y = false ∧ t = .double ∧ r.toNat % 2 = 1)
    let off := psrSfd1 s = true
    let goes := fun i : Instr => Does i s (EntersUnimplemented s)
    (off ∨ bad x t1 s1 ∨ bad x t2 s2 ∨ bad x td d →
        goes (.fadd d s1 x t1 t2 td s2) ∧ goes (.fsub d s1 x t1 t2 td s2) ∧ goes (.fmul d s1 x t1 t2 td s2)
          ∧ goes (.fdiv d s1 x t1 t2 td s2))
      ∧ (off ∨ bad x t2 s2 ∨ bad x td d → goes (.fcvt d x t2 td s2))
      ∧ (off ∨ bad x td d → goes (.flt d x td s2))
      ∧ (off ∨ bad x t1 s1 ∨ bad x t2 s2 → goes (.fcmp d s1 x t1 t2 s2) ∧ goes (.fcmpu d s1 x t1 t2 s2))
      ∧ (off ∨ bad x t2 s2 → goes (.int d x t2 s2) ∧ goes (.nint d x t2 s2) ∧ goes (.trnc d x t2 s2))
      ∧ (off ∨ (dbl = true ∧ d.toNat % 2 = 1) → goes (.movToGrf d dbl s2))
      ∧ (off ∨ (dbl = true ∧ s2.toNat % 2 = 1) → goes (.movToXrf d dbl s2))
      ∧ (off → goes (.movXrf d s2))

/-- The left-justified image of the universal nonsignaling NaN of a format (43_floating_point.md R498, Table 4-3). -/
def Sys2Proof.Machine.universalNan (td : FpSize) (neg : Bool) : XWord :=
  match td, neg with
  | .single, false => 0x7FE00000#32 ++ 0#48
  | .single, true => 0xFFE00000#32 ++ 0#48
  | .double, false => 0x7FFC000000000000#64 ++ 0#16
  | .double, true => 0xFFFC000000000000#64 ++ 0#16
  | _, false => 0x7FFFE000000000000000#80
  | _, true => 0xFFFFE000000000000000#80

/-- A reserved operand or an invalid operation of an instruction with a floating-point destination: with FPCR.TCFP 0 the
SFU1 exception with FPECR.FROP, with TCFP 1 the universal NaN of the sign given, FPSR.AFINX as it was (R498). -/
def Sys2Proof.Machine.InvalidGives (i : Instr) (x : Bool) (td : FpSize) (d : RegNum) (neg : Bool) (s : State) : Prop :=
  if fpcrTcfp s.fpcr then
    Does i s fun t =>
      HoldsImage t x td d (universalNan td neg) ∧ t.fpsr.getLsbD 0 = s.fpsr.getLsbD 0 ∧ FpFrame x td d s t
  else Does i s (EntersSfu1 0x10#32 s)

/-- A NaN, a denormalized or an unnormalized source is a reserved operand of every instruction that reads values; so are,
as invalid operations, the difference of equal infinities, zero times infinity, 0/0 and infinity by infinity. With
FPCR.TCFP 0 they are the reserved operand exception; with TCFP 1 no exception is taken and the destination receives the
universal NaN (positive for fadd, fsub and fcvt, with the exclusive or of the source signs for fmul and fdiv), fcmp and
fcmpu the unordered string, int, nint and trnc the large integer of a NaN's sign or zero for a denormalized or
unnormalized source. With TCFP 0 a nonzero number divided by zero is the divide-by-zero exception (R498, R504, R508,
R511, R512, Table 4-6; 92_eei_decisions.md D33, D34). The model's choices in it: entries 6, 9, 12, 13, 14, 24, 46. -/
def Obligations.ReservedOperandsAndInvalidOperations : Prop :=
  ∀ (s : State) (x : Bool) (t1 t2 td : FpSize) (d s1 s2 : RegNum),
    psrSfd1 s = false → fpUsable x t1 s1 = true → fpUsable x t2 s2 = true → fpUsable x td d = true →
    let a := fpSource s x t1 s1
    let b := fpSource s x t2 s2
    let gives := fun (neg : Bool) (i : Instr) => InvalidGives i x td d neg s
    let puts := fun (v : Word) (i : Instr) =>
      if fpcrTcfp s.fpcr then Does i s (Sets d v s) else Does i s (EntersSfu1 0x10#32 s)
    let minus := a.sign != b.sign
    (a.reserved = true ∨ b.reserved = true →
        gives false (.fadd d s1 x t1 t2 td s2) ∧ gives false (.fsub d s1 x t1 t2 td s2)
          ∧ gives minus (.fmul d s1 x t1 t2 td s2) ∧ gives minus (.fdiv d s1 x t1 t2 td s2)
          ∧ puts 0x0003D909#32 (.fcmp d s1 x t1 t2 s2) ∧ puts 0x0003D909#32 (.fcmpu d s1 x t1 t2 s2))
      ∧ (b.reserved = true → gives false (.fcvt d x t2 td s2)
        ∧ ∀ i ∈ [Instr.int d x t2 s2, Instr.nint d x t2 s2, Instr.trnc d x t2 s2],
          (∀ n, b = .nan n → puts (if n then 0x80000000#32 else 0x40000000#32) i)
            ∧ (∀ n, b = .denorm n → puts 0#32 i))
      ∧ (∀ n m, a = .inf n → b = .inf m → n ≠ m → gives false (.fadd d s1 x t1 t2 td s2))
      ∧ (∀ n m, a = .inf n → b = .inf m → n = m → gives false (.fsub d s1 x t1 t2 td s2))
      ∧ (a.isInf = true ∧ b.isZero = true ∨ a.isZero = true ∧ b.isInf = true → gives minus (.fmul d s1 x t1 t2 td s2))
      ∧ (a.isZero = true ∧ b.isZero = true ∨ a.isInf = true ∧ b.isInf = true → gives minus (.fdiv d s1 x t1 t2 td s2))
      ∧ (a.isNum = true → b.isZero = true → fpcrTcfp s.fpcr = false →
        Does (.fdiv d s1 x t1 t2 td s2) s (EntersSfu1 0x08#32 s))

/-- q is the number (-1)^neg * m * 2^e with exactly the precision of the format, whatever its exponent. -/
def Sys2Proof.Machine.HasPrecisionAs (td : FpSize) (q : ℚ) (neg : Bool) (m : Nat) (e : Int) : Prop :=
  2 ^ (fpPrec td - 1) ≤ m ∧ m < 2 ^ fpPrec td ∧ q = (if neg then -1 else 1) * (m : ℚ) * (2 : ℚ) ^ e

/-- q is a number with the precision of the format. -/
def Sys2Proof.Machine.HasPrecision (td : FpSize) (q : ℚ) : Prop := ∃ neg m e, HasPrecisionAs td q neg m e

/-- r is the number that v rounds to at the precision of the format with unbounded exponent range, in a rounding mode
(43_floating_point.md R492, R499). -/
structure Sys2Proof.Machine.RoundsUnbounded (rm : BitVec 2) (td : FpSize) (v r : ℚ) : Prop where
  precise : HasPrecision td r
  nearest : rm = 0#2 → ∀ y, HasPrecision td y → |r - v| ≤ |y - v|
  even : rm = 0#2 → ∀ y neg m e, HasPrecision td y → y ≠ r → |y - v| = |r - v| → HasPrecisionAs td r neg m e →
    m % 2 = 0
  towardZero : rm = 1#2 → |r| ≤ |v| ∧ 0 < r * v ∧ ∀ y, HasPrecision td y → |y| ≤ |v| → |y| ≤ |r|
  down : rm = 2#2 → r ≤ v ∧ ∀ y, HasPrecision td y → y ≤ v → y ≤ r
  up : rm = 3#2 → v ≤ r ∧ ∀ y, HasPrecision td y → v ≤ y → r ≤ y

/-- Instruction i, whose exact nonzero result v rounds to r at the precision of the destination: an r above the largest
number of the destination is the overflow exception, with FPECR.FOVF and FINX, and one below the smallest normalized
number the underflow exception, with FPECR.FUNF, unless FPCR.TCFP or the mode's own bit asks for the default, an infinity
or a zero with the sign of v, which sets FPSR.AFINX; every other r is delivered, with FPSR.AFINX set when it is not v, or
where FPCR.EFINX asks for it the inexact exception, with FPECR.FINX, even where v itself is out of range (R499,
92_eei_decisions.md D31). -/
def Sys2Proof.Machine.RangeChecked (i : Instr) (x : Bool) (td : FpSize) (d : RegNum) (v : ℚ) (s : State) : Prop :=
  let default := fun (w : FpVal) (t : State) => FpFrame x td d s t ∧ t.fpsr.getLsbD 0 = true ∧ HoldsSpecial t x td d w
  let largest := (2 ^ fpPrec td - 1) * (2 : ℚ) ^ ((fpBias td : Int) - (fpPrec td : Int) + 1)
  let smallest := (2 : ℚ) ^ (1 - (fpBias td : Int))
  v ≠ 0 → ∃ r, RoundsUnbounded (fpcrRm s.fpcr) td v r
    ∧ (largest < |r| →
      if fpcrTcfp s.fpcr = true ∨ fpcrTcfpOvf s.fpcr = true then Does i s (default (.inf (decide (v < 0))))
      else Does i s (EntersSfu1 0x03#32 s))
    ∧ (|r| < smallest →
      if fpcrTcfp s.fpcr = true ∨ fpcrTcfpUnf s.fpcr = true then Does i s (default (.zero (decide (v < 0))))
      else Does i s (EntersSfu1 0x04#32 s))
    ∧ (smallest ≤ |r| → |r| ≤ largest →
      if InexactAllowed s = true ∨ r = v then
        Does i s fun t => FpFrame x td d s t ∧ t.fpsr.getLsbD 0 = (decide (r ≠ v) || s.fpsr.getLsbD 0)
          ∧ ∃ w : XWord, (fpUnpack td w).isNum = true ∧ fpRat (fpUnpack td w) = r ∧ HoldsImage t x td d w
      else Does i s (EntersSfu1 0x01#32 s))

/-- Overflow and underflow of fadd, fsub, fmul, fdiv and fcvt, decided on the exact result rounded at the precision of the
destination with unbounded exponent: above the largest number the overflow exception sets FOVF and FINX, below the
smallest normalized number the underflow exception sets FUNF, unless FPCR.TCFP or the mode's own bit asks for the
default, an infinity or a zero with the sign of the exact result; a rounded result in the range is delivered, or is the
inexact exception, also where the exact result is out of the range (R492, R499, R501 to R504, R506; that AFINX is set with a
default is 92_eei_decisions.md D31). The model's choices in it: entries 6, 9, 12, 13, 14, 23. -/
def Obligations.FloatingOverflowAndUnderflow : Prop :=
  ∀ (s : State) (x : Bool) (t1 t2 td : FpSize) (d s1 s2 : RegNum),
    psrSfd1 s = false → fpUsable x t1 s1 = true → fpUsable x t2 s2 = true → fpUsable x td d = true →
    let a := fpSource s x t1 s1
    let b := fpSource s x t2 s2
    (a.isFinite = true → b.isFinite = true →
        RangeChecked (.fadd d s1 x t1 t2 td s2) x td d (fpRat a + fpRat b) s
          ∧ RangeChecked (.fsub d s1 x t1 t2 td s2) x td d (fpRat a - fpRat b) s)
      ∧ (a.isNum = true → b.isNum = true →
        RangeChecked (.fmul d s1 x t1 t2 td s2) x td d (fpRat a * fpRat b) s
          ∧ RangeChecked (.fdiv d s1 x t1 t2 td s2) x td d (fpRat a / fpRat b) s)
      ∧ (b.isNum = true → RangeChecked (.fcvt d x t2 td s2) x td d (fpRat b) s)

/-! ### Graphics (44_graphics.md) -/

/-- The 64-bit value of a register pair. -/
def Sys2Proof.Machine.pairValue (s : State) (d : RegNum) : Nat :=
  (readReg s d).toNat * 4294967296 + (readReg s (d + 1#5)).toNat

/-- The instruction puts into the pair of d the 64 bits whose field i of w bits is f of the fields i of the pairs of s1
and s2. -/
def Sys2Proof.Machine.OnFields (w : Nat) (f : Int → Int → Int) (d s1 s2 : RegNum) (i : Instr) (s : State) : Prop :=
  ∃ hi lo : Word, Does i s (SetsPair d hi lo s)
    ∧ ∀ k, k < 64 / w →
      (((hi.toNat * 4294967296 + lo.toNat) / 2 ^ (w * k) % 2 ^ w : Nat) : Int)
        = f ((pairValue s s1 / 2 ^ (w * k) % 2 ^ w : Nat) : Int) ((pairValue s s2 / 2 ^ (w * k) % 2 ^ w : Nat) : Int)

/-- padd and psub add and subtract the fields of two pairs modulo 2^8, 2^16 or 2^32; padds and psubs clamp the exact
sum or difference to the range of the mode's result: unsigned operands (.u), an unsigned and a signed one with an
unsigned result (.us), signed operands (.s) (R563 to R567). The model's choices in it: entry 9. -/
def Obligations.PixelAddAndSubtract : Prop :=
  ∀ (s : State) (d s1 s2 : RegNum) (p : PackSize) (w : Nat),
    psrSfd2 s = false → d.toNat % 2 = 0 → s1.toNat % 2 = 0 → s2.toNat % 2 = 0 →
    (p = .byte ∧ w = 8) ∨ (p = .half ∧ w = 16) ∨ (p = .word ∧ w = 32) →
    let signed := fun a : Int => if 2 ^ (w - 1) ≤ a then a - 2 ^ w else a
    let u := fun a : Int => max 0 (min a (2 ^ w - 1))
    let sg := fun a : Int => max (-(2 ^ (w - 1))) (min a (2 ^ (w - 1) - 1)) % 2 ^ w
    OnFields w (fun a b => (a + b) % 2 ^ w) d s1 s2 (.padd d s1 p s2) s
      ∧ OnFields w (fun a b => (a - b) % 2 ^ w) d s1 s2 (.psub d s1 p s2) s
      ∧ OnFields w (fun a b => u (a + b)) d s1 s2 (.paddsU d s1 p s2) s
      ∧ OnFields w (fun a b => u (a + signed b)) d s1 s2 (.paddsUs d s1 p s2) s
      ∧ OnFields w (fun a b => sg (signed a + signed b)) d s1 s2 (.paddsS d s1 p s2) s
      ∧ OnFields w (fun a b => u (a - b)) d s1 s2 (.psubsU d s1 p s2) s
      ∧ OnFields w (fun a b => u (a - signed b)) d s1 s2 (.psubsUs d s1 p s2) s
      ∧ OnFields w (fun a b => sg (signed a - signed b)) d s1 s2 (.psubsS d s1 p s2) s

/-- pcmp gives one of four strings, by the unsigned comparisons of the two words of each pair (R569); pmul gives the
low 64 bits of the product of a register and a pair (R570). The model's choices in it: entry 9. -/
def Obligations.PixelCompareAndMultiply : Prop :=
  ∀ (s : State) (d s1 s2 : RegNum), psrSfd2 s = false → s2.toNat % 2 = 0 →
    let hi := decide ((readReg s s2).toNat ≤ (readReg s s1).toNat)
    let lo := decide ((readReg s (s2 + 1#5)).toNat ≤ (readReg s (s1 + 1#5)).toNat)
    let string : Word :=
      if hi then (if lo then 0x00000E10#32 else 0x00000B40#32) else if lo then 0x00000780#32 else 0x00000D20#32
    (s1.toNat % 2 = 0 → Does (.pcmp d s1 s2) s (Sets d string s))
      ∧ (d.toNat % 2 = 0 → ∃ h l : Word,
        h.toNat * 4294967296 + l.toNat = (readReg s s1).toNat * pairValue s s2 % 18446744073709551616
          ∧ Does (.pmul d s1 s2) s (SetsPair d h l s))

/-- punpk spreads the fields of a register into fields twice as large; ppack moves the pair of S1 up by r bits and
puts below it the highest t*r/64 bits of every field of the pair of S2; prot rotates a pair left by a multiple of
four bits (R571 to R573). The model's choices in it: entries 9, 25. -/
def Obligations.PixelUnpackPackAndRotate : Prop :=
  ∀ (s : State) (d s1 s2 : RegNum), psrSfd2 s = false → d.toNat % 2 = 0 →
    let sets := fun (i : Instr) (P : Nat → Prop) =>
      ∃ hi lo : Word, Does i s (SetsPair d hi lo s) ∧ P (hi.toNat * 4294967296 + lo.toNat)
    (∀ p w, (p = .nibble ∧ w = 4) ∨ (p = .byte ∧ w = 8) ∨ (p = .half ∧ w = 16) →
        sets (.punpk d s1 p) fun v => ∀ k, k < 32 / w →
          v / 2 ^ (2 * w * k) % 2 ^ (2 * w) = (readReg s s1).toNat / 2 ^ (w * k) % 2 ^ w)
      ∧ (∀ r p w, s1.toNat % 2 = 0 → s2.toNat % 2 = 0 →
        (p = .byte ∧ w = 8 ∧ r = 8#4) ∨ (p = .half ∧ w = 16 ∧ (r = 4#4 ∨ r = 8#4))
          ∨ (p = .word ∧ w = 32 ∧ (r = 2#4 ∨ r = 4#4 ∨ r = 8#4)) →
        sets (.ppack d s1 r p s2) fun v =>
          v / 2 ^ (4 * r.toNat) = pairValue s s1 % 2 ^ (64 - 4 * r.toNat)
            ∧ ∀ k, k < 64 / w →
              v / 2 ^ (w * r.toNat / 16 * k) % 2 ^ (w * r.toNat / 16)
                = pairValue s s2 / 2 ^ (w * k) % 2 ^ w / 2 ^ (w - w * r.toNat / 16))
      ∧ (s1.toNat % 2 = 0 →
        (∀ r, sets (.protImm d s1 r) fun v => ∀ k, k < 64 →
            v.testBit k = (pairValue s s1).testBit ((k + 64 - 4 * r.toNat) % 64))
          ∧ sets (.protReg d s1 s2) fun v => ∀ k, k < 64 →
            v.testBit k = (pairValue s s1).testBit ((k + 64 - 4 * ((readReg s s2).toNat / 4 % 16)) % 64))

/-- The graphics exception, vector 116: SFU2 disabled, an odd register for a double word, or a size or rotation that is
not defined (R561, R572, 92_eei_decisions.md D35). The model's choices in it: entries 6, 12, 25. -/
def Obligations.GraphicsExceptions : Prop :=
  ∀ (s : State) (d s1 s2 : RegNum) (p : PackSize) (r : BitVec 4),
    let off := psrSfd2 s = true
    let odd := fun q : RegNum => q.toNat % 2 = 1
    let goes := fun i : Instr => Does i s (Enters 116#9 s)
    (off ∨ odd d ∨ odd s1 ∨ odd s2 ∨ p = .nibble →
        goes (.padd d s1 p s2) ∧ goes (.paddsU d s1 p s2) ∧ goes (.paddsUs d s1 p s2) ∧ goes (.paddsS d s1 p s2)
          ∧ goes (.psub d s1 p s2) ∧ goes (.psubsU d s1 p s2) ∧ goes (.psubsUs d s1 p s2) ∧ goes (.psubsS d s1 p s2))
      ∧ (off ∨ odd s1 ∨ odd s2 → goes (.pcmp d s1 s2))
      ∧ (off ∨ odd d ∨ odd s2 → goes (.pmul d s1 s2))
      ∧ (off ∨ odd d ∨ odd s1 ∨ odd s2
          ∨ (p, r) ∉ [(.byte, 8#4), (.half, 4#4), (.half, 8#4), (.word, 2#4), (.word, 4#4), (.word, 8#4)] →
        goes (.ppack d s1 r p s2))
      ∧ (off ∨ odd d ∨ p = .word → goes (.punpk d s1 p))
      ∧ (off ∨ odd d ∨ odd s1 → goes (.protImm d s1 r) ∧ goes (.protReg d s1 s2))

/-! ### Loads and stores (45_load_store.md) -/

/-- The effective address of a load, store or exchange is r[S1] plus the index modulo 2^32 (the immediate extended as
PSR.SGN says; the index register, times the access's size with scaling), and an access of n bytes uses it as it is when
n divides it, rounded down when PSR.MXM is 1, and not at all when it is 0 (R600, 20_memory.md R180). lda.h, lda, lda.d
and lda.x put r[S1] plus r[S2] times 2, 4, 8 or 16, modulo 2^32, into r[D], without an access and without an exception
(45_load_store.md R635). The model's choices in it: entry 9. -/
def Obligations.EffectiveAddressAndAlignment : Prop :=
  ∀ (s : State) (d s1 s2 : RegNum) (imm : BitVec 16) (k : Nat) (ea : Word),
    let at_ := fun k : Nat => ((readReg s s1).toNat + (readReg s s2).toNat * k) % 4294967296
    (k ≤ 4 →
        (eaImm s s1 imm).toNat
            = (((readReg s s1).toNat : Int) + (if psrSgn s then imm.toInt else (imm.toNat : Int))) % 4294967296
          ∧ (eaReg s s1 s2 false k).toNat = at_ 1
          ∧ (eaReg s s1 s2 true k).toNat = at_ (2 ^ k)
          ∧ alignAddr s (2 ^ k) ea =
            if ea.toNat % 2 ^ k = 0 then some ea
            else if psrMxm s then some (BitVec.ofNat 32 (ea.toNat - ea.toNat % 2 ^ k)) else none)
      ∧ (∃ v : Word, v.toNat = at_ 2 ∧ Does (.ldaH d s1 s2) s (Sets d v s))
      ∧ (∃ v : Word, v.toNat = at_ 4 ∧ Does (.lda d s1 s2) s (Sets d v s))
      ∧ (∃ v : Word, v.toNat = at_ 8 ∧ Does (.ldaD d s1 s2) s (Sets d v s))
      ∧ (∃ v : Word, v.toNat = at_ 16 ∧ Does (.ldaX d s1 s2) s (Sets d v s))

/-- Loads of general registers in the plain setting, every size and index form: r[D] receives the operand, sign or
zero extended, or an even pair the double word; bytes in the order of PSR.BO. ld.b, ld.h and ld of r0 are the
cache-control loads and are stated apart (R601, R604, R605; 20_memory.md R172). The model's choices in it: entry 9.
-/
def Obligations.GeneralRegisterLoads : Prop :=
  ∀ (s : State) (d s1 s2 : RegNum) (scaled usr : Bool) (imm : BitVec 16), (usr = true → psrMode s = true) →
    let from_ := fun (n k : Nat) (iImm iReg : Instr) (out : Nat → State → Prop) =>
      ∀ (a : Word) (v : Nat), PlainData s a → HeldAt s a n v →
        (alignAddr s n (eaImm s s1 imm) = some a → Does iImm s (out v))
          ∧ (alignAddr s n (eaReg s s1 s2 scaled k) = some a → Does iReg s (out v))
    (d ≠ 0#5 → from_ 1 0 (.ldBImm d s1 imm) (.ldB d s1 scaled usr s2)
        fun v => Loads d ((BitVec.ofNat 8 v).signExtend 32) s)
      ∧ from_ 1 0 (.ldBuImm d s1 imm) (.ldBu d s1 scaled usr s2) (fun v => Loads d (BitVec.ofNat 32 v) s)
      ∧ (d ≠ 0#5 → from_ 2 1 (.ldHImm d s1 imm) (.ldH d s1 scaled usr s2)
        fun v => Loads d ((BitVec.ofNat 16 v).signExtend 32) s)
      ∧ from_ 2 1 (.ldHuImm d s1 imm) (.ldHu d s1 scaled usr s2) (fun v => Loads d (BitVec.ofNat 32 v) s)
      ∧ (d ≠ 0#5 → from_ 4 2 (.ldImm d s1 imm) (.ld d s1 scaled usr s2) fun v => Loads d (BitVec.ofNat 32 v) s)
      ∧ (d.toNat % 2 = 0 → from_ 8 3 (.ldDImm d s1 imm) (.ldD d s1 scaled usr s2)
        fun v => LoadsPair d (BitVec.ofNat 32 (v / 4294967296)) (BitVec.ofNat 32 v) s)

/-- Loads of extended registers in the plain setting: the top 32 or 64 bits receive the operand and the bits below
are undefined, or all 80 bits the high 80 of a quad word, which PSR.BO 1 reverses as one operand of sixteen bytes
(20_memory.md R176, 92_eei_decisions.md D25); FPSR.XMOD is set; SFU1 may be disabled (R606). The model's choices in it:
entries 9, 14, 19. -/
def Obligations.ExtendedRegisterLoads : Prop :=
  ∀ (s : State) (d s1 s2 : RegNum) (scaled usr : Bool) (imm : BitVec 16), (usr = true → psrMode s = true) →
    let from_ := fun (n k : Nat) (iImm iReg : Instr) (out : Nat → State → Prop) =>
      ∀ (a : Word) (v : Nat), PlainData s a → (n = 16 → PlainData s (a + 8#32)) → HeldAt s a n v →
        (alignAddr s n (eaImm s s1 imm) = some a → Does iImm s (out v))
          ∧ (alignAddr s n (eaReg s s1 s2 scaled k) = some a → Does iReg s (out v))
    let out := fun (w v : Nat) (t : State) => WritesX d w v s t ∧ SameRegisters s t ∧ SameMemory s t
      ∧ t = { s with
          xrf := t.xrf, fpsr := t.fpsr, draws := t.draws, busLog := t.busLog, xip := s.nip, nip := s.nip + 4#32,
          ds := false }
    from_ 4 2 (.ldXrfImm d s1 imm) (.ldXrf d s1 scaled usr s2) (fun v => out 32 v)
      ∧ from_ 8 3 (.ldXrfDImm d s1 imm) (.ldXrfD d s1 scaled usr s2) (fun v => out 64 v)
      ∧ from_ 16 4 (.ldXrfXImm d s1 imm) (.ldXrfX d s1 scaled usr s2) (fun v => out 80 (v / 2 ^ 48))

/-- Stores of general registers in the plain setting, every size, index form and option: the low bytes of r[D], or the
even pair, at the aligned effective address in the order of PSR.BO; every other byte and register as before (R610;
20_memory.md R172). The memory is canonical, as every memory the machine makes is (Legal). -/
def Obligations.GeneralRegisterStores : Prop :=
  ∀ (s : State) (d s1 s2 : RegNum) (scaled usr wt : Bool) (imm : BitVec 16),
    (usr = true → psrMode s = true) → Memory.wf s.mem = true →
    let puts := fun (n k v : Nat) (iImm iReg : Instr) => ∀ a : Word, PlainData s a →
      (alignAddr s n (eaImm s s1 imm) = some a → Does iImm s (Stores a n v s))
        ∧ (alignAddr s n (eaReg s s1 s2 scaled k) = some a → Does iReg s (Stores a n v s))
    puts 1 0 (readReg s d).toNat (.stBImm d s1 imm) (.stB d s1 scaled usr wt s2)
      ∧ puts 2 1 (readReg s d).toNat (.stHImm d s1 imm) (.stH d s1 scaled usr wt s2)
      ∧ puts 4 2 (readReg s d).toNat (.stImm d s1 imm) (.st d s1 scaled usr wt s2)
      ∧ (d.toNat % 2 = 0 → puts 8 3 (pairValue s d) (.stDImm d s1 imm) (.stD d s1 scaled usr wt s2))

/-- Stores of extended registers in the plain setting: the top 32 or 64 bits, or all 80 with 48 zeros below, a quad word
which PSR.BO 1 reverses as one operand of sixteen bytes (R607; 20_memory.md R176, 92_eei_decisions.md D25). The model's
choices in it: entry 19. -/
def Obligations.ExtendedRegisterStores : Prop :=
  ∀ (s : State) (d s1 s2 : RegNum) (scaled usr wt : Bool) (imm : BitVec 16),
    (usr = true → psrMode s = true) → Memory.wf s.mem = true →
    let x := (readX s d).toNat
    let puts := fun (n k v : Nat) (iImm iReg : Instr) => ∀ a : Word, PlainData s a → (n = 16 → PlainData s (a + 8#32)) →
      (alignAddr s n (eaImm s s1 imm) = some a → Does iImm s (Stores a n v s))
        ∧ (alignAddr s n (eaReg s s1 s2 scaled k) = some a → Does iReg s (Stores a n v s))
    puts 4 2 (x / 2 ^ 48) (.stXrfImm d s1 imm) (.stXrf d s1 scaled usr wt s2)
      ∧ puts 8 3 (x / 2 ^ 16) (.stXrfDImm d s1 imm) (.stXrfD d s1 scaled usr wt s2)
      ∧ puts 16 4 (x * 2 ^ 48) (.stXrfXImm d s1 imm) (.stXrfX d s1 scaled usr wt s2)

/-- xmem and xmem.bu in the plain setting: memory receives r[D], r[D] the old operand of memory zero extended; with
DCTL.XMEM 1 and no latch on the board, r[D] receives what was just stored (R630, 93_implementation_defined.md P22).
The model's choices in it: entries 5, 9, 30. -/
def Obligations.ExchangeRegisterWithMemory : Prop :=
  ∀ (s : State) (d s1 s2 : RegNum) (scaled usr : Bool), (usr = true → psrMode s = true) → Memory.wf s.mem = true →
    let goes := fun (n k : Nat) (i : Instr) => ∀ (a : Word) (old : Nat), PlainData s a → HeldAt s a n old →
      alignAddr s n (eaReg s s1 s2 scaled k) = some a →
      let new := (readReg s d).toNat
      let got := if ctlXmem s.dmu.ctl = true ∧ s.env.xmemLatch = false then new % 256 ^ n else old
      Does i s fun t =>
        (∀ r, readReg t r = if r = d ∧ d ≠ 0#5 then BitVec.ofNat 32 got else readReg s r)
          ∧ (∀ j, j < n → (readByte t (a + BitVec.ofNat 32 j)).toNat = new / 256 ^ bytePlace s n j % 256)
          ∧ (∀ b : Word, n ≤ (b - a).toNat → readByte t b = readByte s b)
          ∧ t = { s with
              gpr := t.gpr, mem := t.mem, busLog := t.busLog, xip := s.nip, nip := s.nip + 4#32, ds := false }
    goes 1 0 (.xmemBu d s1 scaled usr s2) ∧ goes 4 2 (.xmem d s1 scaled usr s2)

/-- The touch load (ld.b of r0) and the allocate load (ld.h of r0) never take an exception, in any state of the caches,
the translation and the bus (.usr in user mode apart): the next instruction follows, no register of any kind is written,
and, with nothing from outside, a byte of memory changes only where a modified line of the data cache covers it; of the
control registers only the port words of the data PATC may change, which a PATC miss preloads (R620, R622;
12_cache_mmu_state.md R104). The model's choices in it: entries 20, 36, 51, 62. -/
def Obligations.TouchAndAllocateLoadsNeverTrap : Prop :=
  ∀ (s : State) (s1 s2 : RegNum) (scaled usr : Bool) (imm : BitVec 16), (usr = true → psrMode s = true) →
    let quiet := fun t : State => t.gpr = s.gpr ∧ t.xrf = s.xrf ∧ SameControl s t ∧ t.psr = s.psr ∧ t.fpsr = s.fpsr
      ∧ t.fpcr = s.fpcr ∧ t.xip = s.nip ∧ t.nip = s.nip + 4#32 ∧ t.ds = false ∧ t.lastExc = s.lastExc
      ∧ (Memory.wf s.mem = true → s.script = Script.idle → ∀ b : Word,
        (∀ way, (dLine s b way).state = .exclusiveModified → (dLine s b way).tag ≠ b.extractLsb' 12 20) →
        readByte t b = readByte s b)
    Does (.ldBImm 0#5 s1 imm) s quiet ∧ Does (.ldB 0#5 s1 scaled usr s2) s quiet
      ∧ Does (.ldHImm 0#5 s1 imm) s quiet ∧ Does (.ldH 0#5 s1 scaled usr s2) s quiet

/-- The flush load (ld of r0), nothing coming from outside: with the data cache disabled it does nothing; with it
enabled, in identity translation and memory alone on the bus, it copies the modified line that holds the address back to
memory and leaves it unmodified (R621, 22_caches.md R323). The model's choices in it: entries 5, 18. -/
def Obligations.FlushLoadCopiesTheLineBack : Prop :=
  ∀ (s : State) (s1 s2 : RegNum) (scaled usr : Bool) (imm : BitVec 16) (a : Word),
    (usr = true → psrMode s = true) → Memory.wf s.mem = true →
    let both := fun P : State → Prop =>
      (alignAddr s 4 (eaImm s s1 imm) = some a → Does (.ldImm 0#5 s1 imm) s P)
        ∧ (alignAddr s 4 (eaReg s s1 s2 scaled 2) = some a → Does (.ld 0#5 s1 scaled usr s2) s P)
    (PlainData s a → both (FallsThrough s))
      ∧ (∀ way, ctlMen s.dmu.ctl = false → ctlBpen0 s.dmu.ctl = false → ctlBpen1 s.dmu.ctl = false →
        ctlCen s.dmu.ctl = true → s.env.dbug = false → s.env.regions = [] → s.script = Script.idle →
        dHit s a = some way → (dLine s a way).state = .exclusiveModified →
        both fun t => SameRegisters s t ∧ (dLine t a way).state = .exclusiveUnmodified
          ∧ (dLine t a way).data = (dLine s a way).data
          ∧ (∀ j : Fin 32, readByte t ((a &&& 0xFFFFFFE0#32) + BitVec.ofNat 32 j.val) = (dLine s a way).data[j])
          ∧ (∀ b : Word, 32 ≤ (b - (a &&& 0xFFFFFFE0#32)).toNat → readByte t b = readByte s b)
          ∧ t = { s with
              mem := t.mem, dcache := t.dcache, busLog := t.busLog, xip := s.nip, nip := s.nip + 4#32, ds := false })

/-- The checks before a memory access, in their order (R602): .usr in user mode is a privilege violation (R604); an odd
pair of ld.d or st.d an unimplemented opcode; a misaligned address with PSR.MXM 0 the misaligned access exception of
every access but the allocate load (R180, R730, 92_eei_decisions.md D26, D28). The model's choices in it: entries 6, 12,
20, 21. -/
def Obligations.MemoryInstructionChecks : Prop :=
  ∀ (s : State) (d s1 s2 : RegNum) (scaled usr wt : Bool) (imm : BitVec 16),
    let violation := usr = true ∧ psrMode s = false
    let even := d.toNat % 2 = 0
    let privilege := fun i : Instr => violation → Does i s (Enters 6#9 s)
    let odd := fun (c : Prop) (i : Instr) => c → ¬ even → Does i s (Enters 5#9 s)
    let misImm := fun (n : Nat) (i : Instr) => alignAddr s n (eaImm s s1 imm) = none → Does i s (Enters 4#9 s)
    let misReg := fun (n k : Nat) (i : Instr) => ¬ violation → alignAddr s n (eaReg s s1 s2 scaled k) = none →
      Does i s (Enters 4#9 s)
    (privilege (.ldB d s1 scaled usr s2) ∧ privilege (.ldBu d s1 scaled usr s2) ∧ privilege (.ldH d s1 scaled usr s2)
        ∧ privilege (.ldHu d s1 scaled usr s2) ∧ privilege (.ld d s1 scaled usr s2) ∧ privilege (.ldD d s1 scaled usr s2)
        ∧ privilege (.ldXrf d s1 scaled usr s2) ∧ privilege (.ldXrfD d s1 scaled usr s2)
        ∧ privilege (.ldXrfX d s1 scaled usr s2) ∧ privilege (.stB d s1 scaled usr wt s2)
        ∧ privilege (.stH d s1 scaled usr wt s2) ∧ privilege (.st d s1 scaled usr wt s2)
        ∧ privilege (.stD d s1 scaled usr wt s2) ∧ privilege (.stXrf d s1 scaled usr wt s2)
        ∧ privilege (.stXrfD d s1 scaled usr wt s2) ∧ privilege (.stXrfX d s1 scaled usr wt s2)
        ∧ privilege (.xmemBu d s1 scaled usr s2) ∧ privilege (.xmem d s1 scaled usr s2))
      ∧ (odd True (.ldDImm d s1 imm) ∧ odd True (.stDImm d s1 imm) ∧ odd (¬ violation) (.ldD d s1 scaled usr s2)
        ∧ odd (¬ violation) (.stD d s1 scaled usr wt s2))
      ∧ (misImm 2 (.ldHuImm d s1 imm) ∧ (d ≠ 0#5 → misImm 2 (.ldHImm d s1 imm)) ∧ misImm 4 (.ldImm d s1 imm)
        ∧ (even → misImm 8 (.ldDImm d s1 imm)) ∧ misImm 4 (.ldXrfImm d s1 imm) ∧ misImm 8 (.ldXrfDImm d s1 imm)
        ∧ misImm 16 (.ldXrfXImm d s1 imm) ∧ misImm 2 (.stHImm d s1 imm) ∧ misImm 4 (.stImm d s1 imm)
        ∧ (even → misImm 8 (.stDImm d s1 imm)) ∧ misImm 4 (.stXrfImm d s1 imm) ∧ misImm 8 (.stXrfDImm d s1 imm)
        ∧ misImm 16 (.stXrfXImm d s1 imm))
      ∧ (misReg 2 1 (.ldHu d s1 scaled usr s2) ∧ (d ≠ 0#5 → misReg 2 1 (.ldH d s1 scaled usr s2))
        ∧ misReg 4 2 (.ld d s1 scaled usr s2) ∧ (even → misReg 8 3 (.ldD d s1 scaled usr s2))
        ∧ misReg 4 2 (.ldXrf d s1 scaled usr s2) ∧ misReg 8 3 (.ldXrfD d s1 scaled usr s2)
        ∧ misReg 16 4 (.ldXrfX d s1 scaled usr s2) ∧ misReg 2 1 (.stH d s1 scaled usr wt s2)
        ∧ misReg 4 2 (.st d s1 scaled usr wt s2) ∧ (even → misReg 8 3 (.stD d s1 scaled usr wt s2))
        ∧ misReg 4 2 (.stXrf d s1 scaled usr wt s2) ∧ misReg 8 3 (.stXrfD d s1 scaled usr wt s2)
        ∧ misReg 16 4 (.stXrfX d s1 scaled usr wt s2) ∧ misReg 4 2 (.xmem d s1 scaled usr s2))

/-! ### Caches, translation, breakpoints -/

/-- The data cache serves the accesses of a space, undisturbed: it is enabled, the data MMU and the breakpoints are not,
the area pointer of the space does not inhibit it, and nothing comes from outside during the instruction. -/
structure Sys2Proof.Machine.CachedData (s : State) (su : Bool) : Prop where
  mmu : ctlMen s.dmu.ctl = false
  cache : ctlCen s.dmu.ctl = true
  dbug : s.env.dbug = false
  bp0 : ctlBpen0 s.dmu.ctl = false
  bp1 : ctlBpen1 s.dmu.ctl = false
  inhibit : (areaOf s.dmu su).getLsbD 6 = false
  idle : s.script = Script.idle

/-- The byte at offset j of the line that holds the address a. -/
def Sys2Proof.Machine.lineByte (s : State) (a : Word) (way : Bool) (j : Nat) : Byte :=
  (dLine s a way).data.toList.getD j 0#8

/-- A store of n bytes of v that hits line way: the bytes of the line become the operand's; under write-through the
line's state stays and memory receives the operand too, under write-back the line is exclusive-modified and memory stays;
every other line and byte is as before. Only a write-through store and the announcement of a shared line of a global page
use the bus: under write-back the log grows by the one invalidate transaction given, or not at all. -/
structure Sys2Proof.Machine.StoresInLine (a : Word) (way through : Bool) (announced : Option BusTxn) (n v : Nat)
    (s t : State) : Prop where
  state : (dLine t a way).state = if through then (dLine s a way).state else .exclusiveModified
  tag : (dLine t a way).tag = (dLine s a way).tag
  bytes : ∀ j, j < 32 → (lineByte t a way j).toNat =
    if a.toNat % 32 ≤ j ∧ j < a.toNat % 32 + n then v / 256 ^ bytePlace s n (j - a.toNat % 32) % 256
    else (lineByte s a way j).toNat
  lines : ∀ b w, lineIndex b w ≠ lineIndex a way → dLine t b w = dLine s b w
  stored : through = true → ∀ k, k < n → (readByte t (a + BitVec.ofNat 32 k)).toNat = v / 256 ^ bytePlace s n k % 256
  others : ∀ b : Word, through = false ∨ n ≤ (b - a).toNat → readByte t b = readByte s b
  bus : through = false → t.busLog = announced.toList ++ s.busLog
  frame : t = { s with
    dcache := t.dcache, mem := t.mem, busLog := t.busLog, xip := s.nip, nip := s.nip + 4#32, ds := false }

/-- The invalidate transaction that announces a store of n bytes to line way at the address a (80_bus_platform.md R881,
R886): of a quad word the first double word announces the line. -/
def Sys2Proof.Machine.announcement (a : Word) (su : Bool) (n : Nat) (way : Bool) : BusTxn :=
  { addr := a, read := false, lk := false, ci := false, wt := false, upa := 0#2, tbst := false,
    tsiz := if n = 1 then 3#2 else if n = 2 then 2#2 else if n = 4 then 1#2 else 0#2,
    tc := if su then 5#4 else 1#4, inv := true, mc := false, gbl := true, cline := some way, error := false, data := [] }

/-- The line that a miss at the address a replaces is line way of its set: of two banks that are not frozen an invalid
line, the first before the second, else the one the bias bit names; else the one of the bank that is not frozen
(22_caches.md R296, R297). -/
def Sys2Proof.Machine.Replaces (s : State) (a : Word) (way : Bool) : Prop :=
  (ctlFrz0 s.dmu.ctl = false ∧ ctlFrz1 s.dmu.ctl = false
      ∧ way = (if (dLine s a false).state = .invalid then false
        else if (dLine s a true).state = .invalid then true else s.dbias))
    ∨ (ctlFrz0 s.dmu.ctl = true ∧ ctlFrz1 s.dmu.ctl = false ∧ way = true)
    ∨ (ctlFrz0 s.dmu.ctl = false ∧ ctlFrz1 s.dmu.ctl = true ∧ way = false)

/-- The data cache and the bus after a miss at the address a has filled line way, for a load or with intent for a store:
the line has the tag of a, the state and the bytes given, every other line is as before, the bias bit is inverted; a
modified line that it replaces has been copied back by a burst write, every other byte of memory reads as before, and a
burst read has followed. -/
structure Sys2Proof.Machine.FillsLine (a : Word) (way intent : Bool) (st : LineState) (byte : Nat → Nat) (s t : State) :
    Prop where
  state : (dLine t a way).state = st
  tag : (dLine t a way).tag = a.extractLsb' 12 20
  bytes : ∀ j, j < 32 → (lineByte t a way j).toNat = byte j
  lines : ∀ b w, lineIndex b w ≠ lineIndex a way → dLine t b w = dLine s b w
  bias : t.dbias = !s.dbias
  saved : (dLine s a way).state = .exclusiveModified → ∀ j : Fin 32,
    readByte t ((dLine s a way).tag ++ a.extractLsb' 5 7 ++ BitVec.ofNat 5 j.val) = (dLine s a way).data[j]
  others : ∀ b : Word,
    ((dLine s a way).state = .exclusiveModified → b.extractLsb' 5 27 ≠ (dLine s a way).tag ++ a.extractLsb' 5 7) →
      readByte t b = readByte s b
  bus : ∃ fill, fill.addr = a ∧ fill.read = true ∧ fill.tbst = true ∧ fill.inv = intent ∧ fill.cline = some way
    ∧ fill.error = false
    ∧ if (dLine s a way).state = .exclusiveModified then
        ∃ save, t.busLog = fill :: save :: s.busLog ∧ save.read = false ∧ save.tbst = true ∧ save.cline = some way
          ∧ save.error = false ∧ save.data = (dLine s a way).data.toList
      else t.busLog = fill :: s.busLog

/-- Accesses that the data cache serves, every size, index form and option, where memory alone answers on the bus. On a
hit, a load takes its bytes from the line without a bus transaction; a store under the write-back policy writes the line,
makes it exclusive-modified and leaves memory alone, a shared line of a global page being announced on the bus by an
invalidate transaction; a store under write-through (the area's WT, .wt, or DCTL.FWT) writes line and memory and leaves
the line's state. On a miss, the line to be replaced is copied back if it is modified; a load fills it from memory by a
burst read, exclusive-unmodified, or shared where the board ties SHD asserted; a store under write-back fills it by a read
with intent to modify, merges its bytes and makes it exclusive-modified; a store under write-through goes to memory only
(22_caches.md R296, R301, R302, R304, R306 to R309; 80_bus_platform.md R881, R886). The model's choices in it: entries 5,
9, 14, 17, 18, 19, 28. -/
def Obligations.CacheHitsAndMisses : Prop :=
  ∀ (s : State) (d s1 s2 : RegNum) (scaled usr wt : Bool) (imm : BitVec 16) (a : Word) (way : Bool),
    (usr = true → psrMode s = true) →
    let su := psrMode s && !usr
    let through := fun space opt : Bool => (areaOf s.dmu space).getLsbD 9 || opt || ctlFwt s.dmu.ctl
    let announced := fun (space : Bool) (n : Nat) =>
      if (areaOf s.dmu space).getLsbD 7 = true ∧ (dLine s a way).state = .sharedUnmodified then
        some (announcement a space n way) else none
    let next := fun t : State => { t with xip := s.nip, nip := s.nip + 4#32, ds := false }
    let missed := dHit s a = none ∧ Replaces s a way ∧ Memory.wf s.mem = true ∧ s.env.regions = []
    let read := if s.env.shd = some true then LineState.sharedUnmodified else .exclusiveUnmodified
    let fetched := fun j : Nat => (readByte s ((a &&& 0xFFFFFFE0#32) + BitVec.ofNat 32 j)).toNat
    let merged := fun (n v j : Nat) =>
      if a.toNat % 32 ≤ j ∧ j < a.toNat % 32 + n then v / 256 ^ bytePlace s n (j - a.toNat % 32) % 256 else fetched j
    let from_ := fun (n k : Nat) (iImm iReg : Instr) (out : Nat → State → Prop) => ∀ v : Nat, v < 256 ^ n →
      let does := fun (i : Instr) (space : Bool) (ea : Word) => CachedData s space → alignAddr s n ea = some a →
        (dHit s a = some way →
            (∀ j, j < n → v / 256 ^ bytePlace s n j % 256 = (lineByte s a way (a.toNat % 32 + j)).toNat) →
            Does i s (out v))
          ∧ (missed → HeldAt s a n v →
            Does i s fun t => FillsLine a way false read fetched s t
              ∧ out v { t with dcache := s.dcache, dbias := s.dbias, mem := s.mem, busLog := s.busLog })
      does iImm (psrMode s) (eaImm s s1 imm) ∧ does iReg su (eaReg s s1 s2 scaled k)
    let outX := fun (w v : Nat) (t : State) => WritesX d w v s t ∧ SameRegisters s t ∧ SameMemory s t
      ∧ t = next { s with xrf := t.xrf, fpsr := t.fpsr, draws := t.draws }
    let into := fun (n k v : Nat) (iImm iReg : Instr) =>
      let does := fun (i : Instr) (space opt : Bool) (ea : Word) => CachedData s space → alignAddr s n ea = some a →
        Memory.wf s.mem = true → plainAt s a = true → (n = 16 → plainAt s (a + 8#32) = true) →
        (dHit s a = some way →
            Does i s (StoresInLine a way (through space opt) (announced space n) n v s))
          ∧ (missed → through space opt = false →
            Does i s fun t => FillsLine a way true .exclusiveModified (merged n v) s t
              ∧ t = next { s with dcache := t.dcache, dbias := t.dbias, mem := t.mem, busLog := t.busLog })
          ∧ (dHit s a = none → through space opt = true → Does i s (Stores a n v s))
      does iImm (psrMode s) false (eaImm s s1 imm) ∧ does iReg su wt (eaReg s s1 s2 scaled k)
    (d ≠ 0#5 → from_ 1 0 (.ldBImm d s1 imm) (.ldB d s1 scaled usr s2)
        fun v => Sets d ((BitVec.ofNat 8 v).signExtend 32) s)
      ∧ from_ 1 0 (.ldBuImm d s1 imm) (.ldBu d s1 scaled usr s2) (fun v => Sets d (BitVec.ofNat 32 v) s)
      ∧ (d ≠ 0#5 → from_ 2 1 (.ldHImm d s1 imm) (.ldH d s1 scaled usr s2)
        fun v => Sets d ((BitVec.ofNat 16 v).signExtend 32) s)
      ∧ from_ 2 1 (.ldHuImm d s1 imm) (.ldHu d s1 scaled usr s2) (fun v => Sets d (BitVec.ofNat 32 v) s)
      ∧ (d ≠ 0#5 → from_ 4 2 (.ldImm d s1 imm) (.ld d s1 scaled usr s2) fun v => Sets d (BitVec.ofNat 32 v) s)
      ∧ (d.toNat % 2 = 0 → from_ 8 3 (.ldDImm d s1 imm) (.ldD d s1 scaled usr s2)
        fun v => SetsPair d (BitVec.ofNat 32 (v / 4294967296)) (BitVec.ofNat 32 v) s)
      ∧ from_ 4 2 (.ldXrfImm d s1 imm) (.ldXrf d s1 scaled usr s2) (fun v => outX 32 v)
      ∧ from_ 8 3 (.ldXrfDImm d s1 imm) (.ldXrfD d s1 scaled usr s2) (fun v => outX 64 v)
      ∧ from_ 16 4 (.ldXrfXImm d s1 imm) (.ldXrfX d s1 scaled usr s2) (fun v => outX 80 (v / 2 ^ 48))
      ∧ into 1 0 (readReg s d).toNat (.stBImm d s1 imm) (.stB d s1 scaled usr wt s2)
      ∧ into 2 1 (readReg s d).toNat (.stHImm d s1 imm) (.stH d s1 scaled usr wt s2)
      ∧ into 4 2 (readReg s d).toNat (.stImm d s1 imm) (.st d s1 scaled usr wt s2)
      ∧ (d.toNat % 2 = 0 → into 8 3 (pairValue s d) (.stDImm d s1 imm) (.stD d s1 scaled usr wt s2))
      ∧ into 4 2 ((readX s d).toNat / 2 ^ 48) (.stXrfImm d s1 imm) (.stXrf d s1 scaled usr wt s2)
      ∧ into 8 3 ((readX s d).toNat / 2 ^ 16) (.stXrfDImm d s1 imm) (.stXrfD d s1 scaled usr wt s2)
      ∧ into 16 4 ((readX s d).toNat * 2 ^ 48) (.stXrfXImm d s1 imm) (.stXrfX d s1 scaled usr wt s2)

/-- The choice of the translation (21_mmu.md R223 to R228, R240 to R243): identity with the MMU disabled, or enabled
without a block hit and without page translation; the block of the one descriptor that hits, else the page of the one
descriptor that hits; a write to a protected one faults; a page miss under software table search is the miss fault. The
model's choices in it: entries 5, 17. -/
def Obligations.TranslationModes : Prop :=
  ∀ (side : Side) (su write : Bool) (la : Word) (k : Nat) (s : State),
    let m := mmuOf side s
    let on := s.env.dbug = false ∧ ctlMen m.ctl = true ∧ k ≤ 7 ∧ (ctlMask m.ctl).toNat = 2 ^ k - 1
    let block := fun e : BatcEntry => e.port.getLsbD 0 = true ∧ e.port.getLsbD 5 = su
      ∧ e.port.toNat / 2 ^ (19 + k) = la.toNat / 2 ^ (19 + k)
    let page := fun e : PatcEntry => e.lower.getLsbD 0 = true ∧ e.upper.getLsbD 6 = su
      ∧ e.upper.toNat / 4096 = la.toNat / 4096
    let isIdentity := fun r : MRes Xlate => ∃ x, r = .ok x s ∧ x.pa = la ∧ x.attr.wp = false
      ∧ x.attr.ci = (areaOf m su).getLsbD 6 ∧ x.attr.wt = (areaOf m su).getLsbD 9 ∧ x.attr.g = (areaOf m su).getLsbD 7
    let protected_ := fun r : MRes Xlate => ∃ f, r = .fail f s ∧ f.exc = .dataAccess ∧ f.bits = 0x00020000#32
    (s.env.dbug = true ∨ ctlMen m.ctl = false → isIdentity (translate side su write la s))
      ∧ (on → (∀ i : Fin 8, ¬ block m.batc[i]) → areaTe (areaOf m su) = false → isIdentity (translate side su write la s))
      ∧ (on → ∀ j : Fin 8, (∀ i : Fin 8, block m.batc[i] ↔ i = j) →
        if write = true ∧ m.batc[j].port.getLsbD 1 = true then protected_ (translate side su write la s)
        else ∃ x, translate side su write la s = .ok x s
          ∧ x.pa.toNat / 2 ^ (19 + k) = m.batc[j].port.toNat / 64 % 8192 / 2 ^ k
          ∧ x.pa.toNat % 2 ^ (19 + k) = la.toNat % 2 ^ (19 + k)
          ∧ x.attr = ⟨m.batc[j].port.getLsbD 4, m.batc[j].port.getLsbD 3, m.batc[j].port.getLsbD 2,
              m.batc[j].port.getLsbD 1, m.batc[j].user⟩)
      ∧ (on → (∀ i : Fin 8, ¬ block m.batc[i]) → areaTe (areaOf m su) = true →
        (∀ j : Fin 32, (∀ i : Fin 32, page m.patc[i] ↔ i = j) →
          if write = true ∧ m.patc[j].lower.getLsbD 2 = true then protected_ (translate side su write la s)
          else ∃ x, translate side su write la s = .ok x s
            ∧ x.pa = m.patc[j].lower.extractLsb' 12 20 ++ la.extractLsb' 0 12
            ∧ x.attr.wp = m.patc[j].lower.getLsbD 2 ∧ x.attr.ci = m.patc[j].lower.getLsbD 6
            ∧ x.attr.g = m.patc[j].lower.getLsbD 7 ∧ x.attr.wt = m.patc[j].lower.getLsbD 9)
          ∧ ((∀ i : Fin 32, ¬ page m.patc[i]) → ctlHten m.ctl = false →
            ∃ f, translate side su write la s = .fail f s ∧ f.bits = 0#32
              ∧ f.exc = (match side with
                | .instr => .immuMiss
                | .data => if write then .dmmuWriteMiss else .dmmuReadMiss)))

/-- A hardware table search through a valid segment descriptor and a valid page descriptor, both in plain memory, open to
the access, and nothing from outside during the search: the page's address is the answer, and the entry that the FIFO
pointer names holds the page (21_mmu.md R250). The model's choices in it: entries 5, 17. -/
def Obligations.TableSearchLoadsThePage : Prop :=
  ∀ (side : Side) (su write : Bool) (la : Word) (s : State),
    let m := mmuOf side s
    let sda := (areaOf m su).extractLsb' 12 20 ++ la.extractLsb' 22 10 ++ 0#2
    let sd := readWordBE s sda
    let pda := sd.extractLsb' 12 20 ++ la.extractLsb' 12 10 ++ 0#2
    let pd := readWordBE s pda
    plainAt s sda = true → plainAt s pda = true → s.script = Script.idle → sd.getLsbD 0 = true →
    pd.extractLsb' 0 2 = 1#2 →
    (su = false → sd.getLsbD 8 = false ∧ pd.getLsbD 8 = false) →
    ∃ e t, tableSearch side su write la s = .ok e t
      ∧ e.upper.extractLsb' 12 20 = la.extractLsb' 12 20 ∧ e.upper.getLsbD 6 = su
      ∧ e.lower.extractLsb' 12 20 = pd.extractLsb' 12 20 ∧ e.lower.getLsbD 0 = true
      ∧ (∀ i, i ∈ [9, 7, 6] → e.lower.getLsbD i = ((areaOf m su).getLsbD i || sd.getLsbD i || pd.getLsbD i))
      ∧ e.lower.getLsbD 2 = (sd.getLsbD 2 || pd.getLsbD 2)
      ∧ (∀ j : Fin 32, (mmuOf side t).patc[j] = if j = m.fifo then e else m.patc[j])
      ∧ (mmuOf side t).fifo = m.fifo + 1 ∧ SameMemory s t

/-- An armed data breakpoint, either of the two, whose control bits and address match an access stops it before anything
else: every load, store and exchange, with the address and the space of the access; the data access exception is entered
with DSR.BPE, its S/U and R/W bits and DLAR written, unless PSR.EFRZ freezes them, when the error exception is entered
(21_mmu.md R260, R261; 60_exceptions.md R746, R750). xmem (45_load_store.md R630) is compared and recorded as a write.
The touch load and the allocate load are not in it. The model's choices in it: entries 5, 6, 12, 15, 17, and 54 for xmem.
-/
def Obligations.BreakpointStopsTheAccess : Prop :=
  ∀ (s : State) (d s1 s2 : RegNum) (scaled usr wt : Bool) (imm : BitVec 16),
    s.env.dbug = false → (usr = true → psrMode s = true) →
    let matches_ := fun (b : Breakpoint) (su write : Bool) (la : Word) =>
      (b.control.getLsbD 14 = true ∨ b.control.getLsbD 15 = su)
        ∧ (b.control.getLsbD 12 = true ∨ b.control.getLsbD 13 = !write)
        ∧ ∀ j, j < 32 → (j < 12 ∧ b.control.getLsbD j = true) ∨ la.getLsbD j = b.lba.getLsbD j
    let stops := fun (write su : Bool) (n : Nat) (ea : Word) (i : Instr) => ∀ la : Word, alignAddr s n ea = some la →
      (ctlBpen0 s.dmu.ctl = true ∧ matches_ s.bp0 su write la) ∨ (ctlBpen1 s.dmu.ctl = true ∧ matches_ s.bp1 su write la) →
      Does i s fun t =>
        if psrEfrz s then Enters 3#9 s t
        else ∃ m : Mmu, Enters 3#9 { s with dmu := m, draws := t.draws } t
          ∧ m = { s.dmu with status := m.status, lar := la, par := m.par }
          ∧ ∀ j, j < 32 → m.status.getLsbD j =
              if j = 16 then true else if j = 7 then su else if j = 6 then !write else s.dmu.status.getLsbD j
    let both := fun (write : Bool) (n k : Nat) (iImm iReg : Instr) =>
      stops write (psrMode s) n (eaImm s s1 imm) iImm
        ∧ stops write (psrMode s && !usr) n (eaReg s s1 s2 scaled k) iReg
    (d ≠ 0#5 → both false 1 0 (.ldBImm d s1 imm) (.ldB d s1 scaled usr s2)
        ∧ both false 2 1 (.ldHImm d s1 imm) (.ldH d s1 scaled usr s2))
      ∧ both false 1 0 (.ldBuImm d s1 imm) (.ldBu d s1 scaled usr s2)
      ∧ both false 2 1 (.ldHuImm d s1 imm) (.ldHu d s1 scaled usr s2)
      ∧ both false 4 2 (.ldImm d s1 imm) (.ld d s1 scaled usr s2)
      ∧ (d.toNat % 2 = 0 → both false 8 3 (.ldDImm d s1 imm) (.ldD d s1 scaled usr s2)
        ∧ both true 8 3 (.stDImm d s1 imm) (.stD d s1 scaled usr wt s2))
      ∧ both false 4 2 (.ldXrfImm d s1 imm) (.ldXrf d s1 scaled usr s2)
      ∧ both false 8 3 (.ldXrfDImm d s1 imm) (.ldXrfD d s1 scaled usr s2)
      ∧ both false 16 4 (.ldXrfXImm d s1 imm) (.ldXrfX d s1 scaled usr s2)
      ∧ both true 1 0 (.stBImm d s1 imm) (.stB d s1 scaled usr wt s2)
      ∧ both true 2 1 (.stHImm d s1 imm) (.stH d s1 scaled usr wt s2)
      ∧ both true 4 2 (.stImm d s1 imm) (.st d s1 scaled usr wt s2)
      ∧ both true 4 2 (.stXrfImm d s1 imm) (.stXrf d s1 scaled usr wt s2)
      ∧ both true 8 3 (.stXrfDImm d s1 imm) (.stXrfD d s1 scaled usr wt s2)
      ∧ both true 16 4 (.stXrfXImm d s1 imm) (.stXrfX d s1 scaled usr wt s2)
      ∧ stops true (psrMode s && !usr) 1 (eaReg s s1 s2 scaled 0) (.xmemBu d s1 scaled usr s2)
      ∧ stops true (psrMode s && !usr) 4 (eaReg s s1 s2 scaled 2) (.xmem d s1 scaled usr s2)

/-! ### Exceptions, interrupts, reset (60_exceptions.md, 70_reset_and_hazards.md) -/

/-- Taking an exception with PSR.EFRZ 0: EXIP and D, ENIP in a delay slot, EPSR, the five bits of PSR, the handler's
address, and nothing else (R720). With PSR.EFRZ 1: the error exception, which keeps EXIP, ENIP and EPSR; a memory fault
then records nothing at all, no status and address register and no preload of a port (R750, R770). Loads behind it that
had been granted access write no register and change nothing but the data cache, the data PATC and what the bus writes,
and the memory stays canonical; with PSR.SRM 1 there are none (R712, R713; 20_memory.md R192). The model's choices in it:
entries 6, 12, 38. -/
def Obligations.ExceptionEntrySavesTheContext : Prop :=
  ∀ (e : Exc) (s : State),
    (psrEfrz s = false → Enters (vectorOf e) s (takeException e s))
      ∧ (psrEfrz s = true → Enters 10#9 s (takeException e s)
        ∧ ∀ (side : Side) (su : Bool) (la : Word) (f : MemFault), recordFault side su la f s = s)
      ∧ ∀ (n : Nat) (t : State),
        let u := waivedLoads n s t
        u = { t with
            dcache := u.dcache, dbias := u.dbias, mem := u.mem, busLog := u.busLog, script := u.script, draws := u.draws,
            halted := u.halted, snoopFault := u.snoopFault,
            dmu := { t.dmu with patc := u.dmu.patc, fifo := u.dmu.fifo } }
          ∧ (Memory.wf t.mem = true → t.halted = none → Memory.wf u.mem = true)
          ∧ (s.script.waived = [] → u = t) ∧ (s.psr.getLsbD 25 = true → u = { t with script := u.script })

/-- A pending interrupt is taken at the step's boundary, NMI before INT, unless the instruction raises a data access
exception; NMI waits while PSR.EFRZ is 1 and its latch is cleared when it is taken, INT waits while PSR.IND is 1; loads
behind the interrupt may have read, none unless the script says so (R706, R713, R740 to R742). The model's choices in it:
entries 6, 12, 26, 38. -/
def Obligations.InterruptsAreTakenBetweenInstructions : Prop :=
  ∀ s : State, s.inputs = [] → s.snoopFault = none → s.stuck = false →
    tookDataAccess (runInstruction { s with lastExc := none }) = false →
    let nmi := s.nmiPending = true ∧ psrEfrz s = false
    let int := s.intPin = true ∧ psrInd s = false
    let b := { s with lastExc := none }
    let goes := fun t : State => step s = endStep b (.next (waivedLoads 12 b t))
      ∧ (s.script.waived = [] → s.halted = none → step s = .next t)
    (nmi → ∃ t, goes t ∧ Enters 11#9 { s with nmiPending := false } t)
      ∧ (int → ¬ nmi → ∃ t, goes t ∧ Enters 1#9 s t)
      ∧ (¬ int → ¬ nmi → step s = endStep b (runInstruction b))

/-- The state after reset, and after RST is asserted while the machine runs: execution at address zero, PSR 0xA20003FF,
VBR and the floating-point control registers zero, of ICTL and DCTL only HTEN outside the size mask, no pending NMI; a
running machine keeps its memory and cache arrays. RST during a bus transaction abandons it and resets the machine at the
end of that step, with memory and arrays as they were when it came, whatever the step goes on to compute; a transaction
that never ends leaves the machine waiting for RST instead (R800, 80_bus_platform.md R908, R910). The model's choices in
it: entries 2, 5, 49, 57. -/
def Obligations.ResetState : Prop :=
  let holds := fun t : State => t.xip = 0#32 ∧ t.nip = 4#32 ∧ t.ds = false ∧ t.psr = 0xA20003FF#32 ∧ t.vbr = 0#32
    ∧ t.fpecr = 0#32 ∧ t.fpcr = 0#32 ∧ t.fpsr = 0#32 ∧ t.nmiPending = false ∧ t.stuck = false ∧ t.prefetched = []
    ∧ ∀ i, i < 32 → ¬ (16 ≤ i ∧ i ≤ 22) → t.imu.ctl.getLsbD i = decide (i = 6) ∧ t.dmu.ctl.getLsbD i = decide (i = 6)
  let kept := fun s t : State => t.mem = s.mem ∧ t.icache = s.icache ∧ t.dcache = s.dcache ∧ t.tic = s.tic
  holds State.reset
    ∧ (∀ (s : State) (rest : List (List Input)), s.inputs = [.reset] :: rest →
      let t := (boundary s).2
      holds t ∧ kept s t ∧ (boundary s).1 = false ∧ t.inputs = rest ∧ t.halted = none)
    ∧ ∀ (c : Cut) (x : BusTxn) (s b u : State), s.halted = none → u.halted = (abandon c x s).halted →
      ∃ t, endStep b (.next u) = .next t ∧ kept s t ∧ t.inputs = b.inputs ∧ t.halted = none
        ∧ (if c.reset then holds t else t.stuck = true ∧ t.gpr = b.gpr ∧ t.psr = b.psr ∧ t.xip = b.xip)

/-! ### The whole machine -/

/-- The state after reset is legal. The model's choices in it: entries 1, 5. -/
def Obligations.ResetIsLegal : Prop := Legal State.reset

/-- Every step, whatever arrives from outside and whatever runs, keeps a legal state legal: fixed bits of registers,
aligned instruction pointers, NIP after XIP outside a delay slot, canonical memory. The model's choices in it: entries
5, 6, 11, 12. -/
def Obligations.StepKeepsLegal : Prop :=
  ∀ s t : State, Legal s → step s = .next t → Legal t

/-- An instruction of user mode changes no register that only privileged software may write, unless it takes an
exception (10_state.md R64, R32), and user mode is left only by entering one: the instruction that leaves it goes to a
vector's address with MODE, IND and EFRZ set and both special function units disabled (60_exceptions.md R720). The
model's choices in it: entries 5, 12. -/
def Obligations.UserModeIsIsolated : Prop :=
  ∀ (i : Instr) (s t : State), psrMode s = false → exec i s = .next t →
    (s.lastExc = none → t.lastExc = none → SameControl s t ∧ psrMode t = false)
      ∧ (psrMode t = true →
        (∃ n : BitVec 9, t.xip = s.vbr.extractLsb' 12 20 ++ n ++ 0#3) ∧ t.nip = t.xip + 4#32 ∧ t.ds = false
          ∧ psrInd t = true ∧ psrEfrz t = true ∧ psrSfd1 t = true ∧ psrSfd2 t = true)

/-- Only the carry-out forms of add, addu, sub and subu, rte, and stcr and xcr change PSR.C; an exception does not
either (41_integer_arith.md R440). -/
def Obligations.CarryChangesOnlyWhereStated : Prop :=
  ∀ (i : Instr) (s t : State), exec i s = .next t → psrCarry t ≠ psrCarry s →
    (∃ d s1 ci s2, i = .addReg d s1 ci true s2 ∨ i = .adduReg d s1 ci true s2 ∨ i = .subReg d s1 ci true s2
        ∨ i = .subuReg d s1 ci true s2)
      ∨ i = .rte ∨ (∃ s1, i = .stcr s1 1#6 s1) ∨ ∃ d s1, i = .xcr d s1 1#6 s1
end

