-- ==== Sys2Proof/Laws/State.lean ====
section
/-!
SUPPORT. One lemma per field per update of the state: no later proof unfolds a record update. The fields an update
computes by a rule of its own have their lemmas in Laws/Ops.lean.
-/

namespace Sys2Proof.Machine

/-! ### advance -/

@[simp] theorem advance_gpr (s : State) : (advance s).gpr = s.gpr := rfl
@[simp] theorem advance_xrf (s : State) : (advance s).xrf = s.xrf := rfl
@[simp] theorem advance_xip (s : State) : (advance s).xip = s.nip := rfl
@[simp] theorem advance_nip (s : State) : (advance s).nip = s.nip + 4#32 := rfl
@[simp] theorem advance_ds (s : State) : (advance s).ds = false := rfl
@[simp] theorem advance_psr (s : State) : (advance s).psr = s.psr := rfl
@[simp] theorem advance_epsr (s : State) : (advance s).epsr = s.epsr := rfl
@[simp] theorem advance_exip (s : State) : (advance s).exip = s.exip := rfl
@[simp] theorem advance_enip (s : State) : (advance s).enip = s.enip := rfl
@[simp] theorem advance_vbr (s : State) : (advance s).vbr = s.vbr := rfl
@[simp] theorem advance_sr0 (s : State) : (advance s).sr0 = s.sr0 := rfl
@[simp] theorem advance_sr1 (s : State) : (advance s).sr1 = s.sr1 := rfl
@[simp] theorem advance_sr2 (s : State) : (advance s).sr2 = s.sr2 := rfl
@[simp] theorem advance_sr3 (s : State) : (advance s).sr3 = s.sr3 := rfl
@[simp] theorem advance_sr4 (s : State) : (advance s).sr4 = s.sr4 := rfl
@[simp] theorem advance_fpecr (s : State) : (advance s).fpecr = s.fpecr := rfl
@[simp] theorem advance_fpsr (s : State) : (advance s).fpsr = s.fpsr := rfl
@[simp] theorem advance_fpcr (s : State) : (advance s).fpcr = s.fpcr := rfl
@[simp] theorem advance_imu (s : State) : (advance s).imu = s.imu := rfl
@[simp] theorem advance_dmu (s : State) : (advance s).dmu = s.dmu := rfl
@[simp] theorem advance_bp0 (s : State) : (advance s).bp0 = s.bp0 := rfl
@[simp] theorem advance_bp1 (s : State) : (advance s).bp1 = s.bp1 := rfl
@[simp] theorem advance_icache (s : State) : (advance s).icache = s.icache := rfl
@[simp] theorem advance_dcache (s : State) : (advance s).dcache = s.dcache := rfl
@[simp] theorem advance_ibias (s : State) : (advance s).ibias = s.ibias := rfl
@[simp] theorem advance_dbias (s : State) : (advance s).dbias = s.dbias := rfl
@[simp] theorem advance_tic (s : State) : (advance s).tic = s.tic := rfl
@[simp] theorem advance_ticFifo (s : State) : (advance s).ticFifo = s.ticFifo := rfl
@[simp] theorem advance_ticSupply (s : State) : (advance s).ticSupply = s.ticSupply := rfl
@[simp] theorem advance_ticFill (s : State) : (advance s).ticFill = s.ticFill := rfl
@[simp] theorem advance_prefetched (s : State) : (advance s).prefetched = s.prefetched := rfl
@[simp] theorem advance_intPin (s : State) : (advance s).intPin = s.intPin := rfl
@[simp] theorem advance_nmiPin (s : State) : (advance s).nmiPin = s.nmiPin := rfl
@[simp] theorem advance_nmiPending (s : State) : (advance s).nmiPending = s.nmiPending := rfl
@[simp] theorem advance_modeWindow (s : State) : (advance s).modeWindow = s.modeWindow := rfl
@[simp] theorem advance_stuck (s : State) : (advance s).stuck = s.stuck := rfl
@[simp] theorem advance_mem (s : State) : (advance s).mem = s.mem := rfl
@[simp] theorem advance_env (s : State) : (advance s).env = s.env := rfl
@[simp] theorem advance_draws (s : State) : (advance s).draws = s.draws := rfl
@[simp] theorem advance_lastExc (s : State) : (advance s).lastExc = s.lastExc := rfl
@[simp] theorem advance_busLog (s : State) : (advance s).busLog = s.busLog := rfl
@[simp] theorem advance_inputs (s : State) : (advance s).inputs = s.inputs := rfl
@[simp] theorem advance_script (s : State) : (advance s).script = s.script := rfl
@[simp] theorem advance_halted (s : State) : (advance s).halted = s.halted := rfl
@[simp] theorem advance_snoopFault (s : State) : (advance s).snoopFault = s.snoopFault := rfl

/-! ### branchNotTaken -/

@[simp] theorem branchNotTaken_gpr (s : State) (n : Bool) : (branchNotTaken s n).gpr = s.gpr := rfl
@[simp] theorem branchNotTaken_xrf (s : State) (n : Bool) : (branchNotTaken s n).xrf = s.xrf := rfl
@[simp] theorem branchNotTaken_xip (s : State) (n : Bool) : (branchNotTaken s n).xip = s.nip := rfl
@[simp] theorem branchNotTaken_nip (s : State) (n : Bool) : (branchNotTaken s n).nip = s.nip + 4#32 := rfl
@[simp] theorem branchNotTaken_ds (s : State) (n : Bool) : (branchNotTaken s n).ds = n := rfl
@[simp] theorem branchNotTaken_psr (s : State) (n : Bool) : (branchNotTaken s n).psr = s.psr := rfl
@[simp] theorem branchNotTaken_epsr (s : State) (n : Bool) : (branchNotTaken s n).epsr = s.epsr := rfl
@[simp] theorem branchNotTaken_exip (s : State) (n : Bool) : (branchNotTaken s n).exip = s.exip := rfl
@[simp] theorem branchNotTaken_enip (s : State) (n : Bool) : (branchNotTaken s n).enip = s.enip := rfl
@[simp] theorem branchNotTaken_vbr (s : State) (n : Bool) : (branchNotTaken s n).vbr = s.vbr := rfl
@[simp] theorem branchNotTaken_sr0 (s : State) (n : Bool) : (branchNotTaken s n).sr0 = s.sr0 := rfl
@[simp] theorem branchNotTaken_sr1 (s : State) (n : Bool) : (branchNotTaken s n).sr1 = s.sr1 := rfl
@[simp] theorem branchNotTaken_sr2 (s : State) (n : Bool) : (branchNotTaken s n).sr2 = s.sr2 := rfl
@[simp] theorem branchNotTaken_sr3 (s : State) (n : Bool) : (branchNotTaken s n).sr3 = s.sr3 := rfl
@[simp] theorem branchNotTaken_sr4 (s : State) (n : Bool) : (branchNotTaken s n).sr4 = s.sr4 := rfl
@[simp] theorem branchNotTaken_fpecr (s : State) (n : Bool) : (branchNotTaken s n).fpecr = s.fpecr := rfl
@[simp] theorem branchNotTaken_fpsr (s : State) (n : Bool) : (branchNotTaken s n).fpsr = s.fpsr := rfl
@[simp] theorem branchNotTaken_fpcr (s : State) (n : Bool) : (branchNotTaken s n).fpcr = s.fpcr := rfl
@[simp] theorem branchNotTaken_imu (s : State) (n : Bool) : (branchNotTaken s n).imu = s.imu := rfl
@[simp] theorem branchNotTaken_dmu (s : State) (n : Bool) : (branchNotTaken s n).dmu = s.dmu := rfl
@[simp] theorem branchNotTaken_bp0 (s : State) (n : Bool) : (branchNotTaken s n).bp0 = s.bp0 := rfl
@[simp] theorem branchNotTaken_bp1 (s : State) (n : Bool) : (branchNotTaken s n).bp1 = s.bp1 := rfl
@[simp] theorem branchNotTaken_icache (s : State) (n : Bool) : (branchNotTaken s n).icache = s.icache := rfl
@[simp] theorem branchNotTaken_dcache (s : State) (n : Bool) : (branchNotTaken s n).dcache = s.dcache := rfl
@[simp] theorem branchNotTaken_ibias (s : State) (n : Bool) : (branchNotTaken s n).ibias = s.ibias := rfl
@[simp] theorem branchNotTaken_dbias (s : State) (n : Bool) : (branchNotTaken s n).dbias = s.dbias := rfl
@[simp] theorem branchNotTaken_tic (s : State) (n : Bool) : (branchNotTaken s n).tic = s.tic := rfl
@[simp] theorem branchNotTaken_ticFifo (s : State) (n : Bool) : (branchNotTaken s n).ticFifo = s.ticFifo := rfl
@[simp] theorem branchNotTaken_ticSupply (s : State) (n : Bool) : (branchNotTaken s n).ticSupply = s.ticSupply := rfl
@[simp] theorem branchNotTaken_ticFill (s : State) (n : Bool) : (branchNotTaken s n).ticFill = s.ticFill := rfl
@[simp] theorem branchNotTaken_prefetched (s : State) (n : Bool) : (branchNotTaken s n).prefetched = s.prefetched := rfl
@[simp] theorem branchNotTaken_intPin (s : State) (n : Bool) : (branchNotTaken s n).intPin = s.intPin := rfl
@[simp] theorem branchNotTaken_nmiPin (s : State) (n : Bool) : (branchNotTaken s n).nmiPin = s.nmiPin := rfl
@[simp] theorem branchNotTaken_nmiPending (s : State) (n : Bool) : (branchNotTaken s n).nmiPending = s.nmiPending := rfl
@[simp] theorem branchNotTaken_modeWindow (s : State) (n : Bool) : (branchNotTaken s n).modeWindow = s.modeWindow := rfl
@[simp] theorem branchNotTaken_stuck (s : State) (n : Bool) : (branchNotTaken s n).stuck = s.stuck := rfl
@[simp] theorem branchNotTaken_mem (s : State) (n : Bool) : (branchNotTaken s n).mem = s.mem := rfl
@[simp] theorem branchNotTaken_env (s : State) (n : Bool) : (branchNotTaken s n).env = s.env := rfl
@[simp] theorem branchNotTaken_draws (s : State) (n : Bool) : (branchNotTaken s n).draws = s.draws := rfl
@[simp] theorem branchNotTaken_lastExc (s : State) (n : Bool) : (branchNotTaken s n).lastExc = s.lastExc := rfl
@[simp] theorem branchNotTaken_busLog (s : State) (n : Bool) : (branchNotTaken s n).busLog = s.busLog := rfl
@[simp] theorem branchNotTaken_inputs (s : State) (n : Bool) : (branchNotTaken s n).inputs = s.inputs := rfl
@[simp] theorem branchNotTaken_script (s : State) (n : Bool) : (branchNotTaken s n).script = s.script := rfl
@[simp] theorem branchNotTaken_halted (s : State) (n : Bool) : (branchNotTaken s n).halted = s.halted := rfl
@[simp] theorem branchNotTaken_snoopFault (s : State) (n : Bool) : (branchNotTaken s n).snoopFault = s.snoopFault := rfl

/-! ### drawn -/

@[simp] theorem drawn_gpr (s : State) : (drawn s).gpr = s.gpr := rfl
@[simp] theorem drawn_xrf (s : State) : (drawn s).xrf = s.xrf := rfl
@[simp] theorem drawn_xip (s : State) : (drawn s).xip = s.xip := rfl
@[simp] theorem drawn_nip (s : State) : (drawn s).nip = s.nip := rfl
@[simp] theorem drawn_ds (s : State) : (drawn s).ds = s.ds := rfl
@[simp] theorem drawn_psr (s : State) : (drawn s).psr = s.psr := rfl
@[simp] theorem drawn_epsr (s : State) : (drawn s).epsr = s.epsr := rfl
@[simp] theorem drawn_exip (s : State) : (drawn s).exip = s.exip := rfl
@[simp] theorem drawn_enip (s : State) : (drawn s).enip = s.enip := rfl
@[simp] theorem drawn_vbr (s : State) : (drawn s).vbr = s.vbr := rfl
@[simp] theorem drawn_sr0 (s : State) : (drawn s).sr0 = s.sr0 := rfl
@[simp] theorem drawn_sr1 (s : State) : (drawn s).sr1 = s.sr1 := rfl
@[simp] theorem drawn_sr2 (s : State) : (drawn s).sr2 = s.sr2 := rfl
@[simp] theorem drawn_sr3 (s : State) : (drawn s).sr3 = s.sr3 := rfl
@[simp] theorem drawn_sr4 (s : State) : (drawn s).sr4 = s.sr4 := rfl
@[simp] theorem drawn_fpecr (s : State) : (drawn s).fpecr = s.fpecr := rfl
@[simp] theorem drawn_fpsr (s : State) : (drawn s).fpsr = s.fpsr := rfl
@[simp] theorem drawn_fpcr (s : State) : (drawn s).fpcr = s.fpcr := rfl
@[simp] theorem drawn_imu (s : State) : (drawn s).imu = s.imu := rfl
@[simp] theorem drawn_dmu (s : State) : (drawn s).dmu = s.dmu := rfl
@[simp] theorem drawn_bp0 (s : State) : (drawn s).bp0 = s.bp0 := rfl
@[simp] theorem drawn_bp1 (s : State) : (drawn s).bp1 = s.bp1 := rfl
@[simp] theorem drawn_icache (s : State) : (drawn s).icache = s.icache := rfl
@[simp] theorem drawn_dcache (s : State) : (drawn s).dcache = s.dcache := rfl
@[simp] theorem drawn_ibias (s : State) : (drawn s).ibias = s.ibias := rfl
@[simp] theorem drawn_dbias (s : State) : (drawn s).dbias = s.dbias := rfl
@[simp] theorem drawn_tic (s : State) : (drawn s).tic = s.tic := rfl
@[simp] theorem drawn_ticFifo (s : State) : (drawn s).ticFifo = s.ticFifo := rfl
@[simp] theorem drawn_ticSupply (s : State) : (drawn s).ticSupply = s.ticSupply := rfl
@[simp] theorem drawn_ticFill (s : State) : (drawn s).ticFill = s.ticFill := rfl
@[simp] theorem drawn_prefetched (s : State) : (drawn s).prefetched = s.prefetched := rfl
@[simp] theorem drawn_intPin (s : State) : (drawn s).intPin = s.intPin := rfl
@[simp] theorem drawn_nmiPin (s : State) : (drawn s).nmiPin = s.nmiPin := rfl
@[simp] theorem drawn_nmiPending (s : State) : (drawn s).nmiPending = s.nmiPending := rfl
@[simp] theorem drawn_modeWindow (s : State) : (drawn s).modeWindow = s.modeWindow := rfl
@[simp] theorem drawn_stuck (s : State) : (drawn s).stuck = s.stuck := rfl
@[simp] theorem drawn_mem (s : State) : (drawn s).mem = s.mem := rfl
@[simp] theorem drawn_env (s : State) : (drawn s).env = s.env := rfl
@[simp] theorem drawn_draws (s : State) : (drawn s).draws = s.draws + 1 := rfl
@[simp] theorem drawn_lastExc (s : State) : (drawn s).lastExc = s.lastExc := rfl
@[simp] theorem drawn_busLog (s : State) : (drawn s).busLog = s.busLog := rfl
@[simp] theorem drawn_inputs (s : State) : (drawn s).inputs = s.inputs := rfl
@[simp] theorem drawn_script (s : State) : (drawn s).script = s.script := rfl
@[simp] theorem drawn_halted (s : State) : (drawn s).halted = s.halted := rfl
@[simp] theorem drawn_snoopFault (s : State) : (drawn s).snoopFault = s.snoopFault := rfl

/-! ### setCarry -/

@[simp] theorem setCarry_gpr (s : State) (c : Bool) : (setCarry s c).gpr = s.gpr := rfl
@[simp] theorem setCarry_xrf (s : State) (c : Bool) : (setCarry s c).xrf = s.xrf := rfl
@[simp] theorem setCarry_xip (s : State) (c : Bool) : (setCarry s c).xip = s.xip := rfl
@[simp] theorem setCarry_nip (s : State) (c : Bool) : (setCarry s c).nip = s.nip := rfl
@[simp] theorem setCarry_ds (s : State) (c : Bool) : (setCarry s c).ds = s.ds := rfl
@[simp] theorem setCarry_epsr (s : State) (c : Bool) : (setCarry s c).epsr = s.epsr := rfl
@[simp] theorem setCarry_exip (s : State) (c : Bool) : (setCarry s c).exip = s.exip := rfl
@[simp] theorem setCarry_enip (s : State) (c : Bool) : (setCarry s c).enip = s.enip := rfl
@[simp] theorem setCarry_vbr (s : State) (c : Bool) : (setCarry s c).vbr = s.vbr := rfl
@[simp] theorem setCarry_sr0 (s : State) (c : Bool) : (setCarry s c).sr0 = s.sr0 := rfl
@[simp] theorem setCarry_sr1 (s : State) (c : Bool) : (setCarry s c).sr1 = s.sr1 := rfl
@[simp] theorem setCarry_sr2 (s : State) (c : Bool) : (setCarry s c).sr2 = s.sr2 := rfl
@[simp] theorem setCarry_sr3 (s : State) (c : Bool) : (setCarry s c).sr3 = s.sr3 := rfl
@[simp] theorem setCarry_sr4 (s : State) (c : Bool) : (setCarry s c).sr4 = s.sr4 := rfl
@[simp] theorem setCarry_fpecr (s : State) (c : Bool) : (setCarry s c).fpecr = s.fpecr := rfl
@[simp] theorem setCarry_fpsr (s : State) (c : Bool) : (setCarry s c).fpsr = s.fpsr := rfl
@[simp] theorem setCarry_fpcr (s : State) (c : Bool) : (setCarry s c).fpcr = s.fpcr := rfl
@[simp] theorem setCarry_imu (s : State) (c : Bool) : (setCarry s c).imu = s.imu := rfl
@[simp] theorem setCarry_dmu (s : State) (c : Bool) : (setCarry s c).dmu = s.dmu := rfl
@[simp] theorem setCarry_bp0 (s : State) (c : Bool) : (setCarry s c).bp0 = s.bp0 := rfl
@[simp] theorem setCarry_bp1 (s : State) (c : Bool) : (setCarry s c).bp1 = s.bp1 := rfl
@[simp] theorem setCarry_icache (s : State) (c : Bool) : (setCarry s c).icache = s.icache := rfl
@[simp] theorem setCarry_dcache (s : State) (c : Bool) : (setCarry s c).dcache = s.dcache := rfl
@[simp] theorem setCarry_ibias (s : State) (c : Bool) : (setCarry s c).ibias = s.ibias := rfl
@[simp] theorem setCarry_dbias (s : State) (c : Bool) : (setCarry s c).dbias = s.dbias := rfl
@[simp] theorem setCarry_tic (s : State) (c : Bool) : (setCarry s c).tic = s.tic := rfl
@[simp] theorem setCarry_ticFifo (s : State) (c : Bool) : (setCarry s c).ticFifo = s.ticFifo := rfl
@[simp] theorem setCarry_ticSupply (s : State) (c : Bool) : (setCarry s c).ticSupply = s.ticSupply := rfl
@[simp] theorem setCarry_ticFill (s : State) (c : Bool) : (setCarry s c).ticFill = s.ticFill := rfl
@[simp] theorem setCarry_prefetched (s : State) (c : Bool) : (setCarry s c).prefetched = s.prefetched := rfl
@[simp] theorem setCarry_intPin (s : State) (c : Bool) : (setCarry s c).intPin = s.intPin := rfl
@[simp] theorem setCarry_nmiPin (s : State) (c : Bool) : (setCarry s c).nmiPin = s.nmiPin := rfl
@[simp] theorem setCarry_nmiPending (s : State) (c : Bool) : (setCarry s c).nmiPending = s.nmiPending := rfl
@[simp] theorem setCarry_modeWindow (s : State) (c : Bool) : (setCarry s c).modeWindow = s.modeWindow := rfl
@[simp] theorem setCarry_stuck (s : State) (c : Bool) : (setCarry s c).stuck = s.stuck := rfl
@[simp] theorem setCarry_mem (s : State) (c : Bool) : (setCarry s c).mem = s.mem := rfl
@[simp] theorem setCarry_env (s : State) (c : Bool) : (setCarry s c).env = s.env := rfl
@[simp] theorem setCarry_draws (s : State) (c : Bool) : (setCarry s c).draws = s.draws := rfl
@[simp] theorem setCarry_lastExc (s : State) (c : Bool) : (setCarry s c).lastExc = s.lastExc := rfl
@[simp] theorem setCarry_busLog (s : State) (c : Bool) : (setCarry s c).busLog = s.busLog := rfl
@[simp] theorem setCarry_inputs (s : State) (c : Bool) : (setCarry s c).inputs = s.inputs := rfl
@[simp] theorem setCarry_script (s : State) (c : Bool) : (setCarry s c).script = s.script := rfl
@[simp] theorem setCarry_halted (s : State) (c : Bool) : (setCarry s c).halted = s.halted := rfl
@[simp] theorem setCarry_snoopFault (s : State) (c : Bool) : (setCarry s c).snoopFault = s.snoopFault := rfl

/-! ### takeException -/

@[simp] theorem takeException_gpr (e : Exc) (s : State) : (takeException e s).gpr = s.gpr := rfl
@[simp] theorem takeException_xrf (e : Exc) (s : State) : (takeException e s).xrf = s.xrf := rfl
@[simp] theorem takeException_ds (e : Exc) (s : State) : (takeException e s).ds = false := rfl
@[simp] theorem takeException_psr (e : Exc) (s : State) : (takeException e s).psr = s.psr ||| 0x8000001B#32 := rfl
@[simp] theorem takeException_vbr (e : Exc) (s : State) : (takeException e s).vbr = s.vbr := rfl
@[simp] theorem takeException_sr0 (e : Exc) (s : State) : (takeException e s).sr0 = s.sr0 := rfl
@[simp] theorem takeException_sr1 (e : Exc) (s : State) : (takeException e s).sr1 = s.sr1 := rfl
@[simp] theorem takeException_sr2 (e : Exc) (s : State) : (takeException e s).sr2 = s.sr2 := rfl
@[simp] theorem takeException_sr3 (e : Exc) (s : State) : (takeException e s).sr3 = s.sr3 := rfl
@[simp] theorem takeException_sr4 (e : Exc) (s : State) : (takeException e s).sr4 = s.sr4 := rfl
@[simp] theorem takeException_fpecr (e : Exc) (s : State) : (takeException e s).fpecr = s.fpecr := rfl
@[simp] theorem takeException_fpsr (e : Exc) (s : State) : (takeException e s).fpsr = s.fpsr := rfl
@[simp] theorem takeException_fpcr (e : Exc) (s : State) : (takeException e s).fpcr = s.fpcr := rfl
@[simp] theorem takeException_imu (e : Exc) (s : State) : (takeException e s).imu = s.imu := rfl
@[simp] theorem takeException_dmu (e : Exc) (s : State) : (takeException e s).dmu = s.dmu := rfl
@[simp] theorem takeException_bp0 (e : Exc) (s : State) : (takeException e s).bp0 = s.bp0 := rfl
@[simp] theorem takeException_bp1 (e : Exc) (s : State) : (takeException e s).bp1 = s.bp1 := rfl
@[simp] theorem takeException_icache (e : Exc) (s : State) : (takeException e s).icache = s.icache := rfl
@[simp] theorem takeException_dcache (e : Exc) (s : State) : (takeException e s).dcache = s.dcache := rfl
@[simp] theorem takeException_ibias (e : Exc) (s : State) : (takeException e s).ibias = s.ibias := rfl
@[simp] theorem takeException_dbias (e : Exc) (s : State) : (takeException e s).dbias = s.dbias := rfl
@[simp] theorem takeException_tic (e : Exc) (s : State) : (takeException e s).tic = s.tic := rfl
@[simp] theorem takeException_ticFifo (e : Exc) (s : State) : (takeException e s).ticFifo = s.ticFifo := rfl
@[simp] theorem takeException_ticSupply (e : Exc) (s : State) : (takeException e s).ticSupply = [] := rfl
@[simp] theorem takeException_ticFill (e : Exc) (s : State) : (takeException e s).ticFill = none := rfl
@[simp] theorem takeException_prefetched (e : Exc) (s : State) : (takeException e s).prefetched = [] := rfl
@[simp] theorem takeException_intPin (e : Exc) (s : State) : (takeException e s).intPin = s.intPin := rfl
@[simp] theorem takeException_nmiPin (e : Exc) (s : State) : (takeException e s).nmiPin = s.nmiPin := rfl
@[simp] theorem takeException_nmiPending (e : Exc) (s : State) : (takeException e s).nmiPending = s.nmiPending := rfl
@[simp] theorem takeException_modeWindow (e : Exc) (s : State) : (takeException e s).modeWindow = 0 := rfl
@[simp] theorem takeException_stuck (e : Exc) (s : State) : (takeException e s).stuck = s.stuck := rfl
@[simp] theorem takeException_mem (e : Exc) (s : State) : (takeException e s).mem = s.mem := rfl
@[simp] theorem takeException_env (e : Exc) (s : State) : (takeException e s).env = s.env := rfl
@[simp] theorem takeException_draws (e : Exc) (s : State) : (takeException e s).draws = s.draws := rfl
@[simp] theorem takeException_lastExc (e : Exc) (s : State) : (takeException e s).lastExc = some e := rfl
@[simp] theorem takeException_busLog (e : Exc) (s : State) : (takeException e s).busLog = s.busLog := rfl
@[simp] theorem takeException_inputs (e : Exc) (s : State) : (takeException e s).inputs = s.inputs := rfl
@[simp] theorem takeException_script (e : Exc) (s : State) : (takeException e s).script = s.script := rfl
@[simp] theorem takeException_halted (e : Exc) (s : State) : (takeException e s).halted = s.halted := rfl
@[simp] theorem takeException_snoopFault (e : Exc) (s : State) : (takeException e s).snoopFault = s.snoopFault := rfl

/-! ### returnFromException -/

@[simp] theorem returnFromException_gpr (s : State) : (returnFromException s).gpr = s.gpr := rfl
@[simp] theorem returnFromException_xrf (s : State) : (returnFromException s).xrf = s.xrf := rfl
@[simp] theorem returnFromException_xip (s : State) : (returnFromException s).xip = s.exip &&& 0xFFFFFFFC#32 := rfl
@[simp] theorem returnFromException_ds (s : State) : (returnFromException s).ds = exipD s := rfl
@[simp] theorem returnFromException_psr (s : State) : (returnFromException s).psr = psrLegal s.epsr := rfl
@[simp] theorem returnFromException_epsr (s : State) : (returnFromException s).epsr = s.epsr := rfl
@[simp] theorem returnFromException_exip (s : State) : (returnFromException s).exip = s.exip := rfl
@[simp] theorem returnFromException_enip (s : State) : (returnFromException s).enip = s.enip := rfl
@[simp] theorem returnFromException_vbr (s : State) : (returnFromException s).vbr = s.vbr := rfl
@[simp] theorem returnFromException_sr0 (s : State) : (returnFromException s).sr0 = s.sr0 := rfl
@[simp] theorem returnFromException_sr1 (s : State) : (returnFromException s).sr1 = s.sr1 := rfl
@[simp] theorem returnFromException_sr2 (s : State) : (returnFromException s).sr2 = s.sr2 := rfl
@[simp] theorem returnFromException_sr3 (s : State) : (returnFromException s).sr3 = s.sr3 := rfl
@[simp] theorem returnFromException_sr4 (s : State) : (returnFromException s).sr4 = s.sr4 := rfl
@[simp] theorem returnFromException_fpecr (s : State) : (returnFromException s).fpecr = s.fpecr := rfl
@[simp] theorem returnFromException_fpsr (s : State) : (returnFromException s).fpsr = s.fpsr := rfl
@[simp] theorem returnFromException_fpcr (s : State) : (returnFromException s).fpcr = s.fpcr := rfl
@[simp] theorem returnFromException_imu (s : State) : (returnFromException s).imu = s.imu := rfl
@[simp] theorem returnFromException_dmu (s : State) : (returnFromException s).dmu = s.dmu := rfl
@[simp] theorem returnFromException_bp0 (s : State) : (returnFromException s).bp0 = s.bp0 := rfl
@[simp] theorem returnFromException_bp1 (s : State) : (returnFromException s).bp1 = s.bp1 := rfl
@[simp] theorem returnFromException_icache (s : State) : (returnFromException s).icache = s.icache := rfl
@[simp] theorem returnFromException_dcache (s : State) : (returnFromException s).dcache = s.dcache := rfl
@[simp] theorem returnFromException_ibias (s : State) : (returnFromException s).ibias = s.ibias := rfl
@[simp] theorem returnFromException_dbias (s : State) : (returnFromException s).dbias = s.dbias := rfl
@[simp] theorem returnFromException_tic (s : State) : (returnFromException s).tic = s.tic := rfl
@[simp] theorem returnFromException_ticFifo (s : State) : (returnFromException s).ticFifo = s.ticFifo := rfl
@[simp] theorem returnFromException_ticSupply (s : State) : (returnFromException s).ticSupply = [] := rfl
@[simp] theorem returnFromException_ticFill (s : State) : (returnFromException s).ticFill = none := rfl
@[simp] theorem returnFromException_prefetched (s : State) : (returnFromException s).prefetched = [] := rfl
@[simp] theorem returnFromException_intPin (s : State) : (returnFromException s).intPin = s.intPin := rfl
@[simp] theorem returnFromException_nmiPin (s : State) : (returnFromException s).nmiPin = s.nmiPin := rfl
@[simp] theorem returnFromException_nmiPending (s : State) : (returnFromException s).nmiPending = s.nmiPending := rfl
@[simp] theorem returnFromException_modeWindow (s : State) : (returnFromException s).modeWindow = 0 := rfl
@[simp] theorem returnFromException_stuck (s : State) : (returnFromException s).stuck = s.stuck := rfl
@[simp] theorem returnFromException_mem (s : State) : (returnFromException s).mem = s.mem := rfl
@[simp] theorem returnFromException_env (s : State) : (returnFromException s).env = s.env := rfl
@[simp] theorem returnFromException_draws (s : State) : (returnFromException s).draws = s.draws := rfl
@[simp] theorem returnFromException_lastExc (s : State) : (returnFromException s).lastExc = s.lastExc := rfl
@[simp] theorem returnFromException_busLog (s : State) : (returnFromException s).busLog = s.busLog := rfl
@[simp] theorem returnFromException_inputs (s : State) : (returnFromException s).inputs = s.inputs := rfl
@[simp] theorem returnFromException_script (s : State) : (returnFromException s).script = s.script := rfl
@[simp] theorem returnFromException_halted (s : State) : (returnFromException s).halted = s.halted := rfl
@[simp] theorem returnFromException_snoopFault (s : State) : (returnFromException s).snoopFault = s.snoopFault := rfl

/-! ### setFpecr -/

@[simp] theorem setFpecr_gpr (s : State) (c : Word) : (setFpecr s c).gpr = s.gpr := rfl
@[simp] theorem setFpecr_xrf (s : State) (c : Word) : (setFpecr s c).xrf = s.xrf := rfl
@[simp] theorem setFpecr_xip (s : State) (c : Word) : (setFpecr s c).xip = s.xip := rfl
@[simp] theorem setFpecr_nip (s : State) (c : Word) : (setFpecr s c).nip = s.nip := rfl
@[simp] theorem setFpecr_ds (s : State) (c : Word) : (setFpecr s c).ds = s.ds := rfl
@[simp] theorem setFpecr_psr (s : State) (c : Word) : (setFpecr s c).psr = s.psr := rfl
@[simp] theorem setFpecr_epsr (s : State) (c : Word) : (setFpecr s c).epsr = s.epsr := rfl
@[simp] theorem setFpecr_exip (s : State) (c : Word) : (setFpecr s c).exip = s.exip := rfl
@[simp] theorem setFpecr_enip (s : State) (c : Word) : (setFpecr s c).enip = s.enip := rfl
@[simp] theorem setFpecr_vbr (s : State) (c : Word) : (setFpecr s c).vbr = s.vbr := rfl
@[simp] theorem setFpecr_sr0 (s : State) (c : Word) : (setFpecr s c).sr0 = s.sr0 := rfl
@[simp] theorem setFpecr_sr1 (s : State) (c : Word) : (setFpecr s c).sr1 = s.sr1 := rfl
@[simp] theorem setFpecr_sr2 (s : State) (c : Word) : (setFpecr s c).sr2 = s.sr2 := rfl
@[simp] theorem setFpecr_sr3 (s : State) (c : Word) : (setFpecr s c).sr3 = s.sr3 := rfl
@[simp] theorem setFpecr_sr4 (s : State) (c : Word) : (setFpecr s c).sr4 = s.sr4 := rfl
@[simp] theorem setFpecr_fpecr (s : State) (c : Word) : (setFpecr s c).fpecr = c &&& 0xFF#32 := rfl
@[simp] theorem setFpecr_fpsr (s : State) (c : Word) : (setFpecr s c).fpsr = s.fpsr := rfl
@[simp] theorem setFpecr_fpcr (s : State) (c : Word) : (setFpecr s c).fpcr = s.fpcr := rfl
@[simp] theorem setFpecr_imu (s : State) (c : Word) : (setFpecr s c).imu = s.imu := rfl
@[simp] theorem setFpecr_dmu (s : State) (c : Word) : (setFpecr s c).dmu = s.dmu := rfl
@[simp] theorem setFpecr_bp0 (s : State) (c : Word) : (setFpecr s c).bp0 = s.bp0 := rfl
@[simp] theorem setFpecr_bp1 (s : State) (c : Word) : (setFpecr s c).bp1 = s.bp1 := rfl
@[simp] theorem setFpecr_icache (s : State) (c : Word) : (setFpecr s c).icache = s.icache := rfl
@[simp] theorem setFpecr_dcache (s : State) (c : Word) : (setFpecr s c).dcache = s.dcache := rfl
@[simp] theorem setFpecr_ibias (s : State) (c : Word) : (setFpecr s c).ibias = s.ibias := rfl
@[simp] theorem setFpecr_dbias (s : State) (c : Word) : (setFpecr s c).dbias = s.dbias := rfl
@[simp] theorem setFpecr_tic (s : State) (c : Word) : (setFpecr s c).tic = s.tic := rfl
@[simp] theorem setFpecr_ticFifo (s : State) (c : Word) : (setFpecr s c).ticFifo = s.ticFifo := rfl
@[simp] theorem setFpecr_ticSupply (s : State) (c : Word) : (setFpecr s c).ticSupply = s.ticSupply := rfl
@[simp] theorem setFpecr_ticFill (s : State) (c : Word) : (setFpecr s c).ticFill = s.ticFill := rfl
@[simp] theorem setFpecr_prefetched (s : State) (c : Word) : (setFpecr s c).prefetched = s.prefetched := rfl
@[simp] theorem setFpecr_intPin (s : State) (c : Word) : (setFpecr s c).intPin = s.intPin := rfl
@[simp] theorem setFpecr_nmiPin (s : State) (c : Word) : (setFpecr s c).nmiPin = s.nmiPin := rfl
@[simp] theorem setFpecr_nmiPending (s : State) (c : Word) : (setFpecr s c).nmiPending = s.nmiPending := rfl
@[simp] theorem setFpecr_modeWindow (s : State) (c : Word) : (setFpecr s c).modeWindow = s.modeWindow := rfl
@[simp] theorem setFpecr_stuck (s : State) (c : Word) : (setFpecr s c).stuck = s.stuck := rfl
@[simp] theorem setFpecr_mem (s : State) (c : Word) : (setFpecr s c).mem = s.mem := rfl
@[simp] theorem setFpecr_env (s : State) (c : Word) : (setFpecr s c).env = s.env := rfl
@[simp] theorem setFpecr_draws (s : State) (c : Word) : (setFpecr s c).draws = s.draws := rfl
@[simp] theorem setFpecr_lastExc (s : State) (c : Word) : (setFpecr s c).lastExc = s.lastExc := rfl
@[simp] theorem setFpecr_busLog (s : State) (c : Word) : (setFpecr s c).busLog = s.busLog := rfl
@[simp] theorem setFpecr_inputs (s : State) (c : Word) : (setFpecr s c).inputs = s.inputs := rfl
@[simp] theorem setFpecr_script (s : State) (c : Word) : (setFpecr s c).script = s.script := rfl
@[simp] theorem setFpecr_halted (s : State) (c : Word) : (setFpecr s c).halted = s.halted := rfl
@[simp] theorem setFpecr_snoopFault (s : State) (c : Word) : (setFpecr s c).snoopFault = s.snoopFault := rfl

/-! ### setFunimp -/

@[simp] theorem setFunimp_gpr (s : State) : (setFunimp s).gpr = s.gpr := rfl
@[simp] theorem setFunimp_xrf (s : State) : (setFunimp s).xrf = s.xrf := rfl
@[simp] theorem setFunimp_xip (s : State) : (setFunimp s).xip = s.xip := rfl
@[simp] theorem setFunimp_nip (s : State) : (setFunimp s).nip = s.nip := rfl
@[simp] theorem setFunimp_ds (s : State) : (setFunimp s).ds = s.ds := rfl
@[simp] theorem setFunimp_psr (s : State) : (setFunimp s).psr = s.psr := rfl
@[simp] theorem setFunimp_epsr (s : State) : (setFunimp s).epsr = s.epsr := rfl
@[simp] theorem setFunimp_exip (s : State) : (setFunimp s).exip = s.exip := rfl
@[simp] theorem setFunimp_enip (s : State) : (setFunimp s).enip = s.enip := rfl
@[simp] theorem setFunimp_vbr (s : State) : (setFunimp s).vbr = s.vbr := rfl
@[simp] theorem setFunimp_sr0 (s : State) : (setFunimp s).sr0 = s.sr0 := rfl
@[simp] theorem setFunimp_sr1 (s : State) : (setFunimp s).sr1 = s.sr1 := rfl
@[simp] theorem setFunimp_sr2 (s : State) : (setFunimp s).sr2 = s.sr2 := rfl
@[simp] theorem setFunimp_sr3 (s : State) : (setFunimp s).sr3 = s.sr3 := rfl
@[simp] theorem setFunimp_sr4 (s : State) : (setFunimp s).sr4 = s.sr4 := rfl
@[simp] theorem setFunimp_fpsr (s : State) : (setFunimp s).fpsr = s.fpsr := rfl
@[simp] theorem setFunimp_fpcr (s : State) : (setFunimp s).fpcr = s.fpcr := rfl
@[simp] theorem setFunimp_imu (s : State) : (setFunimp s).imu = s.imu := rfl
@[simp] theorem setFunimp_dmu (s : State) : (setFunimp s).dmu = s.dmu := rfl
@[simp] theorem setFunimp_bp0 (s : State) : (setFunimp s).bp0 = s.bp0 := rfl
@[simp] theorem setFunimp_bp1 (s : State) : (setFunimp s).bp1 = s.bp1 := rfl
@[simp] theorem setFunimp_icache (s : State) : (setFunimp s).icache = s.icache := rfl
@[simp] theorem setFunimp_dcache (s : State) : (setFunimp s).dcache = s.dcache := rfl
@[simp] theorem setFunimp_ibias (s : State) : (setFunimp s).ibias = s.ibias := rfl
@[simp] theorem setFunimp_dbias (s : State) : (setFunimp s).dbias = s.dbias := rfl
@[simp] theorem setFunimp_tic (s : State) : (setFunimp s).tic = s.tic := rfl
@[simp] theorem setFunimp_ticFifo (s : State) : (setFunimp s).ticFifo = s.ticFifo := rfl
@[simp] theorem setFunimp_ticSupply (s : State) : (setFunimp s).ticSupply = s.ticSupply := rfl
@[simp] theorem setFunimp_ticFill (s : State) : (setFunimp s).ticFill = s.ticFill := rfl
@[simp] theorem setFunimp_prefetched (s : State) : (setFunimp s).prefetched = s.prefetched := rfl
@[simp] theorem setFunimp_intPin (s : State) : (setFunimp s).intPin = s.intPin := rfl
@[simp] theorem setFunimp_nmiPin (s : State) : (setFunimp s).nmiPin = s.nmiPin := rfl
@[simp] theorem setFunimp_nmiPending (s : State) : (setFunimp s).nmiPending = s.nmiPending := rfl
@[simp] theorem setFunimp_modeWindow (s : State) : (setFunimp s).modeWindow = s.modeWindow := rfl
@[simp] theorem setFunimp_stuck (s : State) : (setFunimp s).stuck = s.stuck := rfl
@[simp] theorem setFunimp_mem (s : State) : (setFunimp s).mem = s.mem := rfl
@[simp] theorem setFunimp_env (s : State) : (setFunimp s).env = s.env := rfl
@[simp] theorem setFunimp_draws (s : State) : (setFunimp s).draws = s.draws + 1 := rfl
@[simp] theorem setFunimp_lastExc (s : State) : (setFunimp s).lastExc = s.lastExc := rfl
@[simp] theorem setFunimp_busLog (s : State) : (setFunimp s).busLog = s.busLog := rfl
@[simp] theorem setFunimp_inputs (s : State) : (setFunimp s).inputs = s.inputs := rfl
@[simp] theorem setFunimp_script (s : State) : (setFunimp s).script = s.script := rfl
@[simp] theorem setFunimp_halted (s : State) : (setFunimp s).halted = s.halted := rfl
@[simp] theorem setFunimp_snoopFault (s : State) : (setFunimp s).snoopFault = s.snoopFault := rfl

/-! ### refetch -/

@[simp] theorem refetch_gpr (s : State) : (refetch s).gpr = s.gpr := rfl
@[simp] theorem refetch_xrf (s : State) : (refetch s).xrf = s.xrf := rfl
@[simp] theorem refetch_xip (s : State) : (refetch s).xip = s.xip := rfl
@[simp] theorem refetch_nip (s : State) : (refetch s).nip = s.nip := rfl
@[simp] theorem refetch_ds (s : State) : (refetch s).ds = s.ds := rfl
@[simp] theorem refetch_psr (s : State) : (refetch s).psr = s.psr := rfl
@[simp] theorem refetch_epsr (s : State) : (refetch s).epsr = s.epsr := rfl
@[simp] theorem refetch_exip (s : State) : (refetch s).exip = s.exip := rfl
@[simp] theorem refetch_enip (s : State) : (refetch s).enip = s.enip := rfl
@[simp] theorem refetch_vbr (s : State) : (refetch s).vbr = s.vbr := rfl
@[simp] theorem refetch_sr0 (s : State) : (refetch s).sr0 = s.sr0 := rfl
@[simp] theorem refetch_sr1 (s : State) : (refetch s).sr1 = s.sr1 := rfl
@[simp] theorem refetch_sr2 (s : State) : (refetch s).sr2 = s.sr2 := rfl
@[simp] theorem refetch_sr3 (s : State) : (refetch s).sr3 = s.sr3 := rfl
@[simp] theorem refetch_sr4 (s : State) : (refetch s).sr4 = s.sr4 := rfl
@[simp] theorem refetch_fpecr (s : State) : (refetch s).fpecr = s.fpecr := rfl
@[simp] theorem refetch_fpsr (s : State) : (refetch s).fpsr = s.fpsr := rfl
@[simp] theorem refetch_fpcr (s : State) : (refetch s).fpcr = s.fpcr := rfl
@[simp] theorem refetch_imu (s : State) : (refetch s).imu = s.imu := rfl
@[simp] theorem refetch_dmu (s : State) : (refetch s).dmu = s.dmu := rfl
@[simp] theorem refetch_bp0 (s : State) : (refetch s).bp0 = s.bp0 := rfl
@[simp] theorem refetch_bp1 (s : State) : (refetch s).bp1 = s.bp1 := rfl
@[simp] theorem refetch_icache (s : State) : (refetch s).icache = s.icache := rfl
@[simp] theorem refetch_dcache (s : State) : (refetch s).dcache = s.dcache := rfl
@[simp] theorem refetch_ibias (s : State) : (refetch s).ibias = s.ibias := rfl
@[simp] theorem refetch_dbias (s : State) : (refetch s).dbias = s.dbias := rfl
@[simp] theorem refetch_tic (s : State) : (refetch s).tic = s.tic := rfl
@[simp] theorem refetch_ticFifo (s : State) : (refetch s).ticFifo = s.ticFifo := rfl
@[simp] theorem refetch_ticSupply (s : State) : (refetch s).ticSupply = [] := rfl
@[simp] theorem refetch_ticFill (s : State) : (refetch s).ticFill = none := rfl
@[simp] theorem refetch_prefetched (s : State) : (refetch s).prefetched = s.prefetched := rfl
@[simp] theorem refetch_intPin (s : State) : (refetch s).intPin = s.intPin := rfl
@[simp] theorem refetch_nmiPin (s : State) : (refetch s).nmiPin = s.nmiPin := rfl
@[simp] theorem refetch_nmiPending (s : State) : (refetch s).nmiPending = s.nmiPending := rfl
@[simp] theorem refetch_modeWindow (s : State) : (refetch s).modeWindow = s.modeWindow := rfl
@[simp] theorem refetch_stuck (s : State) : (refetch s).stuck = s.stuck := rfl
@[simp] theorem refetch_mem (s : State) : (refetch s).mem = s.mem := rfl
@[simp] theorem refetch_env (s : State) : (refetch s).env = s.env := rfl
@[simp] theorem refetch_draws (s : State) : (refetch s).draws = s.draws := rfl
@[simp] theorem refetch_lastExc (s : State) : (refetch s).lastExc = s.lastExc := rfl
@[simp] theorem refetch_busLog (s : State) : (refetch s).busLog = s.busLog := rfl
@[simp] theorem refetch_inputs (s : State) : (refetch s).inputs = s.inputs := rfl
@[simp] theorem refetch_script (s : State) : (refetch s).script = s.script := rfl
@[simp] theorem refetch_halted (s : State) : (refetch s).halted = s.halted := rfl
@[simp] theorem refetch_snoopFault (s : State) : (refetch s).snoopFault = s.snoopFault := rfl

/-! ### countWindow -/

@[simp] theorem countWindow_gpr (s : State) : (countWindow s).gpr = s.gpr := rfl
@[simp] theorem countWindow_xrf (s : State) : (countWindow s).xrf = s.xrf := rfl
@[simp] theorem countWindow_xip (s : State) : (countWindow s).xip = s.xip := rfl
@[simp] theorem countWindow_nip (s : State) : (countWindow s).nip = s.nip := rfl
@[simp] theorem countWindow_ds (s : State) : (countWindow s).ds = s.ds := rfl
@[simp] theorem countWindow_psr (s : State) : (countWindow s).psr = s.psr := rfl
@[simp] theorem countWindow_epsr (s : State) : (countWindow s).epsr = s.epsr := rfl
@[simp] theorem countWindow_exip (s : State) : (countWindow s).exip = s.exip := rfl
@[simp] theorem countWindow_enip (s : State) : (countWindow s).enip = s.enip := rfl
@[simp] theorem countWindow_vbr (s : State) : (countWindow s).vbr = s.vbr := rfl
@[simp] theorem countWindow_sr0 (s : State) : (countWindow s).sr0 = s.sr0 := rfl
@[simp] theorem countWindow_sr1 (s : State) : (countWindow s).sr1 = s.sr1 := rfl
@[simp] theorem countWindow_sr2 (s : State) : (countWindow s).sr2 = s.sr2 := rfl
@[simp] theorem countWindow_sr3 (s : State) : (countWindow s).sr3 = s.sr3 := rfl
@[simp] theorem countWindow_sr4 (s : State) : (countWindow s).sr4 = s.sr4 := rfl
@[simp] theorem countWindow_fpecr (s : State) : (countWindow s).fpecr = s.fpecr := rfl
@[simp] theorem countWindow_fpsr (s : State) : (countWindow s).fpsr = s.fpsr := rfl
@[simp] theorem countWindow_fpcr (s : State) : (countWindow s).fpcr = s.fpcr := rfl
@[simp] theorem countWindow_imu (s : State) : (countWindow s).imu = s.imu := rfl
@[simp] theorem countWindow_dmu (s : State) : (countWindow s).dmu = s.dmu := rfl
@[simp] theorem countWindow_bp0 (s : State) : (countWindow s).bp0 = s.bp0 := rfl
@[simp] theorem countWindow_bp1 (s : State) : (countWindow s).bp1 = s.bp1 := rfl
@[simp] theorem countWindow_icache (s : State) : (countWindow s).icache = s.icache := rfl
@[simp] theorem countWindow_dcache (s : State) : (countWindow s).dcache = s.dcache := rfl
@[simp] theorem countWindow_ibias (s : State) : (countWindow s).ibias = s.ibias := rfl
@[simp] theorem countWindow_dbias (s : State) : (countWindow s).dbias = s.dbias := rfl
@[simp] theorem countWindow_tic (s : State) : (countWindow s).tic = s.tic := rfl
@[simp] theorem countWindow_ticFifo (s : State) : (countWindow s).ticFifo = s.ticFifo := rfl
@[simp] theorem countWindow_ticSupply (s : State) : (countWindow s).ticSupply = s.ticSupply := rfl
@[simp] theorem countWindow_ticFill (s : State) : (countWindow s).ticFill = s.ticFill := rfl
@[simp] theorem countWindow_prefetched (s : State) : (countWindow s).prefetched = s.prefetched := rfl
@[simp] theorem countWindow_intPin (s : State) : (countWindow s).intPin = s.intPin := rfl
@[simp] theorem countWindow_nmiPin (s : State) : (countWindow s).nmiPin = s.nmiPin := rfl
@[simp] theorem countWindow_nmiPending (s : State) : (countWindow s).nmiPending = s.nmiPending := rfl
@[simp] theorem countWindow_modeWindow (s : State) : (countWindow s).modeWindow = s.modeWindow - 1 := rfl
@[simp] theorem countWindow_stuck (s : State) : (countWindow s).stuck = s.stuck := rfl
@[simp] theorem countWindow_mem (s : State) : (countWindow s).mem = s.mem := rfl
@[simp] theorem countWindow_env (s : State) : (countWindow s).env = s.env := rfl
@[simp] theorem countWindow_draws (s : State) : (countWindow s).draws = s.draws := rfl
@[simp] theorem countWindow_lastExc (s : State) : (countWindow s).lastExc = s.lastExc := rfl
@[simp] theorem countWindow_busLog (s : State) : (countWindow s).busLog = s.busLog := rfl
@[simp] theorem countWindow_inputs (s : State) : (countWindow s).inputs = s.inputs := rfl
@[simp] theorem countWindow_script (s : State) : (countWindow s).script = s.script := rfl
@[simp] theorem countWindow_halted (s : State) : (countWindow s).halted = s.halted := rfl
@[simp] theorem countWindow_snoopFault (s : State) : (countWindow s).snoopFault = s.snoopFault := rfl

/-! ### abandon -/

@[simp] theorem abandon_gpr (c : Cut) (x : BusTxn) (s : State) : (abandon c x s).gpr = s.gpr := rfl
@[simp] theorem abandon_xrf (c : Cut) (x : BusTxn) (s : State) : (abandon c x s).xrf = s.xrf := rfl
@[simp] theorem abandon_xip (c : Cut) (x : BusTxn) (s : State) : (abandon c x s).xip = s.xip := rfl
@[simp] theorem abandon_nip (c : Cut) (x : BusTxn) (s : State) : (abandon c x s).nip = s.nip := rfl
@[simp] theorem abandon_ds (c : Cut) (x : BusTxn) (s : State) : (abandon c x s).ds = s.ds := rfl
@[simp] theorem abandon_psr (c : Cut) (x : BusTxn) (s : State) : (abandon c x s).psr = s.psr := rfl
@[simp] theorem abandon_epsr (c : Cut) (x : BusTxn) (s : State) : (abandon c x s).epsr = s.epsr := rfl
@[simp] theorem abandon_exip (c : Cut) (x : BusTxn) (s : State) : (abandon c x s).exip = s.exip := rfl
@[simp] theorem abandon_enip (c : Cut) (x : BusTxn) (s : State) : (abandon c x s).enip = s.enip := rfl
@[simp] theorem abandon_vbr (c : Cut) (x : BusTxn) (s : State) : (abandon c x s).vbr = s.vbr := rfl
@[simp] theorem abandon_sr0 (c : Cut) (x : BusTxn) (s : State) : (abandon c x s).sr0 = s.sr0 := rfl
@[simp] theorem abandon_sr1 (c : Cut) (x : BusTxn) (s : State) : (abandon c x s).sr1 = s.sr1 := rfl
@[simp] theorem abandon_sr2 (c : Cut) (x : BusTxn) (s : State) : (abandon c x s).sr2 = s.sr2 := rfl
@[simp] theorem abandon_sr3 (c : Cut) (x : BusTxn) (s : State) : (abandon c x s).sr3 = s.sr3 := rfl
@[simp] theorem abandon_sr4 (c : Cut) (x : BusTxn) (s : State) : (abandon c x s).sr4 = s.sr4 := rfl
@[simp] theorem abandon_fpecr (c : Cut) (x : BusTxn) (s : State) : (abandon c x s).fpecr = s.fpecr := rfl
@[simp] theorem abandon_fpsr (c : Cut) (x : BusTxn) (s : State) : (abandon c x s).fpsr = s.fpsr := rfl
@[simp] theorem abandon_fpcr (c : Cut) (x : BusTxn) (s : State) : (abandon c x s).fpcr = s.fpcr := rfl
@[simp] theorem abandon_imu (c : Cut) (x : BusTxn) (s : State) : (abandon c x s).imu = s.imu := rfl
@[simp] theorem abandon_dmu (c : Cut) (x : BusTxn) (s : State) : (abandon c x s).dmu = s.dmu := rfl
@[simp] theorem abandon_bp0 (c : Cut) (x : BusTxn) (s : State) : (abandon c x s).bp0 = s.bp0 := rfl
@[simp] theorem abandon_bp1 (c : Cut) (x : BusTxn) (s : State) : (abandon c x s).bp1 = s.bp1 := rfl
@[simp] theorem abandon_icache (c : Cut) (x : BusTxn) (s : State) : (abandon c x s).icache = s.icache := rfl
@[simp] theorem abandon_dcache (c : Cut) (x : BusTxn) (s : State) : (abandon c x s).dcache = s.dcache := rfl
@[simp] theorem abandon_ibias (c : Cut) (x : BusTxn) (s : State) : (abandon c x s).ibias = s.ibias := rfl
@[simp] theorem abandon_dbias (c : Cut) (x : BusTxn) (s : State) : (abandon c x s).dbias = s.dbias := rfl
@[simp] theorem abandon_tic (c : Cut) (x : BusTxn) (s : State) : (abandon c x s).tic = s.tic := rfl
@[simp] theorem abandon_ticFifo (c : Cut) (x : BusTxn) (s : State) : (abandon c x s).ticFifo = s.ticFifo := rfl
@[simp] theorem abandon_ticSupply (c : Cut) (x : BusTxn) (s : State) : (abandon c x s).ticSupply = s.ticSupply := rfl
@[simp] theorem abandon_ticFill (c : Cut) (x : BusTxn) (s : State) : (abandon c x s).ticFill = s.ticFill := rfl
@[simp] theorem abandon_prefetched (c : Cut) (x : BusTxn) (s : State) : (abandon c x s).prefetched = s.prefetched := rfl
@[simp] theorem abandon_intPin (c : Cut) (x : BusTxn) (s : State) : (abandon c x s).intPin = s.intPin := rfl
@[simp] theorem abandon_nmiPin (c : Cut) (x : BusTxn) (s : State) : (abandon c x s).nmiPin = s.nmiPin := rfl
@[simp] theorem abandon_nmiPending (c : Cut) (x : BusTxn) (s : State) : (abandon c x s).nmiPending = s.nmiPending := rfl
@[simp] theorem abandon_modeWindow (c : Cut) (x : BusTxn) (s : State) : (abandon c x s).modeWindow = s.modeWindow := rfl
@[simp] theorem abandon_stuck (c : Cut) (x : BusTxn) (s : State) : (abandon c x s).stuck = s.stuck := rfl
@[simp] theorem abandon_mem (c : Cut) (x : BusTxn) (s : State) : (abandon c x s).mem = s.mem := rfl
@[simp] theorem abandon_env (c : Cut) (x : BusTxn) (s : State) : (abandon c x s).env = s.env := rfl
@[simp] theorem abandon_draws (c : Cut) (x : BusTxn) (s : State) : (abandon c x s).draws = s.draws := rfl
@[simp] theorem abandon_lastExc (c : Cut) (x : BusTxn) (s : State) : (abandon c x s).lastExc = s.lastExc := rfl
@[simp] theorem abandon_busLog (c : Cut) (x : BusTxn) (s : State) : (abandon c x s).busLog = { x with error := true } :: s.busLog := rfl
@[simp] theorem abandon_inputs (c : Cut) (x : BusTxn) (s : State) : (abandon c x s).inputs = s.inputs := rfl
@[simp] theorem abandon_script (c : Cut) (x : BusTxn) (s : State) : (abandon c x s).script = s.script := rfl
@[simp] theorem abandon_snoopFault (c : Cut) (x : BusTxn) (s : State) : (abandon c x s).snoopFault = s.snoopFault := rfl

/-! ### issue -/

@[simp] theorem issue_gpr (i : Instr) (s : State) : (issue i s).gpr = s.gpr := by unfold issue; split <;> rfl
@[simp] theorem issue_xrf (i : Instr) (s : State) : (issue i s).xrf = s.xrf := by unfold issue; split <;> rfl
@[simp] theorem issue_xip (i : Instr) (s : State) : (issue i s).xip = s.xip := by unfold issue; split <;> rfl
@[simp] theorem issue_nip (i : Instr) (s : State) : (issue i s).nip = s.nip := by unfold issue; split <;> rfl
@[simp] theorem issue_ds (i : Instr) (s : State) : (issue i s).ds = s.ds := by unfold issue; split <;> rfl
@[simp] theorem issue_psr (i : Instr) (s : State) : (issue i s).psr = s.psr := by unfold issue; split <;> rfl
@[simp] theorem issue_epsr (i : Instr) (s : State) : (issue i s).epsr = s.epsr := by unfold issue; split <;> rfl
@[simp] theorem issue_exip (i : Instr) (s : State) : (issue i s).exip = s.exip := by unfold issue; split <;> rfl
@[simp] theorem issue_enip (i : Instr) (s : State) : (issue i s).enip = s.enip := by unfold issue; split <;> rfl
@[simp] theorem issue_vbr (i : Instr) (s : State) : (issue i s).vbr = s.vbr := by unfold issue; split <;> rfl
@[simp] theorem issue_sr0 (i : Instr) (s : State) : (issue i s).sr0 = s.sr0 := by unfold issue; split <;> rfl
@[simp] theorem issue_sr1 (i : Instr) (s : State) : (issue i s).sr1 = s.sr1 := by unfold issue; split <;> rfl
@[simp] theorem issue_sr2 (i : Instr) (s : State) : (issue i s).sr2 = s.sr2 := by unfold issue; split <;> rfl
@[simp] theorem issue_sr3 (i : Instr) (s : State) : (issue i s).sr3 = s.sr3 := by unfold issue; split <;> rfl
@[simp] theorem issue_sr4 (i : Instr) (s : State) : (issue i s).sr4 = s.sr4 := by unfold issue; split <;> rfl
@[simp] theorem issue_fpecr (i : Instr) (s : State) : (issue i s).fpecr = s.fpecr := by unfold issue; split <;> rfl
@[simp] theorem issue_fpsr (i : Instr) (s : State) : (issue i s).fpsr = s.fpsr := by unfold issue; split <;> rfl
@[simp] theorem issue_fpcr (i : Instr) (s : State) : (issue i s).fpcr = s.fpcr := by unfold issue; split <;> rfl
@[simp] theorem issue_imu (i : Instr) (s : State) : (issue i s).imu = s.imu := by unfold issue; split <;> rfl
@[simp] theorem issue_dmu (i : Instr) (s : State) : (issue i s).dmu = s.dmu := by unfold issue; split <;> rfl
@[simp] theorem issue_bp0 (i : Instr) (s : State) : (issue i s).bp0 = s.bp0 := by unfold issue; split <;> rfl
@[simp] theorem issue_bp1 (i : Instr) (s : State) : (issue i s).bp1 = s.bp1 := by unfold issue; split <;> rfl
@[simp] theorem issue_icache (i : Instr) (s : State) : (issue i s).icache = s.icache := by unfold issue; split <;> rfl
@[simp] theorem issue_dcache (i : Instr) (s : State) : (issue i s).dcache = s.dcache := by unfold issue; split <;> rfl
@[simp] theorem issue_ibias (i : Instr) (s : State) : (issue i s).ibias = s.ibias := by unfold issue; split <;> rfl
@[simp] theorem issue_dbias (i : Instr) (s : State) : (issue i s).dbias = s.dbias := by unfold issue; split <;> rfl
@[simp] theorem issue_tic (i : Instr) (s : State) : (issue i s).tic = s.tic := by unfold issue; split <;> rfl
@[simp] theorem issue_ticFifo (i : Instr) (s : State) : (issue i s).ticFifo = s.ticFifo := by unfold issue; split <;> rfl
@[simp] theorem issue_ticSupply (i : Instr) (s : State) : (issue i s).ticSupply = s.ticSupply := by unfold issue; split <;> rfl
@[simp] theorem issue_intPin (i : Instr) (s : State) : (issue i s).intPin = s.intPin := by unfold issue; split <;> rfl
@[simp] theorem issue_nmiPin (i : Instr) (s : State) : (issue i s).nmiPin = s.nmiPin := by unfold issue; split <;> rfl
@[simp] theorem issue_nmiPending (i : Instr) (s : State) : (issue i s).nmiPending = s.nmiPending := by unfold issue; split <;> rfl
@[simp] theorem issue_modeWindow (i : Instr) (s : State) : (issue i s).modeWindow = s.modeWindow := by unfold issue; split <;> rfl
@[simp] theorem issue_stuck (i : Instr) (s : State) : (issue i s).stuck = s.stuck := by unfold issue; split <;> rfl
@[simp] theorem issue_mem (i : Instr) (s : State) : (issue i s).mem = s.mem := by unfold issue; split <;> rfl
@[simp] theorem issue_env (i : Instr) (s : State) : (issue i s).env = s.env := by unfold issue; split <;> rfl
@[simp] theorem issue_draws (i : Instr) (s : State) : (issue i s).draws = s.draws := by unfold issue; split <;> rfl
@[simp] theorem issue_lastExc (i : Instr) (s : State) : (issue i s).lastExc = s.lastExc := by unfold issue; split <;> rfl
@[simp] theorem issue_busLog (i : Instr) (s : State) : (issue i s).busLog = s.busLog := by unfold issue; split <;> rfl
@[simp] theorem issue_inputs (i : Instr) (s : State) : (issue i s).inputs = s.inputs := by unfold issue; split <;> rfl
@[simp] theorem issue_script (i : Instr) (s : State) : (issue i s).script = s.script := by unfold issue; split <;> rfl
@[simp] theorem issue_halted (i : Instr) (s : State) : (issue i s).halted = s.halted := by unfold issue; split <;> rfl
@[simp] theorem issue_snoopFault (i : Instr) (s : State) : (issue i s).snoopFault = s.snoopFault := by unfold issue; split <;> rfl

/-! ### ticSkip -/

@[simp] theorem ticSkip_gpr (n : Bool) (s : State) : (ticSkip n s).gpr = s.gpr := rfl
@[simp] theorem ticSkip_xrf (n : Bool) (s : State) : (ticSkip n s).xrf = s.xrf := rfl
@[simp] theorem ticSkip_xip (n : Bool) (s : State) : (ticSkip n s).xip = s.xip := rfl
@[simp] theorem ticSkip_nip (n : Bool) (s : State) : (ticSkip n s).nip = s.nip := rfl
@[simp] theorem ticSkip_ds (n : Bool) (s : State) : (ticSkip n s).ds = s.ds := rfl
@[simp] theorem ticSkip_psr (n : Bool) (s : State) : (ticSkip n s).psr = s.psr := rfl
@[simp] theorem ticSkip_epsr (n : Bool) (s : State) : (ticSkip n s).epsr = s.epsr := rfl
@[simp] theorem ticSkip_exip (n : Bool) (s : State) : (ticSkip n s).exip = s.exip := rfl
@[simp] theorem ticSkip_enip (n : Bool) (s : State) : (ticSkip n s).enip = s.enip := rfl
@[simp] theorem ticSkip_vbr (n : Bool) (s : State) : (ticSkip n s).vbr = s.vbr := rfl
@[simp] theorem ticSkip_sr0 (n : Bool) (s : State) : (ticSkip n s).sr0 = s.sr0 := rfl
@[simp] theorem ticSkip_sr1 (n : Bool) (s : State) : (ticSkip n s).sr1 = s.sr1 := rfl
@[simp] theorem ticSkip_sr2 (n : Bool) (s : State) : (ticSkip n s).sr2 = s.sr2 := rfl
@[simp] theorem ticSkip_sr3 (n : Bool) (s : State) : (ticSkip n s).sr3 = s.sr3 := rfl
@[simp] theorem ticSkip_sr4 (n : Bool) (s : State) : (ticSkip n s).sr4 = s.sr4 := rfl
@[simp] theorem ticSkip_fpecr (n : Bool) (s : State) : (ticSkip n s).fpecr = s.fpecr := rfl
@[simp] theorem ticSkip_fpsr (n : Bool) (s : State) : (ticSkip n s).fpsr = s.fpsr := rfl
@[simp] theorem ticSkip_fpcr (n : Bool) (s : State) : (ticSkip n s).fpcr = s.fpcr := rfl
@[simp] theorem ticSkip_imu (n : Bool) (s : State) : (ticSkip n s).imu = s.imu := rfl
@[simp] theorem ticSkip_dmu (n : Bool) (s : State) : (ticSkip n s).dmu = s.dmu := rfl
@[simp] theorem ticSkip_bp0 (n : Bool) (s : State) : (ticSkip n s).bp0 = s.bp0 := rfl
@[simp] theorem ticSkip_bp1 (n : Bool) (s : State) : (ticSkip n s).bp1 = s.bp1 := rfl
@[simp] theorem ticSkip_icache (n : Bool) (s : State) : (ticSkip n s).icache = s.icache := rfl
@[simp] theorem ticSkip_dcache (n : Bool) (s : State) : (ticSkip n s).dcache = s.dcache := rfl
@[simp] theorem ticSkip_ibias (n : Bool) (s : State) : (ticSkip n s).ibias = s.ibias := rfl
@[simp] theorem ticSkip_dbias (n : Bool) (s : State) : (ticSkip n s).dbias = s.dbias := rfl
@[simp] theorem ticSkip_tic (n : Bool) (s : State) : (ticSkip n s).tic = s.tic := rfl
@[simp] theorem ticSkip_ticFifo (n : Bool) (s : State) : (ticSkip n s).ticFifo = s.ticFifo := rfl
@[simp] theorem ticSkip_ticSupply (n : Bool) (s : State) : (ticSkip n s).ticSupply = delaySupply s n := rfl
@[simp] theorem ticSkip_ticFill (n : Bool) (s : State) : (ticSkip n s).ticFill = none := rfl
@[simp] theorem ticSkip_prefetched (n : Bool) (s : State) : (ticSkip n s).prefetched = s.prefetched := rfl
@[simp] theorem ticSkip_intPin (n : Bool) (s : State) : (ticSkip n s).intPin = s.intPin := rfl
@[simp] theorem ticSkip_nmiPin (n : Bool) (s : State) : (ticSkip n s).nmiPin = s.nmiPin := rfl
@[simp] theorem ticSkip_nmiPending (n : Bool) (s : State) : (ticSkip n s).nmiPending = s.nmiPending := rfl
@[simp] theorem ticSkip_modeWindow (n : Bool) (s : State) : (ticSkip n s).modeWindow = s.modeWindow := rfl
@[simp] theorem ticSkip_stuck (n : Bool) (s : State) : (ticSkip n s).stuck = s.stuck := rfl
@[simp] theorem ticSkip_mem (n : Bool) (s : State) : (ticSkip n s).mem = s.mem := rfl
@[simp] theorem ticSkip_env (n : Bool) (s : State) : (ticSkip n s).env = s.env := rfl
@[simp] theorem ticSkip_draws (n : Bool) (s : State) : (ticSkip n s).draws = s.draws := rfl
@[simp] theorem ticSkip_lastExc (n : Bool) (s : State) : (ticSkip n s).lastExc = s.lastExc := rfl
@[simp] theorem ticSkip_busLog (n : Bool) (s : State) : (ticSkip n s).busLog = s.busLog := rfl
@[simp] theorem ticSkip_inputs (n : Bool) (s : State) : (ticSkip n s).inputs = s.inputs := rfl
@[simp] theorem ticSkip_script (n : Bool) (s : State) : (ticSkip n s).script = s.script := rfl
@[simp] theorem ticSkip_halted (n : Bool) (s : State) : (ticSkip n s).halted = s.halted := rfl
@[simp] theorem ticSkip_snoopFault (n : Bool) (s : State) : (ticSkip n s).snoopFault = s.snoopFault := rfl

/-! ### logTxn -/

@[simp] theorem logTxn_gpr (s : State) (t : BusTxn) : (logTxn s t).gpr = s.gpr := rfl
@[simp] theorem logTxn_xrf (s : State) (t : BusTxn) : (logTxn s t).xrf = s.xrf := rfl
@[simp] theorem logTxn_xip (s : State) (t : BusTxn) : (logTxn s t).xip = s.xip := rfl
@[simp] theorem logTxn_nip (s : State) (t : BusTxn) : (logTxn s t).nip = s.nip := rfl
@[simp] theorem logTxn_ds (s : State) (t : BusTxn) : (logTxn s t).ds = s.ds := rfl
@[simp] theorem logTxn_psr (s : State) (t : BusTxn) : (logTxn s t).psr = s.psr := rfl
@[simp] theorem logTxn_epsr (s : State) (t : BusTxn) : (logTxn s t).epsr = s.epsr := rfl
@[simp] theorem logTxn_exip (s : State) (t : BusTxn) : (logTxn s t).exip = s.exip := rfl
@[simp] theorem logTxn_enip (s : State) (t : BusTxn) : (logTxn s t).enip = s.enip := rfl
@[simp] theorem logTxn_vbr (s : State) (t : BusTxn) : (logTxn s t).vbr = s.vbr := rfl
@[simp] theorem logTxn_sr0 (s : State) (t : BusTxn) : (logTxn s t).sr0 = s.sr0 := rfl
@[simp] theorem logTxn_sr1 (s : State) (t : BusTxn) : (logTxn s t).sr1 = s.sr1 := rfl
@[simp] theorem logTxn_sr2 (s : State) (t : BusTxn) : (logTxn s t).sr2 = s.sr2 := rfl
@[simp] theorem logTxn_sr3 (s : State) (t : BusTxn) : (logTxn s t).sr3 = s.sr3 := rfl
@[simp] theorem logTxn_sr4 (s : State) (t : BusTxn) : (logTxn s t).sr4 = s.sr4 := rfl
@[simp] theorem logTxn_fpecr (s : State) (t : BusTxn) : (logTxn s t).fpecr = s.fpecr := rfl
@[simp] theorem logTxn_fpsr (s : State) (t : BusTxn) : (logTxn s t).fpsr = s.fpsr := rfl
@[simp] theorem logTxn_fpcr (s : State) (t : BusTxn) : (logTxn s t).fpcr = s.fpcr := rfl
@[simp] theorem logTxn_imu (s : State) (t : BusTxn) : (logTxn s t).imu = s.imu := rfl
@[simp] theorem logTxn_dmu (s : State) (t : BusTxn) : (logTxn s t).dmu = s.dmu := rfl
@[simp] theorem logTxn_bp0 (s : State) (t : BusTxn) : (logTxn s t).bp0 = s.bp0 := rfl
@[simp] theorem logTxn_bp1 (s : State) (t : BusTxn) : (logTxn s t).bp1 = s.bp1 := rfl
@[simp] theorem logTxn_icache (s : State) (t : BusTxn) : (logTxn s t).icache = s.icache := rfl
@[simp] theorem logTxn_dcache (s : State) (t : BusTxn) : (logTxn s t).dcache = s.dcache := rfl
@[simp] theorem logTxn_ibias (s : State) (t : BusTxn) : (logTxn s t).ibias = s.ibias := rfl
@[simp] theorem logTxn_dbias (s : State) (t : BusTxn) : (logTxn s t).dbias = s.dbias := rfl
@[simp] theorem logTxn_tic (s : State) (t : BusTxn) : (logTxn s t).tic = s.tic := rfl
@[simp] theorem logTxn_ticFifo (s : State) (t : BusTxn) : (logTxn s t).ticFifo = s.ticFifo := rfl
@[simp] theorem logTxn_ticSupply (s : State) (t : BusTxn) : (logTxn s t).ticSupply = s.ticSupply := rfl
@[simp] theorem logTxn_ticFill (s : State) (t : BusTxn) : (logTxn s t).ticFill = s.ticFill := rfl
@[simp] theorem logTxn_prefetched (s : State) (t : BusTxn) : (logTxn s t).prefetched = s.prefetched := rfl
@[simp] theorem logTxn_intPin (s : State) (t : BusTxn) : (logTxn s t).intPin = s.intPin := rfl
@[simp] theorem logTxn_nmiPin (s : State) (t : BusTxn) : (logTxn s t).nmiPin = s.nmiPin := rfl
@[simp] theorem logTxn_nmiPending (s : State) (t : BusTxn) : (logTxn s t).nmiPending = s.nmiPending := rfl
@[simp] theorem logTxn_modeWindow (s : State) (t : BusTxn) : (logTxn s t).modeWindow = s.modeWindow := rfl
@[simp] theorem logTxn_stuck (s : State) (t : BusTxn) : (logTxn s t).stuck = s.stuck := rfl
@[simp] theorem logTxn_mem (s : State) (t : BusTxn) : (logTxn s t).mem = s.mem := rfl
@[simp] theorem logTxn_env (s : State) (t : BusTxn) : (logTxn s t).env = s.env := rfl
@[simp] theorem logTxn_draws (s : State) (t : BusTxn) : (logTxn s t).draws = s.draws := rfl
@[simp] theorem logTxn_lastExc (s : State) (t : BusTxn) : (logTxn s t).lastExc = s.lastExc := rfl
@[simp] theorem logTxn_busLog (s : State) (t : BusTxn) : (logTxn s t).busLog = t :: s.busLog := rfl
@[simp] theorem logTxn_inputs (s : State) (t : BusTxn) : (logTxn s t).inputs = s.inputs := rfl
@[simp] theorem logTxn_script (s : State) (t : BusTxn) : (logTxn s t).script = s.script := rfl
@[simp] theorem logTxn_halted (s : State) (t : BusTxn) : (logTxn s t).halted = s.halted := rfl
@[simp] theorem logTxn_snoopFault (s : State) (t : BusTxn) : (logTxn s t).snoopFault = s.snoopFault := rfl

/-! ### writeByte -/

@[simp] theorem writeByte_gpr (s : State) (a : Word) (v : Byte) : (writeByte s a v).gpr = s.gpr := rfl
@[simp] theorem writeByte_xrf (s : State) (a : Word) (v : Byte) : (writeByte s a v).xrf = s.xrf := rfl
@[simp] theorem writeByte_xip (s : State) (a : Word) (v : Byte) : (writeByte s a v).xip = s.xip := rfl
@[simp] theorem writeByte_nip (s : State) (a : Word) (v : Byte) : (writeByte s a v).nip = s.nip := rfl
@[simp] theorem writeByte_ds (s : State) (a : Word) (v : Byte) : (writeByte s a v).ds = s.ds := rfl
@[simp] theorem writeByte_psr (s : State) (a : Word) (v : Byte) : (writeByte s a v).psr = s.psr := rfl
@[simp] theorem writeByte_epsr (s : State) (a : Word) (v : Byte) : (writeByte s a v).epsr = s.epsr := rfl
@[simp] theorem writeByte_exip (s : State) (a : Word) (v : Byte) : (writeByte s a v).exip = s.exip := rfl
@[simp] theorem writeByte_enip (s : State) (a : Word) (v : Byte) : (writeByte s a v).enip = s.enip := rfl
@[simp] theorem writeByte_vbr (s : State) (a : Word) (v : Byte) : (writeByte s a v).vbr = s.vbr := rfl
@[simp] theorem writeByte_sr0 (s : State) (a : Word) (v : Byte) : (writeByte s a v).sr0 = s.sr0 := rfl
@[simp] theorem writeByte_sr1 (s : State) (a : Word) (v : Byte) : (writeByte s a v).sr1 = s.sr1 := rfl
@[simp] theorem writeByte_sr2 (s : State) (a : Word) (v : Byte) : (writeByte s a v).sr2 = s.sr2 := rfl
@[simp] theorem writeByte_sr3 (s : State) (a : Word) (v : Byte) : (writeByte s a v).sr3 = s.sr3 := rfl
@[simp] theorem writeByte_sr4 (s : State) (a : Word) (v : Byte) : (writeByte s a v).sr4 = s.sr4 := rfl
@[simp] theorem writeByte_fpecr (s : State) (a : Word) (v : Byte) : (writeByte s a v).fpecr = s.fpecr := rfl
@[simp] theorem writeByte_fpsr (s : State) (a : Word) (v : Byte) : (writeByte s a v).fpsr = s.fpsr := rfl
@[simp] theorem writeByte_fpcr (s : State) (a : Word) (v : Byte) : (writeByte s a v).fpcr = s.fpcr := rfl
@[simp] theorem writeByte_imu (s : State) (a : Word) (v : Byte) : (writeByte s a v).imu = s.imu := rfl
@[simp] theorem writeByte_dmu (s : State) (a : Word) (v : Byte) : (writeByte s a v).dmu = s.dmu := rfl
@[simp] theorem writeByte_bp0 (s : State) (a : Word) (v : Byte) : (writeByte s a v).bp0 = s.bp0 := rfl
@[simp] theorem writeByte_bp1 (s : State) (a : Word) (v : Byte) : (writeByte s a v).bp1 = s.bp1 := rfl
@[simp] theorem writeByte_icache (s : State) (a : Word) (v : Byte) : (writeByte s a v).icache = s.icache := rfl
@[simp] theorem writeByte_dcache (s : State) (a : Word) (v : Byte) : (writeByte s a v).dcache = s.dcache := rfl
@[simp] theorem writeByte_ibias (s : State) (a : Word) (v : Byte) : (writeByte s a v).ibias = s.ibias := rfl
@[simp] theorem writeByte_dbias (s : State) (a : Word) (v : Byte) : (writeByte s a v).dbias = s.dbias := rfl
@[simp] theorem writeByte_tic (s : State) (a : Word) (v : Byte) : (writeByte s a v).tic = s.tic := rfl
@[simp] theorem writeByte_ticFifo (s : State) (a : Word) (v : Byte) : (writeByte s a v).ticFifo = s.ticFifo := rfl
@[simp] theorem writeByte_ticSupply (s : State) (a : Word) (v : Byte) : (writeByte s a v).ticSupply = s.ticSupply := rfl
@[simp] theorem writeByte_ticFill (s : State) (a : Word) (v : Byte) : (writeByte s a v).ticFill = s.ticFill := rfl
@[simp] theorem writeByte_prefetched (s : State) (a : Word) (v : Byte) : (writeByte s a v).prefetched = s.prefetched := rfl
@[simp] theorem writeByte_intPin (s : State) (a : Word) (v : Byte) : (writeByte s a v).intPin = s.intPin := rfl
@[simp] theorem writeByte_nmiPin (s : State) (a : Word) (v : Byte) : (writeByte s a v).nmiPin = s.nmiPin := rfl
@[simp] theorem writeByte_nmiPending (s : State) (a : Word) (v : Byte) : (writeByte s a v).nmiPending = s.nmiPending := rfl
@[simp] theorem writeByte_modeWindow (s : State) (a : Word) (v : Byte) : (writeByte s a v).modeWindow = s.modeWindow := rfl
@[simp] theorem writeByte_stuck (s : State) (a : Word) (v : Byte) : (writeByte s a v).stuck = s.stuck := rfl
@[simp] theorem writeByte_mem (s : State) (a : Word) (v : Byte) : (writeByte s a v).mem = Memory.write s.mem a.toNat v := rfl
@[simp] theorem writeByte_env (s : State) (a : Word) (v : Byte) : (writeByte s a v).env = s.env := rfl
@[simp] theorem writeByte_draws (s : State) (a : Word) (v : Byte) : (writeByte s a v).draws = s.draws := rfl
@[simp] theorem writeByte_lastExc (s : State) (a : Word) (v : Byte) : (writeByte s a v).lastExc = s.lastExc := rfl
@[simp] theorem writeByte_busLog (s : State) (a : Word) (v : Byte) : (writeByte s a v).busLog = s.busLog := rfl
@[simp] theorem writeByte_inputs (s : State) (a : Word) (v : Byte) : (writeByte s a v).inputs = s.inputs := rfl
@[simp] theorem writeByte_script (s : State) (a : Word) (v : Byte) : (writeByte s a v).script = s.script := rfl
@[simp] theorem writeByte_halted (s : State) (a : Word) (v : Byte) : (writeByte s a v).halted = s.halted := rfl
@[simp] theorem writeByte_snoopFault (s : State) (a : Word) (v : Byte) : (writeByte s a v).snoopFault = s.snoopFault := rfl

/-! ### setDLine -/

@[simp] theorem setDLine_gpr (s : State) (a : Word) (way : Bool) (l : DLine) : (setDLine s a way l).gpr = s.gpr := rfl
@[simp] theorem setDLine_xrf (s : State) (a : Word) (way : Bool) (l : DLine) : (setDLine s a way l).xrf = s.xrf := rfl
@[simp] theorem setDLine_xip (s : State) (a : Word) (way : Bool) (l : DLine) : (setDLine s a way l).xip = s.xip := rfl
@[simp] theorem setDLine_nip (s : State) (a : Word) (way : Bool) (l : DLine) : (setDLine s a way l).nip = s.nip := rfl
@[simp] theorem setDLine_ds (s : State) (a : Word) (way : Bool) (l : DLine) : (setDLine s a way l).ds = s.ds := rfl
@[simp] theorem setDLine_psr (s : State) (a : Word) (way : Bool) (l : DLine) : (setDLine s a way l).psr = s.psr := rfl
@[simp] theorem setDLine_epsr (s : State) (a : Word) (way : Bool) (l : DLine) : (setDLine s a way l).epsr = s.epsr := rfl
@[simp] theorem setDLine_exip (s : State) (a : Word) (way : Bool) (l : DLine) : (setDLine s a way l).exip = s.exip := rfl
@[simp] theorem setDLine_enip (s : State) (a : Word) (way : Bool) (l : DLine) : (setDLine s a way l).enip = s.enip := rfl
@[simp] theorem setDLine_vbr (s : State) (a : Word) (way : Bool) (l : DLine) : (setDLine s a way l).vbr = s.vbr := rfl
@[simp] theorem setDLine_sr0 (s : State) (a : Word) (way : Bool) (l : DLine) : (setDLine s a way l).sr0 = s.sr0 := rfl
@[simp] theorem setDLine_sr1 (s : State) (a : Word) (way : Bool) (l : DLine) : (setDLine s a way l).sr1 = s.sr1 := rfl
@[simp] theorem setDLine_sr2 (s : State) (a : Word) (way : Bool) (l : DLine) : (setDLine s a way l).sr2 = s.sr2 := rfl
@[simp] theorem setDLine_sr3 (s : State) (a : Word) (way : Bool) (l : DLine) : (setDLine s a way l).sr3 = s.sr3 := rfl
@[simp] theorem setDLine_sr4 (s : State) (a : Word) (way : Bool) (l : DLine) : (setDLine s a way l).sr4 = s.sr4 := rfl
@[simp] theorem setDLine_fpecr (s : State) (a : Word) (way : Bool) (l : DLine) : (setDLine s a way l).fpecr = s.fpecr := rfl
@[simp] theorem setDLine_fpsr (s : State) (a : Word) (way : Bool) (l : DLine) : (setDLine s a way l).fpsr = s.fpsr := rfl
@[simp] theorem setDLine_fpcr (s : State) (a : Word) (way : Bool) (l : DLine) : (setDLine s a way l).fpcr = s.fpcr := rfl
@[simp] theorem setDLine_imu (s : State) (a : Word) (way : Bool) (l : DLine) : (setDLine s a way l).imu = s.imu := rfl
@[simp] theorem setDLine_dmu (s : State) (a : Word) (way : Bool) (l : DLine) : (setDLine s a way l).dmu = s.dmu := rfl
@[simp] theorem setDLine_bp0 (s : State) (a : Word) (way : Bool) (l : DLine) : (setDLine s a way l).bp0 = s.bp0 := rfl
@[simp] theorem setDLine_bp1 (s : State) (a : Word) (way : Bool) (l : DLine) : (setDLine s a way l).bp1 = s.bp1 := rfl
@[simp] theorem setDLine_icache (s : State) (a : Word) (way : Bool) (l : DLine) : (setDLine s a way l).icache = s.icache := rfl
@[simp] theorem setDLine_ibias (s : State) (a : Word) (way : Bool) (l : DLine) : (setDLine s a way l).ibias = s.ibias := rfl
@[simp] theorem setDLine_dbias (s : State) (a : Word) (way : Bool) (l : DLine) : (setDLine s a way l).dbias = s.dbias := rfl
@[simp] theorem setDLine_tic (s : State) (a : Word) (way : Bool) (l : DLine) : (setDLine s a way l).tic = s.tic := rfl
@[simp] theorem setDLine_ticFifo (s : State) (a : Word) (way : Bool) (l : DLine) : (setDLine s a way l).ticFifo = s.ticFifo := rfl
@[simp] theorem setDLine_ticSupply (s : State) (a : Word) (way : Bool) (l : DLine) : (setDLine s a way l).ticSupply = s.ticSupply := rfl
@[simp] theorem setDLine_ticFill (s : State) (a : Word) (way : Bool) (l : DLine) : (setDLine s a way l).ticFill = s.ticFill := rfl
@[simp] theorem setDLine_prefetched (s : State) (a : Word) (way : Bool) (l : DLine) : (setDLine s a way l).prefetched = s.prefetched := rfl
@[simp] theorem setDLine_intPin (s : State) (a : Word) (way : Bool) (l : DLine) : (setDLine s a way l).intPin = s.intPin := rfl
@[simp] theorem setDLine_nmiPin (s : State) (a : Word) (way : Bool) (l : DLine) : (setDLine s a way l).nmiPin = s.nmiPin := rfl
@[simp] theorem setDLine_nmiPending (s : State) (a : Word) (way : Bool) (l : DLine) : (setDLine s a way l).nmiPending = s.nmiPending := rfl
@[simp] theorem setDLine_modeWindow (s : State) (a : Word) (way : Bool) (l : DLine) : (setDLine s a way l).modeWindow = s.modeWindow := rfl
@[simp] theorem setDLine_stuck (s : State) (a : Word) (way : Bool) (l : DLine) : (setDLine s a way l).stuck = s.stuck := rfl
@[simp] theorem setDLine_mem (s : State) (a : Word) (way : Bool) (l : DLine) : (setDLine s a way l).mem = s.mem := rfl
@[simp] theorem setDLine_env (s : State) (a : Word) (way : Bool) (l : DLine) : (setDLine s a way l).env = s.env := rfl
@[simp] theorem setDLine_draws (s : State) (a : Word) (way : Bool) (l : DLine) : (setDLine s a way l).draws = s.draws := rfl
@[simp] theorem setDLine_lastExc (s : State) (a : Word) (way : Bool) (l : DLine) : (setDLine s a way l).lastExc = s.lastExc := rfl
@[simp] theorem setDLine_busLog (s : State) (a : Word) (way : Bool) (l : DLine) : (setDLine s a way l).busLog = s.busLog := rfl
@[simp] theorem setDLine_inputs (s : State) (a : Word) (way : Bool) (l : DLine) : (setDLine s a way l).inputs = s.inputs := rfl
@[simp] theorem setDLine_script (s : State) (a : Word) (way : Bool) (l : DLine) : (setDLine s a way l).script = s.script := rfl
@[simp] theorem setDLine_halted (s : State) (a : Word) (way : Bool) (l : DLine) : (setDLine s a way l).halted = s.halted := rfl
@[simp] theorem setDLine_snoopFault (s : State) (a : Word) (way : Bool) (l : DLine) : (setDLine s a way l).snoopFault = s.snoopFault := rfl

/-! ### setILine -/

@[simp] theorem setILine_gpr (s : State) (a : Word) (way : Bool) (l : ILine) : (setILine s a way l).gpr = s.gpr := rfl
@[simp] theorem setILine_xrf (s : State) (a : Word) (way : Bool) (l : ILine) : (setILine s a way l).xrf = s.xrf := rfl
@[simp] theorem setILine_xip (s : State) (a : Word) (way : Bool) (l : ILine) : (setILine s a way l).xip = s.xip := rfl
@[simp] theorem setILine_nip (s : State) (a : Word) (way : Bool) (l : ILine) : (setILine s a way l).nip = s.nip := rfl
@[simp] theorem setILine_ds (s : State) (a : Word) (way : Bool) (l : ILine) : (setILine s a way l).ds = s.ds := rfl
@[simp] theorem setILine_psr (s : State) (a : Word) (way : Bool) (l : ILine) : (setILine s a way l).psr = s.psr := rfl
@[simp] theorem setILine_epsr (s : State) (a : Word) (way : Bool) (l : ILine) : (setILine s a way l).epsr = s.epsr := rfl
@[simp] theorem setILine_exip (s : State) (a : Word) (way : Bool) (l : ILine) : (setILine s a way l).exip = s.exip := rfl
@[simp] theorem setILine_enip (s : State) (a : Word) (way : Bool) (l : ILine) : (setILine s a way l).enip = s.enip := rfl
@[simp] theorem setILine_vbr (s : State) (a : Word) (way : Bool) (l : ILine) : (setILine s a way l).vbr = s.vbr := rfl
@[simp] theorem setILine_sr0 (s : State) (a : Word) (way : Bool) (l : ILine) : (setILine s a way l).sr0 = s.sr0 := rfl
@[simp] theorem setILine_sr1 (s : State) (a : Word) (way : Bool) (l : ILine) : (setILine s a way l).sr1 = s.sr1 := rfl
@[simp] theorem setILine_sr2 (s : State) (a : Word) (way : Bool) (l : ILine) : (setILine s a way l).sr2 = s.sr2 := rfl
@[simp] theorem setILine_sr3 (s : State) (a : Word) (way : Bool) (l : ILine) : (setILine s a way l).sr3 = s.sr3 := rfl
@[simp] theorem setILine_sr4 (s : State) (a : Word) (way : Bool) (l : ILine) : (setILine s a way l).sr4 = s.sr4 := rfl
@[simp] theorem setILine_fpecr (s : State) (a : Word) (way : Bool) (l : ILine) : (setILine s a way l).fpecr = s.fpecr := rfl
@[simp] theorem setILine_fpsr (s : State) (a : Word) (way : Bool) (l : ILine) : (setILine s a way l).fpsr = s.fpsr := rfl
@[simp] theorem setILine_fpcr (s : State) (a : Word) (way : Bool) (l : ILine) : (setILine s a way l).fpcr = s.fpcr := rfl
@[simp] theorem setILine_imu (s : State) (a : Word) (way : Bool) (l : ILine) : (setILine s a way l).imu = s.imu := rfl
@[simp] theorem setILine_dmu (s : State) (a : Word) (way : Bool) (l : ILine) : (setILine s a way l).dmu = s.dmu := rfl
@[simp] theorem setILine_bp0 (s : State) (a : Word) (way : Bool) (l : ILine) : (setILine s a way l).bp0 = s.bp0 := rfl
@[simp] theorem setILine_bp1 (s : State) (a : Word) (way : Bool) (l : ILine) : (setILine s a way l).bp1 = s.bp1 := rfl
@[simp] theorem setILine_dcache (s : State) (a : Word) (way : Bool) (l : ILine) : (setILine s a way l).dcache = s.dcache := rfl
@[simp] theorem setILine_ibias (s : State) (a : Word) (way : Bool) (l : ILine) : (setILine s a way l).ibias = s.ibias := rfl
@[simp] theorem setILine_dbias (s : State) (a : Word) (way : Bool) (l : ILine) : (setILine s a way l).dbias = s.dbias := rfl
@[simp] theorem setILine_tic (s : State) (a : Word) (way : Bool) (l : ILine) : (setILine s a way l).tic = s.tic := rfl
@[simp] theorem setILine_ticFifo (s : State) (a : Word) (way : Bool) (l : ILine) : (setILine s a way l).ticFifo = s.ticFifo := rfl
@[simp] theorem setILine_ticSupply (s : State) (a : Word) (way : Bool) (l : ILine) : (setILine s a way l).ticSupply = s.ticSupply := rfl
@[simp] theorem setILine_ticFill (s : State) (a : Word) (way : Bool) (l : ILine) : (setILine s a way l).ticFill = s.ticFill := rfl
@[simp] theorem setILine_prefetched (s : State) (a : Word) (way : Bool) (l : ILine) : (setILine s a way l).prefetched = s.prefetched := rfl
@[simp] theorem setILine_intPin (s : State) (a : Word) (way : Bool) (l : ILine) : (setILine s a way l).intPin = s.intPin := rfl
@[simp] theorem setILine_nmiPin (s : State) (a : Word) (way : Bool) (l : ILine) : (setILine s a way l).nmiPin = s.nmiPin := rfl
@[simp] theorem setILine_nmiPending (s : State) (a : Word) (way : Bool) (l : ILine) : (setILine s a way l).nmiPending = s.nmiPending := rfl
@[simp] theorem setILine_modeWindow (s : State) (a : Word) (way : Bool) (l : ILine) : (setILine s a way l).modeWindow = s.modeWindow := rfl
@[simp] theorem setILine_stuck (s : State) (a : Word) (way : Bool) (l : ILine) : (setILine s a way l).stuck = s.stuck := rfl
@[simp] theorem setILine_mem (s : State) (a : Word) (way : Bool) (l : ILine) : (setILine s a way l).mem = s.mem := rfl
@[simp] theorem setILine_env (s : State) (a : Word) (way : Bool) (l : ILine) : (setILine s a way l).env = s.env := rfl
@[simp] theorem setILine_draws (s : State) (a : Word) (way : Bool) (l : ILine) : (setILine s a way l).draws = s.draws := rfl
@[simp] theorem setILine_lastExc (s : State) (a : Word) (way : Bool) (l : ILine) : (setILine s a way l).lastExc = s.lastExc := rfl
@[simp] theorem setILine_busLog (s : State) (a : Word) (way : Bool) (l : ILine) : (setILine s a way l).busLog = s.busLog := rfl
@[simp] theorem setILine_inputs (s : State) (a : Word) (way : Bool) (l : ILine) : (setILine s a way l).inputs = s.inputs := rfl
@[simp] theorem setILine_script (s : State) (a : Word) (way : Bool) (l : ILine) : (setILine s a way l).script = s.script := rfl
@[simp] theorem setILine_halted (s : State) (a : Word) (way : Bool) (l : ILine) : (setILine s a way l).halted = s.halted := rfl
@[simp] theorem setILine_snoopFault (s : State) (a : Word) (way : Bool) (l : ILine) : (setILine s a way l).snoopFault = s.snoopFault := rfl

/-! ### writePsr -/

@[simp] theorem writePsr_gpr (v : Word) (s : State) : (writePsr v s).gpr = s.gpr := rfl
@[simp] theorem writePsr_xrf (v : Word) (s : State) : (writePsr v s).xrf = s.xrf := rfl
@[simp] theorem writePsr_xip (v : Word) (s : State) : (writePsr v s).xip = s.xip := rfl
@[simp] theorem writePsr_nip (v : Word) (s : State) : (writePsr v s).nip = s.nip := rfl
@[simp] theorem writePsr_ds (v : Word) (s : State) : (writePsr v s).ds = s.ds := rfl
@[simp] theorem writePsr_psr (v : Word) (s : State) : (writePsr v s).psr = psrLegal v := rfl
@[simp] theorem writePsr_epsr (v : Word) (s : State) : (writePsr v s).epsr = s.epsr := rfl
@[simp] theorem writePsr_exip (v : Word) (s : State) : (writePsr v s).exip = s.exip := rfl
@[simp] theorem writePsr_enip (v : Word) (s : State) : (writePsr v s).enip = s.enip := rfl
@[simp] theorem writePsr_vbr (v : Word) (s : State) : (writePsr v s).vbr = s.vbr := rfl
@[simp] theorem writePsr_sr0 (v : Word) (s : State) : (writePsr v s).sr0 = s.sr0 := rfl
@[simp] theorem writePsr_sr1 (v : Word) (s : State) : (writePsr v s).sr1 = s.sr1 := rfl
@[simp] theorem writePsr_sr2 (v : Word) (s : State) : (writePsr v s).sr2 = s.sr2 := rfl
@[simp] theorem writePsr_sr3 (v : Word) (s : State) : (writePsr v s).sr3 = s.sr3 := rfl
@[simp] theorem writePsr_sr4 (v : Word) (s : State) : (writePsr v s).sr4 = s.sr4 := rfl
@[simp] theorem writePsr_fpecr (v : Word) (s : State) : (writePsr v s).fpecr = s.fpecr := rfl
@[simp] theorem writePsr_fpsr (v : Word) (s : State) : (writePsr v s).fpsr = s.fpsr := rfl
@[simp] theorem writePsr_fpcr (v : Word) (s : State) : (writePsr v s).fpcr = s.fpcr := rfl
@[simp] theorem writePsr_imu (v : Word) (s : State) : (writePsr v s).imu = s.imu := rfl
@[simp] theorem writePsr_dmu (v : Word) (s : State) : (writePsr v s).dmu = s.dmu := rfl
@[simp] theorem writePsr_bp0 (v : Word) (s : State) : (writePsr v s).bp0 = s.bp0 := rfl
@[simp] theorem writePsr_bp1 (v : Word) (s : State) : (writePsr v s).bp1 = s.bp1 := rfl
@[simp] theorem writePsr_icache (v : Word) (s : State) : (writePsr v s).icache = s.icache := rfl
@[simp] theorem writePsr_dcache (v : Word) (s : State) : (writePsr v s).dcache = s.dcache := rfl
@[simp] theorem writePsr_ibias (v : Word) (s : State) : (writePsr v s).ibias = s.ibias := rfl
@[simp] theorem writePsr_dbias (v : Word) (s : State) : (writePsr v s).dbias = s.dbias := rfl
@[simp] theorem writePsr_tic (v : Word) (s : State) : (writePsr v s).tic = s.tic := rfl
@[simp] theorem writePsr_ticFifo (v : Word) (s : State) : (writePsr v s).ticFifo = s.ticFifo := rfl
@[simp] theorem writePsr_ticSupply (v : Word) (s : State) : (writePsr v s).ticSupply = s.ticSupply := rfl
@[simp] theorem writePsr_ticFill (v : Word) (s : State) : (writePsr v s).ticFill = s.ticFill := rfl
@[simp] theorem writePsr_prefetched (v : Word) (s : State) : (writePsr v s).prefetched = s.prefetched := rfl
@[simp] theorem writePsr_intPin (v : Word) (s : State) : (writePsr v s).intPin = s.intPin := rfl
@[simp] theorem writePsr_nmiPin (v : Word) (s : State) : (writePsr v s).nmiPin = s.nmiPin := rfl
@[simp] theorem writePsr_nmiPending (v : Word) (s : State) : (writePsr v s).nmiPending = s.nmiPending := rfl
@[simp] theorem writePsr_stuck (v : Word) (s : State) : (writePsr v s).stuck = s.stuck := rfl
@[simp] theorem writePsr_mem (v : Word) (s : State) : (writePsr v s).mem = s.mem := rfl
@[simp] theorem writePsr_env (v : Word) (s : State) : (writePsr v s).env = s.env := rfl
@[simp] theorem writePsr_draws (v : Word) (s : State) : (writePsr v s).draws = s.draws := rfl
@[simp] theorem writePsr_lastExc (v : Word) (s : State) : (writePsr v s).lastExc = s.lastExc := rfl
@[simp] theorem writePsr_busLog (v : Word) (s : State) : (writePsr v s).busLog = s.busLog := rfl
@[simp] theorem writePsr_inputs (v : Word) (s : State) : (writePsr v s).inputs = s.inputs := rfl
@[simp] theorem writePsr_script (v : Word) (s : State) : (writePsr v s).script = s.script := rfl
@[simp] theorem writePsr_halted (v : Word) (s : State) : (writePsr v s).halted = s.halted := rfl
@[simp] theorem writePsr_snoopFault (v : Word) (s : State) : (writePsr v s).snoopFault = s.snoopFault := rfl

/-! ### writeReg -/

@[simp] theorem writeReg_xrf (s : State) (d : RegNum) (v : Word) : (writeReg s d v).xrf = s.xrf := by unfold writeReg; split <;> rfl
@[simp] theorem writeReg_xip (s : State) (d : RegNum) (v : Word) : (writeReg s d v).xip = s.xip := by unfold writeReg; split <;> rfl
@[simp] theorem writeReg_nip (s : State) (d : RegNum) (v : Word) : (writeReg s d v).nip = s.nip := by unfold writeReg; split <;> rfl
@[simp] theorem writeReg_ds (s : State) (d : RegNum) (v : Word) : (writeReg s d v).ds = s.ds := by unfold writeReg; split <;> rfl
@[simp] theorem writeReg_psr (s : State) (d : RegNum) (v : Word) : (writeReg s d v).psr = s.psr := by unfold writeReg; split <;> rfl
@[simp] theorem writeReg_epsr (s : State) (d : RegNum) (v : Word) : (writeReg s d v).epsr = s.epsr := by unfold writeReg; split <;> rfl
@[simp] theorem writeReg_exip (s : State) (d : RegNum) (v : Word) : (writeReg s d v).exip = s.exip := by unfold writeReg; split <;> rfl
@[simp] theorem writeReg_enip (s : State) (d : RegNum) (v : Word) : (writeReg s d v).enip = s.enip := by unfold writeReg; split <;> rfl
@[simp] theorem writeReg_vbr (s : State) (d : RegNum) (v : Word) : (writeReg s d v).vbr = s.vbr := by unfold writeReg; split <;> rfl
@[simp] theorem writeReg_sr0 (s : State) (d : RegNum) (v : Word) : (writeReg s d v).sr0 = s.sr0 := by unfold writeReg; split <;> rfl
@[simp] theorem writeReg_sr1 (s : State) (d : RegNum) (v : Word) : (writeReg s d v).sr1 = s.sr1 := by unfold writeReg; split <;> rfl
@[simp] theorem writeReg_sr2 (s : State) (d : RegNum) (v : Word) : (writeReg s d v).sr2 = s.sr2 := by unfold writeReg; split <;> rfl
@[simp] theorem writeReg_sr3 (s : State) (d : RegNum) (v : Word) : (writeReg s d v).sr3 = s.sr3 := by unfold writeReg; split <;> rfl
@[simp] theorem writeReg_sr4 (s : State) (d : RegNum) (v : Word) : (writeReg s d v).sr4 = s.sr4 := by unfold writeReg; split <;> rfl
@[simp] theorem writeReg_fpecr (s : State) (d : RegNum) (v : Word) : (writeReg s d v).fpecr = s.fpecr := by unfold writeReg; split <;> rfl
@[simp] theorem writeReg_fpsr (s : State) (d : RegNum) (v : Word) : (writeReg s d v).fpsr = s.fpsr := by unfold writeReg; split <;> rfl
@[simp] theorem writeReg_fpcr (s : State) (d : RegNum) (v : Word) : (writeReg s d v).fpcr = s.fpcr := by unfold writeReg; split <;> rfl
@[simp] theorem writeReg_imu (s : State) (d : RegNum) (v : Word) : (writeReg s d v).imu = s.imu := by unfold writeReg; split <;> rfl
@[simp] theorem writeReg_dmu (s : State) (d : RegNum) (v : Word) : (writeReg s d v).dmu = s.dmu := by unfold writeReg; split <;> rfl
@[simp] theorem writeReg_bp0 (s : State) (d : RegNum) (v : Word) : (writeReg s d v).bp0 = s.bp0 := by unfold writeReg; split <;> rfl
@[simp] theorem writeReg_bp1 (s : State) (d : RegNum) (v : Word) : (writeReg s d v).bp1 = s.bp1 := by unfold writeReg; split <;> rfl
@[simp] theorem writeReg_icache (s : State) (d : RegNum) (v : Word) : (writeReg s d v).icache = s.icache := by unfold writeReg; split <;> rfl
@[simp] theorem writeReg_dcache (s : State) (d : RegNum) (v : Word) : (writeReg s d v).dcache = s.dcache := by unfold writeReg; split <;> rfl
@[simp] theorem writeReg_ibias (s : State) (d : RegNum) (v : Word) : (writeReg s d v).ibias = s.ibias := by unfold writeReg; split <;> rfl
@[simp] theorem writeReg_dbias (s : State) (d : RegNum) (v : Word) : (writeReg s d v).dbias = s.dbias := by unfold writeReg; split <;> rfl
@[simp] theorem writeReg_tic (s : State) (d : RegNum) (v : Word) : (writeReg s d v).tic = s.tic := by unfold writeReg; split <;> rfl
@[simp] theorem writeReg_ticFifo (s : State) (d : RegNum) (v : Word) : (writeReg s d v).ticFifo = s.ticFifo := by unfold writeReg; split <;> rfl
@[simp] theorem writeReg_ticSupply (s : State) (d : RegNum) (v : Word) : (writeReg s d v).ticSupply = s.ticSupply := by unfold writeReg; split <;> rfl
@[simp] theorem writeReg_ticFill (s : State) (d : RegNum) (v : Word) : (writeReg s d v).ticFill = s.ticFill := by unfold writeReg; split <;> rfl
@[simp] theorem writeReg_prefetched (s : State) (d : RegNum) (v : Word) : (writeReg s d v).prefetched = s.prefetched := by unfold writeReg; split <;> rfl
@[simp] theorem writeReg_intPin (s : State) (d : RegNum) (v : Word) : (writeReg s d v).intPin = s.intPin := by unfold writeReg; split <;> rfl
@[simp] theorem writeReg_nmiPin (s : State) (d : RegNum) (v : Word) : (writeReg s d v).nmiPin = s.nmiPin := by unfold writeReg; split <;> rfl
@[simp] theorem writeReg_nmiPending (s : State) (d : RegNum) (v : Word) : (writeReg s d v).nmiPending = s.nmiPending := by unfold writeReg; split <;> rfl
@[simp] theorem writeReg_modeWindow (s : State) (d : RegNum) (v : Word) : (writeReg s d v).modeWindow = s.modeWindow := by unfold writeReg; split <;> rfl
@[simp] theorem writeReg_stuck (s : State) (d : RegNum) (v : Word) : (writeReg s d v).stuck = s.stuck := by unfold writeReg; split <;> rfl
@[simp] theorem writeReg_mem (s : State) (d : RegNum) (v : Word) : (writeReg s d v).mem = s.mem := by unfold writeReg; split <;> rfl
@[simp] theorem writeReg_env (s : State) (d : RegNum) (v : Word) : (writeReg s d v).env = s.env := by unfold writeReg; split <;> rfl
@[simp] theorem writeReg_draws (s : State) (d : RegNum) (v : Word) : (writeReg s d v).draws = s.draws := by unfold writeReg; split <;> rfl
@[simp] theorem writeReg_lastExc (s : State) (d : RegNum) (v : Word) : (writeReg s d v).lastExc = s.lastExc := by unfold writeReg; split <;> rfl
@[simp] theorem writeReg_busLog (s : State) (d : RegNum) (v : Word) : (writeReg s d v).busLog = s.busLog := by unfold writeReg; split <;> rfl
@[simp] theorem writeReg_inputs (s : State) (d : RegNum) (v : Word) : (writeReg s d v).inputs = s.inputs := by unfold writeReg; split <;> rfl
@[simp] theorem writeReg_script (s : State) (d : RegNum) (v : Word) : (writeReg s d v).script = s.script := by unfold writeReg; split <;> rfl
@[simp] theorem writeReg_halted (s : State) (d : RegNum) (v : Word) : (writeReg s d v).halted = s.halted := by unfold writeReg; split <;> rfl
@[simp] theorem writeReg_snoopFault (s : State) (d : RegNum) (v : Word) : (writeReg s d v).snoopFault = s.snoopFault := by unfold writeReg; split <;> rfl

/-! ### writePair -/

@[simp] theorem writePair_xrf (s : State) (d : RegNum) (v : DWord) : (writePair s d v).xrf = s.xrf := by simp [writePair]
@[simp] theorem writePair_xip (s : State) (d : RegNum) (v : DWord) : (writePair s d v).xip = s.xip := by simp [writePair]
@[simp] theorem writePair_nip (s : State) (d : RegNum) (v : DWord) : (writePair s d v).nip = s.nip := by simp [writePair]
@[simp] theorem writePair_ds (s : State) (d : RegNum) (v : DWord) : (writePair s d v).ds = s.ds := by simp [writePair]
@[simp] theorem writePair_psr (s : State) (d : RegNum) (v : DWord) : (writePair s d v).psr = s.psr := by simp [writePair]
@[simp] theorem writePair_epsr (s : State) (d : RegNum) (v : DWord) : (writePair s d v).epsr = s.epsr := by simp [writePair]
@[simp] theorem writePair_exip (s : State) (d : RegNum) (v : DWord) : (writePair s d v).exip = s.exip := by simp [writePair]
@[simp] theorem writePair_enip (s : State) (d : RegNum) (v : DWord) : (writePair s d v).enip = s.enip := by simp [writePair]
@[simp] theorem writePair_vbr (s : State) (d : RegNum) (v : DWord) : (writePair s d v).vbr = s.vbr := by simp [writePair]
@[simp] theorem writePair_sr0 (s : State) (d : RegNum) (v : DWord) : (writePair s d v).sr0 = s.sr0 := by simp [writePair]
@[simp] theorem writePair_sr1 (s : State) (d : RegNum) (v : DWord) : (writePair s d v).sr1 = s.sr1 := by simp [writePair]
@[simp] theorem writePair_sr2 (s : State) (d : RegNum) (v : DWord) : (writePair s d v).sr2 = s.sr2 := by simp [writePair]
@[simp] theorem writePair_sr3 (s : State) (d : RegNum) (v : DWord) : (writePair s d v).sr3 = s.sr3 := by simp [writePair]
@[simp] theorem writePair_sr4 (s : State) (d : RegNum) (v : DWord) : (writePair s d v).sr4 = s.sr4 := by simp [writePair]
@[simp] theorem writePair_fpecr (s : State) (d : RegNum) (v : DWord) : (writePair s d v).fpecr = s.fpecr := by simp [writePair]
@[simp] theorem writePair_fpsr (s : State) (d : RegNum) (v : DWord) : (writePair s d v).fpsr = s.fpsr := by simp [writePair]
@[simp] theorem writePair_fpcr (s : State) (d : RegNum) (v : DWord) : (writePair s d v).fpcr = s.fpcr := by simp [writePair]
@[simp] theorem writePair_imu (s : State) (d : RegNum) (v : DWord) : (writePair s d v).imu = s.imu := by simp [writePair]
@[simp] theorem writePair_dmu (s : State) (d : RegNum) (v : DWord) : (writePair s d v).dmu = s.dmu := by simp [writePair]
@[simp] theorem writePair_bp0 (s : State) (d : RegNum) (v : DWord) : (writePair s d v).bp0 = s.bp0 := by simp [writePair]
@[simp] theorem writePair_bp1 (s : State) (d : RegNum) (v : DWord) : (writePair s d v).bp1 = s.bp1 := by simp [writePair]
@[simp] theorem writePair_icache (s : State) (d : RegNum) (v : DWord) : (writePair s d v).icache = s.icache := by simp [writePair]
@[simp] theorem writePair_dcache (s : State) (d : RegNum) (v : DWord) : (writePair s d v).dcache = s.dcache := by simp [writePair]
@[simp] theorem writePair_ibias (s : State) (d : RegNum) (v : DWord) : (writePair s d v).ibias = s.ibias := by simp [writePair]
@[simp] theorem writePair_dbias (s : State) (d : RegNum) (v : DWord) : (writePair s d v).dbias = s.dbias := by simp [writePair]
@[simp] theorem writePair_tic (s : State) (d : RegNum) (v : DWord) : (writePair s d v).tic = s.tic := by simp [writePair]
@[simp] theorem writePair_ticFifo (s : State) (d : RegNum) (v : DWord) : (writePair s d v).ticFifo = s.ticFifo := by simp [writePair]
@[simp] theorem writePair_ticSupply (s : State) (d : RegNum) (v : DWord) : (writePair s d v).ticSupply = s.ticSupply := by simp [writePair]
@[simp] theorem writePair_ticFill (s : State) (d : RegNum) (v : DWord) : (writePair s d v).ticFill = s.ticFill := by simp [writePair]
@[simp] theorem writePair_prefetched (s : State) (d : RegNum) (v : DWord) : (writePair s d v).prefetched = s.prefetched := by simp [writePair]
@[simp] theorem writePair_intPin (s : State) (d : RegNum) (v : DWord) : (writePair s d v).intPin = s.intPin := by simp [writePair]
@[simp] theorem writePair_nmiPin (s : State) (d : RegNum) (v : DWord) : (writePair s d v).nmiPin = s.nmiPin := by simp [writePair]
@[simp] theorem writePair_nmiPending (s : State) (d : RegNum) (v : DWord) : (writePair s d v).nmiPending = s.nmiPending := by simp [writePair]
@[simp] theorem writePair_modeWindow (s : State) (d : RegNum) (v : DWord) : (writePair s d v).modeWindow = s.modeWindow := by simp [writePair]
@[simp] theorem writePair_stuck (s : State) (d : RegNum) (v : DWord) : (writePair s d v).stuck = s.stuck := by simp [writePair]
@[simp] theorem writePair_mem (s : State) (d : RegNum) (v : DWord) : (writePair s d v).mem = s.mem := by simp [writePair]
@[simp] theorem writePair_env (s : State) (d : RegNum) (v : DWord) : (writePair s d v).env = s.env := by simp [writePair]
@[simp] theorem writePair_draws (s : State) (d : RegNum) (v : DWord) : (writePair s d v).draws = s.draws := by simp [writePair]
@[simp] theorem writePair_lastExc (s : State) (d : RegNum) (v : DWord) : (writePair s d v).lastExc = s.lastExc := by simp [writePair]
@[simp] theorem writePair_busLog (s : State) (d : RegNum) (v : DWord) : (writePair s d v).busLog = s.busLog := by simp [writePair]
@[simp] theorem writePair_inputs (s : State) (d : RegNum) (v : DWord) : (writePair s d v).inputs = s.inputs := by simp [writePair]
@[simp] theorem writePair_script (s : State) (d : RegNum) (v : DWord) : (writePair s d v).script = s.script := by simp [writePair]
@[simp] theorem writePair_halted (s : State) (d : RegNum) (v : DWord) : (writePair s d v).halted = s.halted := by simp [writePair]
@[simp] theorem writePair_snoopFault (s : State) (d : RegNum) (v : DWord) : (writePair s d v).snoopFault = s.snoopFault := by simp [writePair]

/-! ### writeX -/

@[simp] theorem writeX_gpr (s : State) (d : RegNum) (v : XWord) : (writeX s d v).gpr = s.gpr := by unfold writeX; split <;> rfl
@[simp] theorem writeX_xip (s : State) (d : RegNum) (v : XWord) : (writeX s d v).xip = s.xip := by unfold writeX; split <;> rfl
@[simp] theorem writeX_nip (s : State) (d : RegNum) (v : XWord) : (writeX s d v).nip = s.nip := by unfold writeX; split <;> rfl
@[simp] theorem writeX_ds (s : State) (d : RegNum) (v : XWord) : (writeX s d v).ds = s.ds := by unfold writeX; split <;> rfl
@[simp] theorem writeX_psr (s : State) (d : RegNum) (v : XWord) : (writeX s d v).psr = s.psr := by unfold writeX; split <;> rfl
@[simp] theorem writeX_epsr (s : State) (d : RegNum) (v : XWord) : (writeX s d v).epsr = s.epsr := by unfold writeX; split <;> rfl
@[simp] theorem writeX_exip (s : State) (d : RegNum) (v : XWord) : (writeX s d v).exip = s.exip := by unfold writeX; split <;> rfl
@[simp] theorem writeX_enip (s : State) (d : RegNum) (v : XWord) : (writeX s d v).enip = s.enip := by unfold writeX; split <;> rfl
@[simp] theorem writeX_vbr (s : State) (d : RegNum) (v : XWord) : (writeX s d v).vbr = s.vbr := by unfold writeX; split <;> rfl
@[simp] theorem writeX_sr0 (s : State) (d : RegNum) (v : XWord) : (writeX s d v).sr0 = s.sr0 := by unfold writeX; split <;> rfl
@[simp] theorem writeX_sr1 (s : State) (d : RegNum) (v : XWord) : (writeX s d v).sr1 = s.sr1 := by unfold writeX; split <;> rfl
@[simp] theorem writeX_sr2 (s : State) (d : RegNum) (v : XWord) : (writeX s d v).sr2 = s.sr2 := by unfold writeX; split <;> rfl
@[simp] theorem writeX_sr3 (s : State) (d : RegNum) (v : XWord) : (writeX s d v).sr3 = s.sr3 := by unfold writeX; split <;> rfl
@[simp] theorem writeX_sr4 (s : State) (d : RegNum) (v : XWord) : (writeX s d v).sr4 = s.sr4 := by unfold writeX; split <;> rfl
@[simp] theorem writeX_fpecr (s : State) (d : RegNum) (v : XWord) : (writeX s d v).fpecr = s.fpecr := by unfold writeX; split <;> rfl
@[simp] theorem writeX_fpcr (s : State) (d : RegNum) (v : XWord) : (writeX s d v).fpcr = s.fpcr := by unfold writeX; split <;> rfl
@[simp] theorem writeX_imu (s : State) (d : RegNum) (v : XWord) : (writeX s d v).imu = s.imu := by unfold writeX; split <;> rfl
@[simp] theorem writeX_dmu (s : State) (d : RegNum) (v : XWord) : (writeX s d v).dmu = s.dmu := by unfold writeX; split <;> rfl
@[simp] theorem writeX_bp0 (s : State) (d : RegNum) (v : XWord) : (writeX s d v).bp0 = s.bp0 := by unfold writeX; split <;> rfl
@[simp] theorem writeX_bp1 (s : State) (d : RegNum) (v : XWord) : (writeX s d v).bp1 = s.bp1 := by unfold writeX; split <;> rfl
@[simp] theorem writeX_icache (s : State) (d : RegNum) (v : XWord) : (writeX s d v).icache = s.icache := by unfold writeX; split <;> rfl
@[simp] theorem writeX_dcache (s : State) (d : RegNum) (v : XWord) : (writeX s d v).dcache = s.dcache := by unfold writeX; split <;> rfl
@[simp] theorem writeX_ibias (s : State) (d : RegNum) (v : XWord) : (writeX s d v).ibias = s.ibias := by unfold writeX; split <;> rfl
@[simp] theorem writeX_dbias (s : State) (d : RegNum) (v : XWord) : (writeX s d v).dbias = s.dbias := by unfold writeX; split <;> rfl
@[simp] theorem writeX_tic (s : State) (d : RegNum) (v : XWord) : (writeX s d v).tic = s.tic := by unfold writeX; split <;> rfl
@[simp] theorem writeX_ticFifo (s : State) (d : RegNum) (v : XWord) : (writeX s d v).ticFifo = s.ticFifo := by unfold writeX; split <;> rfl
@[simp] theorem writeX_ticSupply (s : State) (d : RegNum) (v : XWord) : (writeX s d v).ticSupply = s.ticSupply := by unfold writeX; split <;> rfl
@[simp] theorem writeX_ticFill (s : State) (d : RegNum) (v : XWord) : (writeX s d v).ticFill = s.ticFill := by unfold writeX; split <;> rfl
@[simp] theorem writeX_prefetched (s : State) (d : RegNum) (v : XWord) : (writeX s d v).prefetched = s.prefetched := by unfold writeX; split <;> rfl
@[simp] theorem writeX_intPin (s : State) (d : RegNum) (v : XWord) : (writeX s d v).intPin = s.intPin := by unfold writeX; split <;> rfl
@[simp] theorem writeX_nmiPin (s : State) (d : RegNum) (v : XWord) : (writeX s d v).nmiPin = s.nmiPin := by unfold writeX; split <;> rfl
@[simp] theorem writeX_nmiPending (s : State) (d : RegNum) (v : XWord) : (writeX s d v).nmiPending = s.nmiPending := by unfold writeX; split <;> rfl
@[simp] theorem writeX_modeWindow (s : State) (d : RegNum) (v : XWord) : (writeX s d v).modeWindow = s.modeWindow := by unfold writeX; split <;> rfl
@[simp] theorem writeX_stuck (s : State) (d : RegNum) (v : XWord) : (writeX s d v).stuck = s.stuck := by unfold writeX; split <;> rfl
@[simp] theorem writeX_mem (s : State) (d : RegNum) (v : XWord) : (writeX s d v).mem = s.mem := by unfold writeX; split <;> rfl
@[simp] theorem writeX_env (s : State) (d : RegNum) (v : XWord) : (writeX s d v).env = s.env := by unfold writeX; split <;> rfl
@[simp] theorem writeX_draws (s : State) (d : RegNum) (v : XWord) : (writeX s d v).draws = s.draws := by unfold writeX; split <;> rfl
@[simp] theorem writeX_lastExc (s : State) (d : RegNum) (v : XWord) : (writeX s d v).lastExc = s.lastExc := by unfold writeX; split <;> rfl
@[simp] theorem writeX_busLog (s : State) (d : RegNum) (v : XWord) : (writeX s d v).busLog = s.busLog := by unfold writeX; split <;> rfl
@[simp] theorem writeX_inputs (s : State) (d : RegNum) (v : XWord) : (writeX s d v).inputs = s.inputs := by unfold writeX; split <;> rfl
@[simp] theorem writeX_script (s : State) (d : RegNum) (v : XWord) : (writeX s d v).script = s.script := by unfold writeX; split <;> rfl
@[simp] theorem writeX_halted (s : State) (d : RegNum) (v : XWord) : (writeX s d v).halted = s.halted := by unfold writeX; split <;> rfl
@[simp] theorem writeX_snoopFault (s : State) (d : RegNum) (v : XWord) : (writeX s d v).snoopFault = s.snoopFault := by unfold writeX; split <;> rfl

/-! ### branchTo -/

@[simp] theorem branchTo_gpr (s : State) (n : Bool) (t : Word) : (branchTo s n t).gpr = s.gpr := by cases n <;> rfl
@[simp] theorem branchTo_xrf (s : State) (n : Bool) (t : Word) : (branchTo s n t).xrf = s.xrf := by cases n <;> rfl
@[simp] theorem branchTo_xip (s : State) (n : Bool) (t : Word) : (branchTo s n t).xip = if n then s.nip else t := by cases n <;> rfl
@[simp] theorem branchTo_nip (s : State) (n : Bool) (t : Word) : (branchTo s n t).nip = if n then t else t + 4#32 := by cases n <;> rfl
@[simp] theorem branchTo_ds (s : State) (n : Bool) (t : Word) : (branchTo s n t).ds = n := by cases n <;> rfl
@[simp] theorem branchTo_psr (s : State) (n : Bool) (t : Word) : (branchTo s n t).psr = s.psr := by cases n <;> rfl
@[simp] theorem branchTo_epsr (s : State) (n : Bool) (t : Word) : (branchTo s n t).epsr = s.epsr := by cases n <;> rfl
@[simp] theorem branchTo_exip (s : State) (n : Bool) (t : Word) : (branchTo s n t).exip = s.exip := by cases n <;> rfl
@[simp] theorem branchTo_enip (s : State) (n : Bool) (t : Word) : (branchTo s n t).enip = s.enip := by cases n <;> rfl
@[simp] theorem branchTo_vbr (s : State) (n : Bool) (t : Word) : (branchTo s n t).vbr = s.vbr := by cases n <;> rfl
@[simp] theorem branchTo_sr0 (s : State) (n : Bool) (t : Word) : (branchTo s n t).sr0 = s.sr0 := by cases n <;> rfl
@[simp] theorem branchTo_sr1 (s : State) (n : Bool) (t : Word) : (branchTo s n t).sr1 = s.sr1 := by cases n <;> rfl
@[simp] theorem branchTo_sr2 (s : State) (n : Bool) (t : Word) : (branchTo s n t).sr2 = s.sr2 := by cases n <;> rfl
@[simp] theorem branchTo_sr3 (s : State) (n : Bool) (t : Word) : (branchTo s n t).sr3 = s.sr3 := by cases n <;> rfl
@[simp] theorem branchTo_sr4 (s : State) (n : Bool) (t : Word) : (branchTo s n t).sr4 = s.sr4 := by cases n <;> rfl
@[simp] theorem branchTo_fpecr (s : State) (n : Bool) (t : Word) : (branchTo s n t).fpecr = s.fpecr := by cases n <;> rfl
@[simp] theorem branchTo_fpsr (s : State) (n : Bool) (t : Word) : (branchTo s n t).fpsr = s.fpsr := by cases n <;> rfl
@[simp] theorem branchTo_fpcr (s : State) (n : Bool) (t : Word) : (branchTo s n t).fpcr = s.fpcr := by cases n <;> rfl
@[simp] theorem branchTo_imu (s : State) (n : Bool) (t : Word) : (branchTo s n t).imu = s.imu := by cases n <;> rfl
@[simp] theorem branchTo_dmu (s : State) (n : Bool) (t : Word) : (branchTo s n t).dmu = s.dmu := by cases n <;> rfl
@[simp] theorem branchTo_bp0 (s : State) (n : Bool) (t : Word) : (branchTo s n t).bp0 = s.bp0 := by cases n <;> rfl
@[simp] theorem branchTo_bp1 (s : State) (n : Bool) (t : Word) : (branchTo s n t).bp1 = s.bp1 := by cases n <;> rfl
@[simp] theorem branchTo_icache (s : State) (n : Bool) (t : Word) : (branchTo s n t).icache = s.icache := by cases n <;> rfl
@[simp] theorem branchTo_dcache (s : State) (n : Bool) (t : Word) : (branchTo s n t).dcache = s.dcache := by cases n <;> rfl
@[simp] theorem branchTo_ibias (s : State) (n : Bool) (t : Word) : (branchTo s n t).ibias = s.ibias := by cases n <;> rfl
@[simp] theorem branchTo_dbias (s : State) (n : Bool) (t : Word) : (branchTo s n t).dbias = s.dbias := by cases n <;> rfl
@[simp] theorem branchTo_tic (s : State) (n : Bool) (t : Word) : (branchTo s n t).tic = s.tic := by cases n <;> rfl
@[simp] theorem branchTo_ticFifo (s : State) (n : Bool) (t : Word) : (branchTo s n t).ticFifo = s.ticFifo := by cases n <;> rfl
@[simp] theorem branchTo_ticSupply (s : State) (n : Bool) (t : Word) : (branchTo s n t).ticSupply = s.ticSupply := by cases n <;> rfl
@[simp] theorem branchTo_ticFill (s : State) (n : Bool) (t : Word) : (branchTo s n t).ticFill = s.ticFill := by cases n <;> rfl
@[simp] theorem branchTo_prefetched (s : State) (n : Bool) (t : Word) : (branchTo s n t).prefetched = s.prefetched := by cases n <;> rfl
@[simp] theorem branchTo_intPin (s : State) (n : Bool) (t : Word) : (branchTo s n t).intPin = s.intPin := by cases n <;> rfl
@[simp] theorem branchTo_nmiPin (s : State) (n : Bool) (t : Word) : (branchTo s n t).nmiPin = s.nmiPin := by cases n <;> rfl
@[simp] theorem branchTo_nmiPending (s : State) (n : Bool) (t : Word) : (branchTo s n t).nmiPending = s.nmiPending := by cases n <;> rfl
@[simp] theorem branchTo_modeWindow (s : State) (n : Bool) (t : Word) : (branchTo s n t).modeWindow = s.modeWindow := by cases n <;> rfl
@[simp] theorem branchTo_stuck (s : State) (n : Bool) (t : Word) : (branchTo s n t).stuck = s.stuck := by cases n <;> rfl
@[simp] theorem branchTo_mem (s : State) (n : Bool) (t : Word) : (branchTo s n t).mem = s.mem := by cases n <;> rfl
@[simp] theorem branchTo_env (s : State) (n : Bool) (t : Word) : (branchTo s n t).env = s.env := by cases n <;> rfl
@[simp] theorem branchTo_draws (s : State) (n : Bool) (t : Word) : (branchTo s n t).draws = s.draws := by cases n <;> rfl
@[simp] theorem branchTo_lastExc (s : State) (n : Bool) (t : Word) : (branchTo s n t).lastExc = s.lastExc := by cases n <;> rfl
@[simp] theorem branchTo_busLog (s : State) (n : Bool) (t : Word) : (branchTo s n t).busLog = s.busLog := by cases n <;> rfl
@[simp] theorem branchTo_inputs (s : State) (n : Bool) (t : Word) : (branchTo s n t).inputs = s.inputs := by cases n <;> rfl
@[simp] theorem branchTo_script (s : State) (n : Bool) (t : Word) : (branchTo s n t).script = s.script := by cases n <;> rfl
@[simp] theorem branchTo_halted (s : State) (n : Bool) (t : Word) : (branchTo s n t).halted = s.halted := by cases n <;> rfl
@[simp] theorem branchTo_snoopFault (s : State) (n : Bool) (t : Word) : (branchTo s n t).snoopFault = s.snoopFault := by cases n <;> rfl

/-! ### carryOut -/

@[simp] theorem carryOut_gpr (s : State) (co c : Bool) : (carryOut s co c).gpr = s.gpr := by cases co <;> rfl
@[simp] theorem carryOut_xrf (s : State) (co c : Bool) : (carryOut s co c).xrf = s.xrf := by cases co <;> rfl
@[simp] theorem carryOut_xip (s : State) (co c : Bool) : (carryOut s co c).xip = s.xip := by cases co <;> rfl
@[simp] theorem carryOut_nip (s : State) (co c : Bool) : (carryOut s co c).nip = s.nip := by cases co <;> rfl
@[simp] theorem carryOut_ds (s : State) (co c : Bool) : (carryOut s co c).ds = s.ds := by cases co <;> rfl
@[simp] theorem carryOut_epsr (s : State) (co c : Bool) : (carryOut s co c).epsr = s.epsr := by cases co <;> rfl
@[simp] theorem carryOut_exip (s : State) (co c : Bool) : (carryOut s co c).exip = s.exip := by cases co <;> rfl
@[simp] theorem carryOut_enip (s : State) (co c : Bool) : (carryOut s co c).enip = s.enip := by cases co <;> rfl
@[simp] theorem carryOut_vbr (s : State) (co c : Bool) : (carryOut s co c).vbr = s.vbr := by cases co <;> rfl
@[simp] theorem carryOut_sr0 (s : State) (co c : Bool) : (carryOut s co c).sr0 = s.sr0 := by cases co <;> rfl
@[simp] theorem carryOut_sr1 (s : State) (co c : Bool) : (carryOut s co c).sr1 = s.sr1 := by cases co <;> rfl
@[simp] theorem carryOut_sr2 (s : State) (co c : Bool) : (carryOut s co c).sr2 = s.sr2 := by cases co <;> rfl
@[simp] theorem carryOut_sr3 (s : State) (co c : Bool) : (carryOut s co c).sr3 = s.sr3 := by cases co <;> rfl
@[simp] theorem carryOut_sr4 (s : State) (co c : Bool) : (carryOut s co c).sr4 = s.sr4 := by cases co <;> rfl
@[simp] theorem carryOut_fpecr (s : State) (co c : Bool) : (carryOut s co c).fpecr = s.fpecr := by cases co <;> rfl
@[simp] theorem carryOut_fpsr (s : State) (co c : Bool) : (carryOut s co c).fpsr = s.fpsr := by cases co <;> rfl
@[simp] theorem carryOut_fpcr (s : State) (co c : Bool) : (carryOut s co c).fpcr = s.fpcr := by cases co <;> rfl
@[simp] theorem carryOut_imu (s : State) (co c : Bool) : (carryOut s co c).imu = s.imu := by cases co <;> rfl
@[simp] theorem carryOut_dmu (s : State) (co c : Bool) : (carryOut s co c).dmu = s.dmu := by cases co <;> rfl
@[simp] theorem carryOut_bp0 (s : State) (co c : Bool) : (carryOut s co c).bp0 = s.bp0 := by cases co <;> rfl
@[simp] theorem carryOut_bp1 (s : State) (co c : Bool) : (carryOut s co c).bp1 = s.bp1 := by cases co <;> rfl
@[simp] theorem carryOut_icache (s : State) (co c : Bool) : (carryOut s co c).icache = s.icache := by cases co <;> rfl
@[simp] theorem carryOut_dcache (s : State) (co c : Bool) : (carryOut s co c).dcache = s.dcache := by cases co <;> rfl
@[simp] theorem carryOut_ibias (s : State) (co c : Bool) : (carryOut s co c).ibias = s.ibias := by cases co <;> rfl
@[simp] theorem carryOut_dbias (s : State) (co c : Bool) : (carryOut s co c).dbias = s.dbias := by cases co <;> rfl
@[simp] theorem carryOut_tic (s : State) (co c : Bool) : (carryOut s co c).tic = s.tic := by cases co <;> rfl
@[simp] theorem carryOut_ticFifo (s : State) (co c : Bool) : (carryOut s co c).ticFifo = s.ticFifo := by cases co <;> rfl
@[simp] theorem carryOut_ticSupply (s : State) (co c : Bool) : (carryOut s co c).ticSupply = s.ticSupply := by cases co <;> rfl
@[simp] theorem carryOut_ticFill (s : State) (co c : Bool) : (carryOut s co c).ticFill = s.ticFill := by cases co <;> rfl
@[simp] theorem carryOut_prefetched (s : State) (co c : Bool) : (carryOut s co c).prefetched = s.prefetched := by cases co <;> rfl
@[simp] theorem carryOut_intPin (s : State) (co c : Bool) : (carryOut s co c).intPin = s.intPin := by cases co <;> rfl
@[simp] theorem carryOut_nmiPin (s : State) (co c : Bool) : (carryOut s co c).nmiPin = s.nmiPin := by cases co <;> rfl
@[simp] theorem carryOut_nmiPending (s : State) (co c : Bool) : (carryOut s co c).nmiPending = s.nmiPending := by cases co <;> rfl
@[simp] theorem carryOut_modeWindow (s : State) (co c : Bool) : (carryOut s co c).modeWindow = s.modeWindow := by cases co <;> rfl
@[simp] theorem carryOut_stuck (s : State) (co c : Bool) : (carryOut s co c).stuck = s.stuck := by cases co <;> rfl
@[simp] theorem carryOut_mem (s : State) (co c : Bool) : (carryOut s co c).mem = s.mem := by cases co <;> rfl
@[simp] theorem carryOut_env (s : State) (co c : Bool) : (carryOut s co c).env = s.env := by cases co <;> rfl
@[simp] theorem carryOut_draws (s : State) (co c : Bool) : (carryOut s co c).draws = s.draws := by cases co <;> rfl
@[simp] theorem carryOut_lastExc (s : State) (co c : Bool) : (carryOut s co c).lastExc = s.lastExc := by cases co <;> rfl
@[simp] theorem carryOut_busLog (s : State) (co c : Bool) : (carryOut s co c).busLog = s.busLog := by cases co <;> rfl
@[simp] theorem carryOut_inputs (s : State) (co c : Bool) : (carryOut s co c).inputs = s.inputs := by cases co <;> rfl
@[simp] theorem carryOut_script (s : State) (co c : Bool) : (carryOut s co c).script = s.script := by cases co <;> rfl
@[simp] theorem carryOut_halted (s : State) (co c : Bool) : (carryOut s co c).halted = s.halted := by cases co <;> rfl
@[simp] theorem carryOut_snoopFault (s : State) (co c : Bool) : (carryOut s co c).snoopFault = s.snoopFault := by cases co <;> rfl

/-! ### setAfinx -/

@[simp] theorem setAfinx_gpr (s : State) (b : Bool) : (setAfinx s b).gpr = s.gpr := by cases b <;> rfl
@[simp] theorem setAfinx_xrf (s : State) (b : Bool) : (setAfinx s b).xrf = s.xrf := by cases b <;> rfl
@[simp] theorem setAfinx_xip (s : State) (b : Bool) : (setAfinx s b).xip = s.xip := by cases b <;> rfl
@[simp] theorem setAfinx_nip (s : State) (b : Bool) : (setAfinx s b).nip = s.nip := by cases b <;> rfl
@[simp] theorem setAfinx_ds (s : State) (b : Bool) : (setAfinx s b).ds = s.ds := by cases b <;> rfl
@[simp] theorem setAfinx_psr (s : State) (b : Bool) : (setAfinx s b).psr = s.psr := by cases b <;> rfl
@[simp] theorem setAfinx_epsr (s : State) (b : Bool) : (setAfinx s b).epsr = s.epsr := by cases b <;> rfl
@[simp] theorem setAfinx_exip (s : State) (b : Bool) : (setAfinx s b).exip = s.exip := by cases b <;> rfl
@[simp] theorem setAfinx_enip (s : State) (b : Bool) : (setAfinx s b).enip = s.enip := by cases b <;> rfl
@[simp] theorem setAfinx_vbr (s : State) (b : Bool) : (setAfinx s b).vbr = s.vbr := by cases b <;> rfl
@[simp] theorem setAfinx_sr0 (s : State) (b : Bool) : (setAfinx s b).sr0 = s.sr0 := by cases b <;> rfl
@[simp] theorem setAfinx_sr1 (s : State) (b : Bool) : (setAfinx s b).sr1 = s.sr1 := by cases b <;> rfl
@[simp] theorem setAfinx_sr2 (s : State) (b : Bool) : (setAfinx s b).sr2 = s.sr2 := by cases b <;> rfl
@[simp] theorem setAfinx_sr3 (s : State) (b : Bool) : (setAfinx s b).sr3 = s.sr3 := by cases b <;> rfl
@[simp] theorem setAfinx_sr4 (s : State) (b : Bool) : (setAfinx s b).sr4 = s.sr4 := by cases b <;> rfl
@[simp] theorem setAfinx_fpecr (s : State) (b : Bool) : (setAfinx s b).fpecr = s.fpecr := by cases b <;> rfl
@[simp] theorem setAfinx_fpcr (s : State) (b : Bool) : (setAfinx s b).fpcr = s.fpcr := by cases b <;> rfl
@[simp] theorem setAfinx_imu (s : State) (b : Bool) : (setAfinx s b).imu = s.imu := by cases b <;> rfl
@[simp] theorem setAfinx_dmu (s : State) (b : Bool) : (setAfinx s b).dmu = s.dmu := by cases b <;> rfl
@[simp] theorem setAfinx_bp0 (s : State) (b : Bool) : (setAfinx s b).bp0 = s.bp0 := by cases b <;> rfl
@[simp] theorem setAfinx_bp1 (s : State) (b : Bool) : (setAfinx s b).bp1 = s.bp1 := by cases b <;> rfl
@[simp] theorem setAfinx_icache (s : State) (b : Bool) : (setAfinx s b).icache = s.icache := by cases b <;> rfl
@[simp] theorem setAfinx_dcache (s : State) (b : Bool) : (setAfinx s b).dcache = s.dcache := by cases b <;> rfl
@[simp] theorem setAfinx_ibias (s : State) (b : Bool) : (setAfinx s b).ibias = s.ibias := by cases b <;> rfl
@[simp] theorem setAfinx_dbias (s : State) (b : Bool) : (setAfinx s b).dbias = s.dbias := by cases b <;> rfl
@[simp] theorem setAfinx_tic (s : State) (b : Bool) : (setAfinx s b).tic = s.tic := by cases b <;> rfl
@[simp] theorem setAfinx_ticFifo (s : State) (b : Bool) : (setAfinx s b).ticFifo = s.ticFifo := by cases b <;> rfl
@[simp] theorem setAfinx_ticSupply (s : State) (b : Bool) : (setAfinx s b).ticSupply = s.ticSupply := by cases b <;> rfl
@[simp] theorem setAfinx_ticFill (s : State) (b : Bool) : (setAfinx s b).ticFill = s.ticFill := by cases b <;> rfl
@[simp] theorem setAfinx_prefetched (s : State) (b : Bool) : (setAfinx s b).prefetched = s.prefetched := by cases b <;> rfl
@[simp] theorem setAfinx_intPin (s : State) (b : Bool) : (setAfinx s b).intPin = s.intPin := by cases b <;> rfl
@[simp] theorem setAfinx_nmiPin (s : State) (b : Bool) : (setAfinx s b).nmiPin = s.nmiPin := by cases b <;> rfl
@[simp] theorem setAfinx_nmiPending (s : State) (b : Bool) : (setAfinx s b).nmiPending = s.nmiPending := by cases b <;> rfl
@[simp] theorem setAfinx_modeWindow (s : State) (b : Bool) : (setAfinx s b).modeWindow = s.modeWindow := by cases b <;> rfl
@[simp] theorem setAfinx_stuck (s : State) (b : Bool) : (setAfinx s b).stuck = s.stuck := by cases b <;> rfl
@[simp] theorem setAfinx_mem (s : State) (b : Bool) : (setAfinx s b).mem = s.mem := by cases b <;> rfl
@[simp] theorem setAfinx_env (s : State) (b : Bool) : (setAfinx s b).env = s.env := by cases b <;> rfl
@[simp] theorem setAfinx_draws (s : State) (b : Bool) : (setAfinx s b).draws = s.draws := by cases b <;> rfl
@[simp] theorem setAfinx_lastExc (s : State) (b : Bool) : (setAfinx s b).lastExc = s.lastExc := by cases b <;> rfl
@[simp] theorem setAfinx_busLog (s : State) (b : Bool) : (setAfinx s b).busLog = s.busLog := by cases b <;> rfl
@[simp] theorem setAfinx_inputs (s : State) (b : Bool) : (setAfinx s b).inputs = s.inputs := by cases b <;> rfl
@[simp] theorem setAfinx_script (s : State) (b : Bool) : (setAfinx s b).script = s.script := by cases b <;> rfl
@[simp] theorem setAfinx_halted (s : State) (b : Bool) : (setAfinx s b).halted = s.halted := by cases b <;> rfl
@[simp] theorem setAfinx_snoopFault (s : State) (b : Bool) : (setAfinx s b).snoopFault = s.snoopFault := by cases b <;> rfl

end Sys2Proof.Machine
end

