-- ==== Sys2Proof/Laws/Memory.lean ====
section
/-!
SUPPORT. The memory's canonical form: every write keeps it, a read after a write gives the byte written, every other
byte is as before; and the same for byte sequences and the beats of a burst.
-/

namespace Sys2Proof.Machine

/-! ### Lists of cells -/

/-- A canonical memory lists nothing below its lower bound. -/
theorem memory_read_below {lo : Nat} {m : List Host.Cell} (h : Memory.wfFrom lo m = true) {a : Nat} (ha : a < lo) :
    Memory.read m a = Memory.unlisted := by
  induction m generalizing lo with
  | nil => rfl
  | cons c m ih =>
    obtain ⟨k, b⟩ := c
    simp only [Memory.wfFrom, Bool.and_eq_true, decide_eq_true_eq] at h
    have hk : k ≠ a := by omega
    simp only [Memory.read, hk, if_false]
    exact ih h.2 (by omega)

/-- Canonical from a bound is canonical from any smaller bound. -/
theorem memory_wfFrom_mono {lo lo' : Nat} (hl : lo' ≤ lo) {m : List Host.Cell} (h : Memory.wfFrom lo m = true) :
    Memory.wfFrom lo' m = true := by
  cases m with
  | nil => rfl
  | cons c m =>
    obtain ⟨k, b⟩ := c
    simp only [Memory.wfFrom, Bool.and_eq_true, decide_eq_true_eq] at h ⊢
    exact ⟨⟨⟨by omega, h.1.1.2⟩, h.1.2⟩, h.2⟩

/-- A write keeps the canonical form. -/
theorem memory_wfFrom_write {lo : Nat} {m : List Host.Cell} (h : Memory.wfFrom lo m = true) {a : Nat} (hlo : lo ≤ a)
    (ha : a < 4294967296) (v : Byte) : Memory.wfFrom lo (Memory.write m a v) = true := by
  induction m generalizing lo with
  | nil => by_cases hv : v = Memory.unlisted <;> simp [Memory.write, hv, Memory.wfFrom, hlo, ha]
  | cons c m ih =>
    obtain ⟨k, b⟩ := c
    simp only [Memory.wfFrom, Bool.and_eq_true, decide_eq_true_eq] at h
    obtain ⟨⟨⟨h1, h2⟩, h3⟩, h4⟩ := h
    simp only [Memory.write]
    by_cases hlt : a < k
    · by_cases hv : v = Memory.unlisted
      · simp only [hlt, hv, if_true, Memory.wfFrom, Bool.and_eq_true, decide_eq_true_eq]
        exact ⟨⟨⟨h1, h2⟩, h3⟩, h4⟩
      · simp only [hlt, hv, if_true, if_false, Memory.wfFrom, Bool.and_eq_true, decide_eq_true_eq, bne_iff_ne, ne_eq,
          not_false_eq_true]
        exact ⟨⟨⟨hlo, ha⟩, trivial⟩, ⟨⟨by omega, h2⟩, by simpa using h3⟩, h4⟩
    · by_cases heq : a = k
      · subst heq
        by_cases hv : v = Memory.unlisted
        · simp only [hlt, hv, if_true, if_false]
          exact memory_wfFrom_mono (by omega) h4
        · simp only [hlt, hv, if_true, if_false, Memory.wfFrom, Bool.and_eq_true, decide_eq_true_eq, bne_iff_ne, ne_eq,
            not_false_eq_true]
          exact ⟨⟨⟨hlo, ha⟩, trivial⟩, h4⟩
      · simp only [hlt, heq, if_false, Memory.wfFrom, Bool.and_eq_true, decide_eq_true_eq]
        exact ⟨⟨⟨h1, h2⟩, h3⟩, ih h4 (by omega)⟩

/-- A write keeps the canonical form of a whole memory. -/
theorem memory_wf_write {m : List Host.Cell} (h : Memory.wf m = true) {a : Nat} (ha : a < 4294967296) (v : Byte) :
    Memory.wf (Memory.write m a v) = true := memory_wfFrom_write h (Nat.zero_le a) ha v

/-- A byte read after a write of a canonical memory. -/
theorem memory_read_write {lo : Nat} {m : List Host.Cell} (h : Memory.wfFrom lo m = true) (a : Nat) (v : Byte)
    (b : Nat) : Memory.read (Memory.write m a v) b = if b = a then v else Memory.read m b := by
  induction m generalizing lo with
  | nil =>
    by_cases hv : v = Memory.unlisted <;> simp only [Memory.write, hv, if_true, if_false, Memory.read]
    · split <;> rfl
    · by_cases hb : a = b <;> simp [hb, eq_comm]
  | cons c m ih =>
    obtain ⟨k, x⟩ := c
    simp only [Memory.wfFrom, Bool.and_eq_true, decide_eq_true_eq] at h
    obtain ⟨⟨⟨h1, h2⟩, h3⟩, h4⟩ := h
    have below : ∀ {j}, j < k + 1 → Memory.read m j = Memory.unlisted := fun hj => memory_read_below h4 hj
    simp only [Memory.write]
    by_cases hlt : a < k
    · by_cases hv : v = Memory.unlisted
      · by_cases hb : b = a
        · subst hb
          simp only [hlt, hv, if_true, Memory.read, if_neg (show k ≠ b by omega)]
          exact below (by omega)
        · simp only [hlt, hv, if_true, if_neg hb]
      · simp only [hlt, hv, if_true, if_false, Memory.read]
        by_cases hb : b = a
        · simp [hb]
        · simp [hb, show ¬ a = b by omega]
    · by_cases heq : a = k
      · subst heq
        by_cases hv : v = Memory.unlisted
        · simp only [hlt, hv, if_true, if_false, Memory.read]
          by_cases hb : b = a
          · subst hb; simp only [if_true]; exact below (by omega)
          · simp only [if_neg hb, if_neg (show ¬ a = b by omega)]
        · simp only [hlt, hv, if_true, if_false, Memory.read]
          by_cases hb : b = a
          · simp [hb]
          · simp [hb, show ¬ a = b by omega]
      · simp only [hlt, heq, if_false, Memory.read]
        by_cases hb : k = b
        · simp [hb, show ¬ b = a by omega]
        · simp only [if_neg hb]; exact ih h4

/-! ### Bytes of the state -/

/-- A byte store keeps the canonical form. -/
theorem writeByte_wf {s : State} (h : Memory.wf s.mem = true) (a : Word) (v : Byte) :
    Memory.wf (writeByte s a v).mem = true := memory_wf_write h a.isLt v

/-- The byte stored is read back, every other byte is as before. -/
theorem readByte_writeByte {s : State} (h : Memory.wf s.mem = true) (a : Word) (v : Byte) (b : Word) :
    readByte (writeByte s a v) b = if b = a then v else readByte s b := by
  have := memory_read_write (lo := 0) h a.toNat v b.toNat
  simpa [readByte, writeByte, BitVec.toNat_inj] using this

/-- A sequence of byte stores writes no field but the memory. -/
theorem writeBytes_eq (s : State) (a : Word) (bs : List Byte) :
    writeBytes s a bs = { s with mem := (writeBytes s a bs).mem } := by
  induction bs generalizing s a with
  | nil => rfl
  | cons b bs ih => rw [writeBytes, ih]; rfl

/-- A sequence of byte stores keeps the canonical form. -/
theorem writeBytes_wf {s : State} (h : Memory.wf s.mem = true) (a : Word) (bs : List Byte) :
    Memory.wf (writeBytes s a bs).mem = true := by
  induction bs generalizing s a with
  | nil => exact h
  | cons b bs ih => exact ih (writeByte_wf h a b) (a + 1#32)

/-- After a sequence of byte stores that does not wrap past its own start, byte k of the sequence stands at a + k and
every other byte is as before. -/
theorem readByte_writeBytes {s : State} (h : Memory.wf s.mem = true) (a : Word) (bs : List Byte)
    (hn : bs.length ≤ 4294967296) (b : Word) :
    readByte (writeBytes s a bs) b = if (b - a).toNat < bs.length then bs.getD (b - a).toNat 0#8 else readByte s b := by
  induction bs generalizing s a with
  | nil => simp [writeBytes]
  | cons x bs ih =>
    simp only [List.length_cons] at hn
    rw [writeBytes, ih (writeByte_wf h a x) (a + 1#32) (by omega), readByte_writeByte h]
    by_cases hb : b = a
    · subst hb
      simp [show ¬ 4294967295 < bs.length by omega]
    · have h1 : (b - a).toNat = (b - (a + 1#32)).toNat + 1 := by bv_omega
      simp only [h1, List.length_cons, List.getD_cons_succ, Nat.add_lt_add_iff_right, if_neg hb]

/-- The beats of a burst write keep the canonical form. -/
theorem burstWriteBeats_wf {s : State} (h : Memory.wf s.mem = true) (x : BusTxn) (d : Vector Byte 32) (js : List Nat) :
    Memory.wf (burstWriteBeats s x d js).2.mem = true := by
  induction js generalizing s with
  | nil => exact h
  | cons j js ih =>
    simp only [burstWriteBeats]; split
    · exact h
    · apply ih; split
      · exact h
      · exact writeBytes_wf h _ _

/-- The beats of a burst write touch the memory alone. -/
theorem burstWriteBeats_eq (s : State) (x : BusTxn) (d : Vector Byte 32) (js : List Nat) :
    (burstWriteBeats s x d js).2 = { s with mem := (burstWriteBeats s x d js).2.mem } := by
  induction js generalizing s with
  | nil => rfl
  | cons j js ih =>
    simp only [burstWriteBeats]; split
    · rfl
    · split
      · exact ih s
      · rw [ih, writeBytes_eq]

/-- The memory after reset is canonical. -/
theorem reset_memory_wf : Memory.wf State.reset.mem = true := rfl

end Sys2Proof.Machine
end

