-- ==== Sys2Proof/Laws/Bus.lean ====
section
/-!
SUPPORT. What the bus can do to the state, said once: other masters, the processor's own transactions and how they end
touch only the fields of BusFrame and keep the memory canonical; and with an idle script a transaction is the answer of
the memory map and nothing else.
-/

namespace Sys2Proof.Machine

/-- Of the whole state only what the bus writes may differ: the data cache and memory (snooping, other masters and the
transactions' own writes), the log, the script, the count of the free values, the step cut short and the snoop copyback that failed. -/
def BusFrame (s t : State) : Prop :=
  t = { s with
    dcache := t.dcache, mem := t.mem, busLog := t.busLog, script := t.script, draws := t.draws,
    halted := t.halted, snoopFault := t.snoopFault }

/-- Memory is in canonical form, and so is what a step that was cut short keeps of it. -/
def Canonical (s : State) : Prop := Memory.wf s.mem = true ∧ ∀ h ∈ s.halted, Memory.wf h.mem = true

/-- What one bus operation keeps: every field but those of BusFrame, and the canonical form of memory. -/
structure BusKeeps (s t : State) : Prop where
  frame : BusFrame s t
  canonical : Canonical s → Canonical t

theorem BusKeeps.refl (s : State) : BusKeeps s s := ⟨rfl, id⟩

theorem BusKeeps.trans {s t u : State} (h : BusKeeps s t) (k : BusKeeps t u) : BusKeeps s u :=
  ⟨by
    have h1 := h.frame
    have k1 := k.frame
    unfold BusFrame at *
    rw [k1, h1], fun w => k.canonical (h.canonical w)⟩

/-! ### Small steps -/

theorem busKeeps_logTxn (s : State) (x : BusTxn) : BusKeeps s (logTxn s x) := ⟨rfl, id⟩

theorem busKeeps_drawn (s : State) : BusKeeps s (drawn s) := ⟨rfl, id⟩

theorem busKeeps_setDLine (s : State) (a : Word) (way : Bool) (l : DLine) : BusKeeps s (setDLine s a way l) := ⟨rfl, id⟩

/-- A transaction that is cut short keeps what was done until then, unless the step was cut short before. -/
theorem abandon_halted (c : Cut) (x : BusTxn) (s : State) :
    (abandon c x s).halted = s.halted.or (some (haltOf c.reset (logTxn s { x with error := true }))) := by
  unfold abandon; cases s.halted <;> rfl

theorem busKeeps_abandon (c : Cut) (x : BusTxn) (s : State) : BusKeeps s (abandon c x s) :=
  ⟨rfl, fun w => ⟨w.1, by
    intro h hh
    rw [abandon_halted] at hh
    cases k : s.halted with
    | none => rw [k] at hh; cases hh; exact w.1
    | some _ => rw [k] at hh; cases hh; exact w.2 h k⟩⟩

theorem busKeeps_writeBytes (s : State) (a : Word) (bs : List Byte) : BusKeeps s (writeBytes s a bs) :=
  ⟨by unfold BusFrame; rw [writeBytes_eq], fun h => ⟨writeBytes_wf h.1 a bs, by rw [writeBytes_eq]; exact h.2⟩⟩

theorem busKeeps_beats (s : State) (x : BusTxn) (d : Vector Byte 32) (js : List Nat) :
    BusKeeps s (burstWriteBeats s x d js).2 :=
  ⟨by unfold BusFrame; rw [burstWriteBeats_eq],
    fun h => ⟨burstWriteBeats_wf h.1 x d js, by rw [burstWriteBeats_eq]; exact h.2⟩⟩

theorem busKeeps_afterAnswer (s : State) (x : BusTxn) : BusKeeps s (afterAnswer s x) := by
  unfold afterAnswer; split
  · exact busKeeps_drawn s
  · exact .refl s

/-! ### Other masters -/

/-- A snoop copyback. -/
theorem busKeeps_snoopCopyback (t : Snoop) (way : Bool) (st : LineState) (s : State) :
    BusKeeps s (snoopCopyback t way st s).2 := by
  have hb := busKeeps_beats s (copybackTxn (lineAddress (dLine s t.addr way) t.addr) tcSnoop 0#2 way)
    (dLine s t.addr way).data
  simp only [snoopCopyback]; split
  · exact (hb _).trans (busKeeps_abandon _ _ _)
  · split
    · exact (hb _).trans ⟨rfl, id⟩
    · split
      · exact hb _
      · exact (hb _).trans ((busKeeps_logTxn _ _).trans (busKeeps_setDLine _ _ _ _))

/-- Snooping one transaction. -/
theorem busKeeps_snoop (t : Snoop) (s : State) : BusKeeps s (snoop t s).2 := by
  unfold snoop; split
  · exact .refl s
  · exact busKeeps_snoopCopyback t _ _ s
  · exact busKeeps_setDLine s _ _ _

/-- Another master's transaction. -/
theorem busKeeps_otherMaster (t : Snoop) (s : State) : BusKeeps s (otherMaster t s) := by
  have h := busKeeps_snoop t s
  simp only [otherMaster]; split
  · refine h.trans ?_
    unfold masterWrite; split
    · exact .refl _
    · exact busKeeps_writeBytes _ _ _
  · exact h

/-- What other masters do before an access. -/
theorem busKeeps_arbitrate (s : State) : BusKeeps s (arbitrate s) := by
  have fold : ∀ (g : List Snoop) (u : State), BusKeeps u (g.foldl (fun u t => otherMaster t u) u) := by
    intro g
    induction g with
    | nil => exact fun u => .refl u
    | cons t g ih => exact fun u => (busKeeps_otherMaster t u).trans (ih _)
  unfold arbitrate; split
  · exact .refl s
  · next g gs _ =>
    have h : BusKeeps s { s with script := { s.script with between := gs } } := ⟨rfl, id⟩
    exact h.trans (fold g _)

/-! ### Ends of transactions -/

theorem busKeeps_takeEnd (s : State) : BusKeeps s (takeEnd s).2 := by
  unfold takeEnd; split
  · exact .refl s
  · exact ⟨rfl, id⟩

/-- What is snooped while a transaction is outstanding. -/
theorem busKeeps_serveDuring (e : BusEnd) (x : BusTxn) (s : State) : BusKeeps s (serveDuring e x s).2 := by
  have one : ∀ (p : Option Snoop × State) (t : Snoop), BusKeeps p.2 (snoopDuring x p t).2 := by
    intro p t
    unfold snoopDuring; split
    · exact .refl _
    · split
      · exact .refl _
      · exact busKeeps_otherMaster t p.2
  have fold : ∀ (ts : List Snoop) (p : Option Snoop × State), BusKeeps p.2 (ts.foldl (snoopDuring x) p).2 := by
    intro ts
    induction ts with
    | nil => exact fun p => .refl _
    | cons t ts ih => exact fun p => (one p t).trans (ih _)
  exact (busKeeps_logTxn s x).trans
    (fold (if x.lk && s.env.lockHonoured then [] else e.during) (none, logTxn s x))

/-- The end of a transaction, with what was snooped meanwhile. -/
theorem busKeeps_closeTxn (e : BusEnd) (x : BusTxn) (s : State) : BusKeeps s (closeTxn e x s) := by
  have h := busKeeps_serveDuring e x s
  simp only [closeTxn]; split
  · exact h
  · split
    · exact h
    · exact h.trans (busKeeps_snoop _ _)

/-! ### Transactions of the processor -/

theorem busKeeps_busReadAt (s : State) (x : BusTxn) (a : Word) (n : Nat) : BusKeeps s (busReadAt s x a n).2 := by
  have h := busKeeps_takeEnd s
  simp only [busReadAt]; split
  · exact h.trans (busKeeps_abandon _ _ _)
  · split
    · exact h.trans (busKeeps_closeTxn _ _ _)
    · exact h.trans ((busKeeps_afterAnswer _ _).trans (busKeeps_closeTxn _ _ _))

theorem busKeeps_busRead (s : State) (x : BusTxn) (n : Nat) : BusKeeps s (busRead s x n).2 := busKeeps_busReadAt s x _ n

theorem busKeeps_busWriteKeep (keep : Bool) (s : State) (x : BusTxn) (bs : List Byte) :
    BusKeeps s (busWriteKeep keep s x bs).2 := by
  have h := busKeeps_takeEnd s
  simp only [busWriteKeep]; split
  · exact h.trans (busKeeps_abandon _ _ _)
  · split
    · exact h.trans (busKeeps_closeTxn _ _ _)
    · refine h.trans (BusKeeps.trans ?_ (busKeeps_closeTxn _ _ _))
      split
      · exact .refl _
      · exact busKeeps_writeBytes _ _ _

theorem busKeeps_busWrite (s : State) (x : BusTxn) (bs : List Byte) : BusKeeps s (busWrite s x bs).2 :=
  busKeeps_busWriteKeep false s x bs

theorem busKeeps_busAddressOnly (s : State) (x : BusTxn) : BusKeeps s (busAddressOnly s x).2 := by
  have h := busKeeps_takeEnd s
  simp only [busAddressOnly]; split
  · exact h.trans (busKeeps_abandon _ _ _)
  · exact h.trans (busKeeps_closeTxn _ _ _)

theorem busKeeps_burstRead (s : State) (x : BusTxn) : BusKeeps s (burstRead s x).2 := by
  have h := busKeeps_takeEnd s
  simp only [burstRead]; split
  · exact h.trans (busKeeps_abandon _ _ _)
  · refine h.trans (BusKeeps.trans ?_ (busKeeps_closeTxn _ _ _))
    split
    · exact busKeeps_drawn _
    · exact .refl _

theorem busKeeps_burstWrite (s : State) (x : BusTxn) (d : Vector Byte 32) (order : List Nat) :
    BusKeeps s (burstWrite s x d order).2 := by
  have h := busKeeps_takeEnd s
  simp only [burstWrite]; split
  · exact h.trans ((busKeeps_beats _ _ _ _).trans (busKeeps_abandon _ _ _))
  · exact h.trans ((busKeeps_beats _ _ _ _).trans (busKeeps_closeTxn _ _ _))

/-! ### An idle script -/

section
variable {s : State}

/-- Nobody else acts. -/
theorem arbitrate_idle (h : s.script = Script.idle) : arbitrate s = s := by simp [arbitrate, h, Script.idle]

/-- Nothing happens to a transaction. -/
theorem takeEnd_idle (h : s.script = Script.idle) : takeEnd s = (BusEnd.plain, s) := by simp [takeEnd, h, Script.idle]

/-- A transaction to which nothing happens is logged. -/
@[simp] theorem closeTxn_plain (x : BusTxn) (s : State) : closeTxn BusEnd.plain x s = logTxn s x := by
  simp [closeTxn, serveDuring, BusEnd.plain]

@[simp] theorem plain_cut : BusEnd.plain.cut = none := rfl
@[simp] theorem plain_retry : BusEnd.plain.retry = none := rfl
@[simp] theorem plain_shd : BusEnd.plain.shd = false := rfl

/-- Where memory alone answers, no transaction fails. -/
theorem failsAt_plain {a : Word} (h : plainAt s a = true) (x : BusTxn) : failsAt s x a = false := by
  have : s.env.regions.find? (fun r => regionCovers r a && attrsAdmit r.attrs x) = none := by
    rw [List.find?_eq_none]
    intro r hr
    have := List.all_eq_true.mp h r hr
    simp_all
  simp [failsAt, answerAt, this]

/-- Where memory alone answers, no device does. -/
theorem deviceAt_plain {a : Word} (h : plainAt s a = true) (x : BusTxn) : deviceAt s x a = false := by
  have : s.env.regions.find? (fun r => regionCovers r a && attrsAdmit r.attrs x) = none := by
    rw [List.find?_eq_none]
    intro r hr
    have := List.all_eq_true.mp h r hr
    simp_all
  simp [deviceAt, answerAt, this]

/-- A read of plain memory. -/
theorem busReadAt_plain (h : s.script = Script.idle) {x : BusTxn} (hx : plainAt s x.addr = true) (a : Word) (n : Nat) :
    busReadAt s x a n = (some (readBytes s a n), logTxn s x) := by
  simp [busReadAt, takeEnd_idle h, failsAt_plain hx, answerBytes, afterAnswer, deviceAt_plain hx]

/-- A write of plain memory. -/
theorem busWrite_plain (h : s.script = Script.idle) {x : BusTxn} (hx : plainAt s x.addr = true) (bs : List Byte) :
    busWriteKeep false s x bs = (true, logTxn (writeBytes s x.addr bs) { x with data := bs }) := by
  simp [busWriteKeep, takeEnd_idle h, failsAt_plain hx, deviceAt_plain hx]

end

end Sys2Proof.Machine
end

