-- ==== Sys2Proof/Laws/Ops.lean ====
section
/-!
SUPPORT. What each shared operation over registers, PSR and the sequence can do, said once: the lemmas that later proofs
cite instead of unfolding the operations.
-/

namespace Sys2Proof.Machine

/-! ### General registers -/

@[simp] theorem readReg_zero (s : State) : readReg s 0#5 = 0#32 := rfl

@[simp] theorem writeReg_zero (s : State) (v : Word) : writeReg s 0#5 v = s := rfl

/-- A write changes the register it names, and r0 never. -/
theorem readReg_writeReg (s : State) (d r : RegNum) (v : Word) :
    readReg (writeReg s d v) r = if r = d ∧ d ≠ 0#5 then v else readReg s r := by
  by_cases hd : d = 0#5
  · subst hd; simp
  · by_cases hr : r = d
    · subst hr; simp [readReg, writeReg, hd]
    · have hn : ¬ d.toNat = r.toNat := fun h => hr (BitVec.eq_of_toNat_eq h.symm)
      simp [readReg, writeReg, hd, hr, hn]

/-- A write touches the general register file alone. -/
theorem writeReg_frame (s : State) (d : RegNum) (v : Word) :
    writeReg s d v = { s with gpr := (writeReg s d v).gpr } := by
  unfold writeReg; split <;> rfl

/-- Only the general register file is read. -/
theorem readReg_congr {s t : State} (h : t.gpr = s.gpr) (r : RegNum) : readReg t r = readReg s r := by
  simp [readReg, h]

/-- Only memory is read. -/
theorem readByte_congr {s t : State} (h : t.mem = s.mem) (a : Word) : readByte t a = readByte s a := by
  simp [readByte, h]

/-- An odd pair is told by the register number. -/
theorem oddReg_eq (d : RegNum) : oddReg d = decide (d.toNat % 2 = 1) := by
  revert d; decide

/-- The successor of an even register is another one, and not r0. -/
theorem even_succ (d : RegNum) (h : d.toNat % 2 = 0) : d + 1#5 ≠ d ∧ d + 1#5 ≠ 0#5 := by
  revert d; decide

/-- A pair is its two registers, the even one the higher. -/
theorem readPair_toNat (s : State) (d : RegNum) :
    (readPair s d).toNat = (readReg s d).toNat * 4294967296 + (readReg s (d + 1#5)).toNat := by
  have h := (readReg s (d + 1#5)).isLt
  rw [readPair, BitVec.toNat_append, ← Nat.shiftLeft_add_eq_or_of_lt h, Nat.shiftLeft_eq]

/-- Writing an even pair: the high half goes to the even register unless it is r0, the low half to the odd one. -/
theorem readReg_writePair (s : State) (d r : RegNum) (v : DWord) (h : d.toNat % 2 = 0) :
    readReg (writePair s d v) r
      = if r = d + 1#5 then v.extractLsb' 0 32 else if r = d ∧ d ≠ 0#5 then v.extractLsb' 32 32 else readReg s r := by
  obtain ⟨-, h0⟩ := even_succ d h
  simp [writePair, readReg_writeReg, h0]

/-- Writing a pair touches the general register file alone. -/
theorem writePair_frame (s : State) (d : RegNum) (v : DWord) :
    writePair s d v = { s with gpr := (writePair s d v).gpr } := by
  unfold writePair
  rw [writeReg_frame (writeReg s d _), writeReg_frame s d]

/-! ### Extended registers -/

@[simp] theorem readX_zero (s : State) : readX s 0#5 = 0#80 := rfl

@[simp] theorem writeX_zero (s : State) (v : XWord) : writeX s 0#5 v = s := rfl

/-- A write changes the extended register it names, and x0 never. -/
theorem readX_writeX (s : State) (d r : RegNum) (v : XWord) :
    readX (writeX s d v) r = if r = d ∧ d ≠ 0#5 then v else readX s r := by
  by_cases hd : d = 0#5
  · subst hd; simp
  · by_cases hr : r = d
    · subst hr; simp [readX, writeX, hd]
    · have hn : ¬ d.toNat = r.toNat := fun h => hr (BitVec.eq_of_toNat_eq h.symm)
      simp [readX, writeX, hd, hr, hn]

/-- A write touches the extended file and FPSR alone. -/
theorem writeX_frame (s : State) (d : RegNum) (v : XWord) :
    writeX s d v = { s with xrf := (writeX s d v).xrf, fpsr := (writeX s d v).fpsr } := by
  unfold writeX; split <;> rfl

/-- Only the extended file is read. -/
theorem readX_congr {s t : State} (h : t.xrf = s.xrf) (r : RegNum) : readX t r = readX s r := by
  simp [readX, h]

/-! ### Single bits -/

/-- Bit i of a word with one bit of its own is whether i is that bit's number. -/
theorem getLsbD_twoPow_lit (k i : Nat) (hk : k < 32) :
    (BitVec.twoPow 32 k).getLsbD i = decide (i = k) := by
  rw [BitVec.getLsbD_twoPow]
  by_cases h : i = k
  · subst h; simp [hk]
  · have h' : ¬ k = i := fun e => h e.symm
    simp [h, h']

/-- A write of an extended register other than x0 sets FPSR.XMOD, and changes no other bit of FPSR. -/
theorem writeX_fpsr_bit (s : State) (d : RegNum) (v : XWord) (i : Nat) :
    (writeX s d v).fpsr.getLsbD i = ((decide (i = 16) && d != 0#5) || s.fpsr.getLsbD i) := by
  by_cases hd : d = 0#5
  · subst hd; simp
  · have : (0x00010000#32 : Word) = BitVec.twoPow 32 16 := rfl
    simp only [writeX, hd, if_false, BitVec.getLsbD_or, this, getLsbD_twoPow_lit _ _ (by decide : 16 < 32)]
    have hb : (d != 0#5) = true := by simpa using hd
    simp [hb, Bool.or_comm]

/-- setCarry writes bit 28 of PSR, and no other bit. -/
theorem setCarry_psr_bit (s : State) (c : Bool) (i : Nat) (hi : i < 32) :
    (setCarry s c).psr.getLsbD i = if i = 28 then c else s.psr.getLsbD i := by
  have h1 : (0x10000000#32 : Word) = BitVec.twoPow 32 28 := rfl
  have h2 : (0xEFFFFFFF#32 : Word) = ~~~BitVec.twoPow 32 28 := rfl
  cases c
  · simp only [setCarry, Bool.false_eq_true, if_false, BitVec.getLsbD_and, h2, BitVec.getLsbD_not,
      getLsbD_twoPow_lit _ _ (by decide : 28 < 32)]
    by_cases h : i = 28 <;> simp [h, hi]
  · simp only [setCarry, if_true, BitVec.getLsbD_or, h1, getLsbD_twoPow_lit _ _ (by decide : 28 < 32)]
    by_cases h : i = 28 <;> simp [h]

/-- Carry out of a word that stays the same word leaves PSR as it is. -/
theorem setCarry_same (s : State) : setCarry s (psrCarry s) = s := by
  have h : (setCarry s (psrCarry s)).psr = s.psr := by
    refine BitVec.eq_of_getLsbD_eq fun i hi => ?_
    rw [setCarry_psr_bit _ _ _ hi]
    split
    · next h => subst h; rfl
    · rfl
  have : setCarry s (psrCarry s) = { s with psr := (setCarry s (psrCarry s)).psr } := rfl
  rw [this, h]

/-- An exception sets MODE, SFD2, SFD1, IND and EFRZ, and leaves the other bits of PSR. -/
theorem takeException_psr_bit (e : Exc) (s : State) (i : Nat) (hi : i < 32) :
    (takeException e s).psr.getLsbD i = (decide (i ∈ [31, 4, 3, 1, 0]) || s.psr.getLsbD i) := by
  have h : ∀ j : Fin 32, (0x8000001B#32 : Word).getLsbD j.val = decide (j.val ∈ [31, 4, 3, 1, 0]) := by decide
  have := h ⟨i, hi⟩
  simp only [takeException, BitVec.getLsbD_or, this, Bool.or_comm]

/-- The address of a vector: the upper 20 bits of VBR, the number, three zeros. -/
theorem vectorAddress_eq (s : State) (n : BitVec 9) : vectorAddress s n = s.vbr.extractLsb' 12 20 ++ n ++ 0#3 := by
  refine BitVec.eq_of_getLsbD_eq fun i hi => ?_
  have h : ∀ j : Fin 32, (0xFFFFF000#32 : Word).getLsbD j.val = decide (12 ≤ j.val) := by decide
  have hm := h ⟨i, hi⟩
  simp only at hm
  simp only [vectorAddress, BitVec.getLsbD_or, BitVec.getLsbD_and, hm, BitVec.getLsbD_shiftLeft,
    BitVec.getLsbD_setWidth, BitVec.getLsbD_append, BitVec.getLsbD_extractLsb']
  by_cases h3 : i < 3
  · have h12 : ¬ 12 ≤ i := by omega
    simp [h3, h12]
  · by_cases h12 : i < 12
    · have h12' : ¬ 12 ≤ i := by omega
      have : i - 3 < 9 := by omega
      simp [h3, h12', this, hi]; omega
    · have hn : n.getLsbD (i - 3) = false := BitVec.getLsbD_of_ge _ _ (by omega)
      have e1 : 12 + (i - 3 - 9) = i := by omega
      have e2 : ¬ i - 3 < 9 := by omega
      have e3 : i - 3 - 9 < 20 := by omega
      have e4 : 12 ≤ i := by omega
      simp [h3, hn, e1, e2, e3, e4]

/-- The pointer an exception saves: the instruction's word address, a zero, the delay-slot bit. -/
theorem exipOf_eq (s : State) : exipOf s = s.xip.extractLsb' 2 30 ++ 0#1 ++ BitVec.ofBool s.ds := by
  refine BitVec.eq_of_getLsbD_eq fun i hi => ?_
  have h : ∀ j : Fin 32, (0xFFFFFFFC#32 : Word).getLsbD j.val = decide (2 ≤ j.val) := by decide
  have hm := h ⟨i, hi⟩
  simp only at hm
  simp only [exipOf, BitVec.getLsbD_or, BitVec.getLsbD_and, hm, BitVec.getLsbD_append,
    BitVec.getLsbD_extractLsb']
  rcases i with _ | _ | i
  · cases s.ds <;> simp
  · cases s.ds <;> simp
  · have e1 : 2 + (i + 1 + 1 - 1 - 1) = i + 1 + 1 := by omega
    have e2 : i + 1 + 1 - 1 - 1 < 30 := by omega
    have e3 : (if s.ds = true then (1#32 : Word) else 0#32).getLsbD (i + 1 + 1) = false := by
      cases s.ds <;> simp
    simp only [e3]
    have e4 : 2 + i = i + 1 + 1 := by omega
    have e5 : i < 30 := by omega
    simp [e4, e5]

/-- What PSR or EPSR keeps of a written word: MODE, BO, SER, C, SGN, SRM and the low five bits; bits 9 to 5 are one. -/
theorem psrLegal_bit (v : Word) (i : Nat) (hi : i < 32) :
    (psrLegal v).getLsbD i
      = ((decide (i ∈ [31, 30, 29, 28, 26, 25, 4, 3, 2, 1, 0]) && v.getLsbD i) || decide (i ∈ [9, 8, 7, 6, 5])) := by
  have h1 : ∀ j : Fin 32, (0xF600001F#32 : Word).getLsbD j.val
      = decide (j.val ∈ [31, 30, 29, 28, 26, 25, 4, 3, 2, 1, 0]) := by decide
  have h2 : ∀ j : Fin 32, (0x000003E0#32 : Word).getLsbD j.val = decide (j.val ∈ [9, 8, 7, 6, 5]) := by decide
  have := h1 ⟨i, hi⟩
  have := h2 ⟨i, hi⟩
  simp_all only [psrLegal, BitVec.getLsbD_or, BitVec.getLsbD_and, Bool.and_comm]

/-! ### How a meaning ends -/

/-- Completing with one general register written. -/
theorem sets_advance_writeReg (s : State) (d : RegNum) (v : Word) : Sets d v s (advance (writeReg s d v)) where
  reads r := by rw [readReg_congr (advance_gpr _), readReg_writeReg]
  frame := by rw [writeReg_frame]; rfl
  memory a := readByte_congr (by simp) a

/-- An instruction that ends in result writes one general register and falls through. -/
theorem does_of_result {i : Instr} {s : State} {d : RegNum} {v : Word} (h : exec i s = result d v s) :
    Does i s (Sets d v s) :=
  ⟨_, h, sets_advance_writeReg s d v⟩

/-- Completing with an even pair written. -/
theorem setsPair_advance_writePair (s : State) (d : RegNum) (v : DWord) (h : d.toNat % 2 = 0) :
    SetsPair d (v.extractLsb' 32 32) (v.extractLsb' 0 32) s (advance (writePair s d v)) where
  reads r := by rw [readReg_congr (advance_gpr _), readReg_writePair _ _ _ _ h]
  frame := by rw [writePair_frame]; rfl
  memory a := readByte_congr (by simp) a

/-- Completing with one general register and PSR.C written. -/
theorem setsCarry_advance (s : State) (d : RegNum) (v : Word) (c : Bool) :
    SetsCarry d v c s (advance (writeReg (setCarry s c) d v)) where
  reads r := by
    rw [readReg_congr (advance_gpr _), readReg_writeReg, readReg_congr (setCarry_gpr _ _)]
  carry i hi := by rw [advance_psr, writeReg_psr, setCarry_psr_bit _ _ _ hi]
  frame := by rw [writeReg_frame]; rfl
  memory a := readByte_congr (by simp) a

/-- Falling through with nothing written. -/
theorem fallsThrough_advance (s : State) : FallsThrough s (advance s) := ⟨rfl, fun _ => rfl⟩

@[simp] theorem finish_ok (s : State) : finish (.ok () s) = .next (advance s) := rfl
@[simp] theorem finish_trap (e : Exc) (s : State) : finish (.trap e s) = .next (takeException e s) := rfl
@[simp] theorem finish_stop (f : Fault) : finish (.stop f) = .fault f := rfl
@[simp] theorem raise_eq (e : Exc) (s : State) : raise e s = .next (takeException e s) := rfl
@[simp] theorem done_eq (s : State) : done s = .next (advance s) := rfl

end Sys2Proof.Machine
end

