-- ==== Sys2Proof/Laws/Access.lean ====
section
/-!
SUPPORT. What a data access does in its plain setting (PlainData of Sys2Proof/Safety.lean), and the bytes of an operand in
the two byte orders.
-/

namespace Sys2Proof.Machine

/-! ### Bytes of an operand -/

@[simp] theorem readBytes_length (s : State) (a : Word) (n : Nat) : (readBytes s a n).length = n := by
  induction n generalizing a with
  | zero => rfl
  | succ n ih => simp [readBytes, ih]

/-- Byte k of a sequence read from memory stands at a + k. -/
theorem readBytes_getD (s : State) (a : Word) (n k : Nat) (h : k < n) :
    (readBytes s a n).getD k 0#8 = readByte s (a + BitVec.ofNat 32 k) := by
  induction n generalizing a k with
  | zero => omega
  | succ n ih =>
    cases k with
    | zero => simp [readBytes]
    | succ k =>
      have e : a + 1#32 + BitVec.ofNat 32 k = a + BitVec.ofNat 32 (k + 1) := by
        apply BitVec.eq_of_toNat_eq; simp [BitVec.toNat_add]; omega
      rw [readBytes, List.getD_cons_succ, ih _ _ (by omega), e]

@[simp] theorem bytesBE_length (n v : Nat) : (bytesBE n v).length = n := by
  induction n with
  | zero => rfl
  | succ n ih => simp [bytesBE, ih]

@[simp] theorem operandBytes_length (s : State) (n v : Nat) : (operandBytes s n v).length = n := by
  unfold operandBytes; split <;> simp

/-- Byte k of a big-endian sequence of n bytes has place n - 1 - k. -/
theorem bytesBE_getD (n v k : Nat) (h : k < n) :
    ((bytesBE n v).getD k 0#8).toNat = v / 256 ^ (n - 1 - k) % 256 := by
  induction n generalizing k with
  | zero => omega
  | succ n ih =>
    cases k with
    | zero => simp [bytesBE]
    | succ k =>
      rw [bytesBE, List.getD_cons_succ, ih _ (by omega)]
      congr 3; omega

/-- Byte k of an operand as memory holds it. -/
theorem operandBytes_getD (s : State) (n v k : Nat) (h : k < n) :
    ((operandBytes s n v).getD k 0#8).toNat = v / 256 ^ bytePlace s n k % 256 := by
  unfold operandBytes bytePlace
  cases psrBo s
  · simpa using bytesBE_getD n v k h
  · have hk : n - 1 - k < n := by omega
    have e : n - 1 - (n - 1 - k) = k := by omega
    have := bytesBE_getD n v (n - 1 - k) hk
    rw [e] at this
    simp only [if_true]
    rw [List.getD_eq_getElem?_getD] at this ⊢
    rw [List.getElem?_reverse (by simpa using h)]
    simpa using this

/-! ### The checks -/

/-- An n-byte access, n a power of two, uses the address that n divides. -/
theorem alignAddr_eq_some {s : State} {n : Nat} {ea a : Word} (h : alignAddr s n ea = some a) :
    a = ea ∧ ea &&& BitVec.ofNat 32 (n - 1) = 0#32 ∨ psrMxm s = true ∧ a = ea &&& ~~~BitVec.ofNat 32 (n - 1) := by
  simp only [alignAddr] at h
  by_cases h0 : ea &&& BitVec.ofNat 32 (n - 1) = 0#32
  · rw [if_pos h0] at h; exact .inl ⟨(Option.some.inj h).symm, h0⟩
  · rw [if_neg h0] at h
    by_cases h1 : psrMxm s = true
    · rw [if_pos h1] at h; exact .inr ⟨h1, (Option.some.inj h).symm⟩
    · rw [if_neg h1] at h; cases h

/-- An access raises the misaligned access exception only with PSR.MXM 0. -/
theorem alignAddr_eq_none {s : State} {n : Nat} {ea : Word} (h : alignAddr s n ea = none) :
    psrMxm s = false ∧ ea &&& BitVec.ofNat 32 (n - 1) ≠ 0#32 := by
  simp only [alignAddr] at h
  by_cases h0 : ea &&& BitVec.ofNat 32 (n - 1) = 0#32
  · rw [if_pos h0] at h; cases h
  · rw [if_neg h0] at h
    by_cases h1 : psrMxm s = true
    · rw [if_pos h1] at h; cases h
    · exact ⟨by simpa using h1, h0⟩

/-- .usr is no violation in supervisor mode, and none where it is absent. -/
theorem usrViolation_eq_false {s : State} {usr : Bool} (h : usr = true → psrMode s = true) :
    usrViolation s usr = false := by
  cases usr
  · rfl
  · simp [usrViolation, h rfl]

/-! ### The plain setting -/

section
variable {s : State} {a : Word}

/-- In the plain setting no transaction fails. -/
theorem PlainData.failsAt (h : PlainData s a) (x : BusTxn) : failsAt s x a = false := failsAt_plain h.memory x

/-- In the plain setting memory answers. -/
theorem PlainData.deviceAt (h : PlainData s a) (x : BusTxn) : deviceAt s x a = false := deviceAt_plain h.memory x

/-- In the plain setting the cache is not accessed. -/
theorem PlainData.dCacheOff (h : PlainData s a) : dCacheOn s = false := by simp [dCacheOn, h.cache]

/-- In the plain setting the address is its own translation, and no breakpoint stops the access. -/
theorem PlainData.dataAddress (h : PlainData s a) (su write : Bool) :
    dataAddress su write a s = .ok (identity s.dmu su a) s := by
  simp [Machine.dataAddress, breakpointMatch, h.bp0, h.bp1, translate, mmuOf, h.mmu]

/-- In the plain setting nothing is evicted. -/
theorem PlainData.evictHit (h : PlainData s a) (b : Word) (w : Bool) : evictHit s b w = .ok () s := by
  simp [Machine.evictHit, h.dCacheOff]

/-- In the plain setting a read is one transaction that returns memory's bytes. -/
theorem PlainData.dataRead (h : PlainData s a) (q : Req) (hq : q.x.pa = a) (n : Nat) :
    dataRead q n s = .ok (readBytes s a n) (logTxn s (reqTxn q true)) := by
  have ha : (reqTxn q true).addr = a := hq
  have hp : plainAt s (reqTxn q true).addr = true := ha ▸ h.memory
  simp [Machine.dataRead, arbitrate_idle h.idle, readLookup, h.dCacheOff, hq, h.evictHit, readSingle, busRead,
    busReadAt_plain h.idle hp, ha]

/-- In the plain setting a write of at most a double word is one transaction that stores the bytes; for the lower double
word of a quad word memory answers at the upper one too. -/
theorem PlainData.dataWrite (h : PlainData s a) {first : Bool} (hf : first = true → plainAt s (a + 8#32) = true)
    (q : Req) (hq : q.x.pa = a) (bs : List Byte) :
    ∃ t, dataWrite first q bs s = .ok () (logTxn (writeBytes s a bs) t) := by
  have hu : ∀ x, (first && Machine.failsAt s x (a + 8#32)) = false := by
    intro x; cases first
    · rfl
    · exact failsAt_plain (hf rfl) x
  have ha : (reqTxn { q with wt := false } false).addr = a := hq
  have hp : plainAt s (reqTxn { q with wt := false } false).addr = true := ha ▸ h.memory
  refine ⟨{ reqTxn { q with wt := false } false with data := bs }, ?_⟩
  simp only [Machine.dataWrite, arbitrate_idle h.idle, writeLookup, h.dCacheOff, hq, h.evictHit, Bool.not_false,
    Bool.or_true, if_true, writeSingle, Req.upper, hu, busWrite_plain h.idle hp, ha]

/-- In the plain setting the translated read of an operand of at most a double word. -/
theorem PlainData.readAt (h : PlainData s a) (su : Bool) (n : Nat) (hn : n ≤ 8) :
    ∃ t, readAt su n a s = .ok (readBytes s a n) (logTxn s t) := by
  have h16 : ¬ n = 16 := by omega
  exact ⟨_, by simp only [Machine.readAt, h.dataAddress, readOperand, h16, if_false]; exact h.dataRead _ rfl n⟩

/-- In the plain setting a load of at most a double word reads memory's bytes at the aligned address. -/
theorem PlainData.loadValue (h : PlainData s a) {usr : Bool} (hu : usr = true → psrMode s = true) {n : Nat} (hn : n ≤ 8)
    {ea : Word} (ha : alignAddr s n ea = some a) :
    ∃ t, loadValue usr n ea s = .ok (operandValue s (readBytes s a n)) (logTxn s t) := by
  obtain ⟨t, ht⟩ := h.readAt (spaceOf s usr) n hn
  exact ⟨t, by
    simp only [Machine.loadValue, usrViolation_eq_false hu, Bool.false_eq_true, if_false, ha, ht, settle]
    rfl⟩

/-- In the plain setting a store of at most a double word stores the operand's bytes at the aligned address. -/
theorem PlainData.storeValue (h : PlainData s a) {usr wt : Bool} (hu : usr = true → psrMode s = true) {n : Nat}
    (hn : n ≤ 8) {ea : Word} (ha : alignAddr s n ea = some a) (v : Nat) :
    ∃ t, storeValue usr wt n ea v s = .ok () (logTxn (writeBytes s a (operandBytes s n v)) t) := by
  obtain ⟨t, ht⟩ := h.dataWrite (first := false) nofun
    (dataReq (identity s.dmu (spaceOf s usr) a) (spaceOf s usr) n wt) rfl (operandBytes s n v)
  have h16 : ¬ n = 16 := by omega
  exact ⟨t, by
    simp only [Machine.storeValue, usrViolation_eq_false hu, Bool.false_eq_true, if_false, ha, writeAt, writeOperand,
      h16, h.dataAddress, ht, settle]⟩

end

end Sys2Proof.Machine
end

