-- ==== Sys2Proof/Laws/Cache.lean ====
section
/-!
SUPPORT. What the caches can do to the state, said once: every data access, cache-control load, cache command and fetch
of a word touches only the caches, their bias bits and what the bus writes, and keeps the memory canonical.
-/

namespace Sys2Proof.Machine

/-- The state a memory operation ends in, with a value or with a fault. -/
def MRes.last {α : Type} : MRes α → State
  | .ok _ s => s
  | .fail _ s => s

@[simp] theorem MRes.last_ok {α : Type} (a : α) (s : State) : (MRes.ok a s).last = s := rfl
@[simp] theorem MRes.last_fail {α : Type} (f : MemFault) (s : State) : (MRes.fail f s : MRes α).last = s := rfl

/-- What one cache operation keeps: every field but the cache arrays, the bias bits and those of the bus, and the
canonical form of memory. -/
structure CacheKeeps (s t : State) : Prop where
  frame : t = { s with
    icache := t.icache, dcache := t.dcache, ibias := t.ibias, dbias := t.dbias, mem := t.mem, busLog := t.busLog,
    script := t.script, draws := t.draws, halted := t.halted, snoopFault := t.snoopFault }
  canonical : Canonical s → Canonical t

theorem CacheKeeps.refl (s : State) : CacheKeeps s s := ⟨rfl, id⟩

theorem CacheKeeps.trans {s t u : State} (h : CacheKeeps s t) (k : CacheKeeps t u) : CacheKeeps s u :=
  ⟨by rw [k.frame, h.frame], fun w => k.canonical (h.canonical w)⟩

theorem BusKeeps.cache {s t : State} (h : BusKeeps s t) : CacheKeeps s t :=
  ⟨by have := h.frame; unfold BusFrame at this; rw [this], h.canonical⟩

theorem cacheKeeps_setILine (s : State) (a : Word) (way : Bool) (l : ILine) : CacheKeeps s (setILine s a way l) :=
  ⟨rfl, id⟩

theorem cacheKeeps_setDLine (s : State) (a : Word) (way : Bool) (l : DLine) : CacheKeeps s (setDLine s a way l) :=
  ⟨rfl, id⟩

/-! ### Copybacks and room -/

theorem busKeeps_copyback (s : State) (a : Word) (way : Bool) (tc : BitVec 4) (tsiz : BitVec 2) (order : List Nat) :
    BusKeeps s (copyback s a way tc tsiz order).2 := busKeeps_burstWrite _ _ _ _

theorem cacheKeeps_saveVictim (s : State) (a : Word) (way write : Bool) :
    CacheKeeps s (saveVictim s a way write).last := by
  have h := busKeeps_copyback s a way (tcData true) 0#2 (beatOrder a)
  simp only [saveVictim]; split
  · split
    · exact (h.trans (busKeeps_arbitrate _)).cache
    · exact h.cache
  · exact .refl s

theorem cacheKeeps_makeRoom (s : State) (a : Word) (way write : Bool) :
    CacheKeeps s (makeRoom s a way write).last := by
  have h := cacheKeeps_saveVictim s a way write
  unfold makeRoom; split
  · next hs => rw [hs] at h; exact h.trans (cacheKeeps_setDLine _ _ _ _)
  · next hs => rw [hs] at h; exact h

theorem cacheKeeps_evictHit (s : State) (a : Word) (write : Bool) : CacheKeeps s (evictHit s a write).last := by
  unfold evictHit; split
  · split
    · exact cacheKeeps_makeRoom _ _ _ _
    · exact .refl s
  · exact .refl s

/-! ### Data reads -/

theorem cacheKeeps_readSingle (q : Req) (n : Nat) (s : State) : CacheKeeps s (readSingle q n s).last := by
  have h := (busKeeps_busRead s (reqTxn q true) n).cache
  simp only [readSingle]; split <;> exact h

theorem cacheKeeps_readFill (q : Req) (n : Nat) (way : Bool) (s : State) : CacheKeeps s (readFill q n way s).last := by
  have h := cacheKeeps_makeRoom s q.x.pa way false
  unfold readFill; split
  · next hs => rw [hs] at h; exact h
  · next s1 hs =>
    rw [hs] at h
    have k := h.trans (busKeeps_burstRead s1 (fillTxn q false way)).cache
    simp only; split
    · exact k
    · simp only [MRes.last_ok]; split
      · exact k.trans ⟨rfl, id⟩
      · exact k

theorem cacheKeeps_readLookup (q : Req) (n : Nat) (s : State) : CacheKeeps s (readLookup q n s).last := by
  unfold readLookup; split
  · have h := cacheKeeps_evictHit s q.x.pa false
    split
    · next hs => rw [hs] at h; exact h
    · next hs => rw [hs] at h; exact h.trans (cacheKeeps_readSingle _ _ _)
  · split
    · exact .refl s
    · split
      · exact cacheKeeps_readFill _ _ _ _
      · exact cacheKeeps_readSingle _ _ _

/-- A data read. -/
theorem cacheKeeps_dataRead (q : Req) (n : Nat) (s : State) : CacheKeeps s (dataRead q n s).last :=
  (busKeeps_arbitrate s).cache.trans (cacheKeeps_readLookup q n _)

/-! ### Data writes -/

theorem cacheKeeps_writeSingle (first : Bool) (q : Req) (bs : List Byte) (s : State) :
    CacheKeeps s (writeSingle first q bs s).last := by
  simp only [writeSingle]; split <;> exact (busKeeps_busWriteKeep _ _ _ _).cache

theorem cacheKeeps_writeBackHit (q : Req) (bs : List Byte) (way : Bool) (s : State) :
    CacheKeeps s (writeBackHit q bs way s).last := by
  have h := (busKeeps_busAddressOnly s (invalidateTxn q way)).cache
  simp only [writeBackHit]; split
  · split
    · exact h.trans (cacheKeeps_setDLine _ _ _ _)
    · exact h
  · exact cacheKeeps_setDLine _ _ _ _

theorem cacheKeeps_writeAllocate (q : Req) (bs : List Byte) (way : Bool) (s : State) :
    CacheKeeps s (writeAllocate q bs way s).last := by
  have h := cacheKeeps_makeRoom s q.x.pa way true
  unfold writeAllocate; split
  · next hs => rw [hs] at h; exact h
  · next s1 hs =>
    rw [hs] at h
    have k := h.trans (busKeeps_burstRead s1 (fillTxn q true way)).cache
    simp only; split
    · exact k.trans ⟨rfl, id⟩
    · exact k

theorem cacheKeeps_writeLookup (first : Bool) (q : Req) (bs : List Byte) (s : State) :
    CacheKeeps s (writeLookup first q bs s).last := by
  unfold writeLookup; split
  · have h := cacheKeeps_evictHit s q.x.pa true
    split
    · next hs => rw [hs] at h; exact h
    · next hs => rw [hs] at h; exact h.trans (cacheKeeps_writeSingle _ _ _ _)
  · split
    · split
      · exact (cacheKeeps_setDLine _ _ _ _).trans (cacheKeeps_writeSingle _ _ _ _)
      · exact cacheKeeps_writeSingle _ _ _ _
    · split
      · exact cacheKeeps_writeBackHit _ _ _ _
      · split
        · exact cacheKeeps_writeAllocate _ _ _ _
        · exact cacheKeeps_writeSingle _ _ _ _

/-- A data write. -/
theorem cacheKeeps_dataWrite (first : Bool) (q : Req) (bs : List Byte) (s : State) :
    CacheKeeps s (dataWrite first q bs s).last :=
  (busKeeps_arbitrate s).cache.trans (cacheKeeps_writeLookup first q bs _)

/-- The write of an operand of any size, a quad word as its two halves. -/
theorem cacheKeeps_writeOperand (x : Xlate) (su wt : Bool) (n : Nat) (bs : List Byte) (s : State) :
    CacheKeeps s (writeOperand x su wt n bs s).last := by
  unfold writeOperand; split
  · have h := cacheKeeps_dataWrite true (dataReq x su 8 wt) (bs.take 8) s
    split
    · next hs => rw [hs] at h; exact h
    · next hs => rw [hs] at h; exact h.trans (cacheKeeps_dataWrite _ _ _ _)
  · exact cacheKeeps_dataWrite _ _ _ _

/-! ### Exchange and cache-control loads -/

theorem busKeeps_betweenHalves (s : State) : BusKeeps s (betweenHalves s) := by
  unfold betweenHalves; split
  · exact .refl s
  · exact busKeeps_arbitrate s

/-- The two halves of xmem. -/
theorem cacheKeeps_exchange (q : Req) (n : Nat) (bs : List Byte) (s : State) :
    CacheKeeps s (exchange q n bs s).last := by
  have h := (busKeeps_arbitrate s).cache.trans (cacheKeeps_evictHit (arbitrate s) q.x.pa true)
  unfold exchange; split
  · next hs => rw [hs] at h; exact h
  · next s1 hs =>
    rw [hs] at h
    simp only; split
    · have w := fun k => busKeeps_busWriteKeep k s1 (lockedTxn q false) bs
      split
      · have r := fun k => ((w k).trans (busKeeps_betweenHalves _)).trans (busKeeps_busRead _ (lockedTxn q true) n)
        split <;> exact h.trans (r _).cache
      · exact h.trans (w _).cache
    · have r := busKeeps_busRead s1 (lockedTxn q true) n
      split
      · exact h.trans r.cache
      · have w := (r.trans (busKeeps_betweenHalves _)).trans (busKeeps_busWrite _ (lockedTxn q false) bs)
        split <;> exact h.trans w.cache

/-- The touch load's fill. -/
theorem cacheKeeps_touch (q : Req) (s : State) : CacheKeeps s (touch q s) := by
  have h := cacheKeeps_dataRead q 1 s
  unfold touch; split <;> next hs => rw [hs] at h; exact h

/-- The flush load's copyback. -/
theorem cacheKeeps_flushLine (q : Req) (s : State) : CacheKeeps s (flushLine q s).last := by
  have look : ∀ u, CacheKeeps u (flushLookup q u).last := by
    intro u
    simp only [flushLookup]; split
    · split
      · split
        · next way _ _ =>
          have h := (busKeeps_copyback u q.x.pa way q.tc 1#2 (beatOrder q.x.pa)).cache
          split
          · exact h.trans (cacheKeeps_setDLine _ _ _ _)
          · exact h
        · exact .refl u
      · exact .refl u
    · exact .refl u
  exact (busKeeps_arbitrate s).cache.trans (look _)

/-- The allocate load's line. -/
theorem cacheKeeps_allocate (q : Req) (s : State) : CacheKeeps s (allocate q s) := by
  have look : ∀ u, CacheKeeps u (allocateLookup q u) := by
    intro u
    unfold allocateLookup; split
    · exact (busKeeps_busAddressOnly _ _).cache
    · split
      · exact .refl u
      · split
        · exact (busKeeps_busAddressOnly _ _).cache
        · next way _ =>
          have h := cacheKeeps_saveVictim u q.x.pa way false
          split
          · next hs => rw [hs] at h; exact h
          · next s1 hs =>
            rw [hs] at h
            have k := h.trans (busKeeps_busAddressOnly s1 (allocateTxn q (some way))).cache
            simp only; split
            · exact k.trans ⟨rfl, id⟩
            · exact k
  exact (busKeeps_arbitrate s).cache.trans (look _)

/-! ### Fetching a word -/

/-- The fetch of a word at a physical address. -/
theorem cacheKeeps_fetchWord (x : Xlate) (su : Bool) (s : State) : CacheKeeps s (fetchWord x su s).last := by
  have single : ∀ u, CacheKeeps u (fetchSingle x su u).last := by
    intro u
    have h := (busKeeps_busReadAt u (reqTxn ⟨x, su, tcCode su, 0#2, false⟩ true) (x.pa &&& 0xFFFFFFF8#32) 8).cache
    simp only [fetchSingle]; split <;> exact h
  have fill : ∀ way u, CacheKeeps u (fetchFill x su way u).last := by
    intro way u
    have h := (busKeeps_burstRead u (fillTxn ⟨x, su, tcCode su, 0#2, false⟩ false way)).cache
    simp only [fetchFill]; split
    · exact h
    · simp only [MRes.last_ok]; split <;> exact h.trans ⟨rfl, id⟩
  have look : ∀ u, CacheKeeps u (fetchLookup x su u).last := by
    intro u
    unfold fetchLookup; split
    · exact single u
    · split
      · exact .refl u
      · split
        · exact fill _ u
        · exact single u
  exact (busKeeps_arbitrate s).cache.trans (look _)

/-! ### Cache commands -/

/-- A multi-line flush, whatever lines it takes. -/
theorem cacheKeeps_flushSets (inv : Bool) (sel : DLine → Bool) (ns : List Nat) (s : State) :
    CacheKeeps s (flushSets inv sel ns s).last := by
  have one : ∀ (a : Word) (way : Bool) (u : State), CacheKeeps u (flushOne inv a way u).last := by
    intro a way u
    simp only [flushOne]; split
    · exact .refl u
    · have h := (busKeeps_copyback u a way (tcData true) 0#2 [0, 1, 2, 3]).cache
      split
      · exact h.trans (cacheKeeps_setDLine _ _ _ _)
      · exact h
    · cases inv <;> exact ⟨rfl, id⟩
    · cases inv <;> exact ⟨rfl, id⟩
  have way : ∀ (a : Word) (w : Bool) (u : State), CacheKeeps u (flushWay inv sel a w u).last := by
    intro a w u
    have h := (busKeeps_arbitrate u).cache
    simp only [flushWay]; split
    · exact h.trans (one _ _ _)
    · exact h
  induction ns generalizing s with
  | nil => exact .refl s
  | cons n ns ih =>
    have h := way (BitVec.ofNat 32 (32 * n)) false s
    simp only [flushSets]; split
    · next hs => rw [hs] at h; exact h
    · next s1 hs =>
      rw [hs] at h
      have k := h.trans (way (BitVec.ofNat 32 (32 * n)) true s1)
      split
      · next hk => rw [hk] at k; exact k
      · next hk => rw [hk] at k; exact k.trans (ih _)

end Sys2Proof.Machine
end

