-- ==== Sys2Proof/Laws/Decode.lean ====
section
/-!
SUPPORT. The fields of an encoded word: what each field function reads from each format, and how a mask meets a format.
These are the facts that proofs about decode and encode cite instead of unfolding the formats.
-/

namespace Sys2Proof

/-! ### Slices of a concatenation -/

/-- A slice above the low part is a slice of the high part. -/
theorem slice_high {m n : Nat} (x : BitVec m) (y : BitVec n) (k w : Nat) (h : n ≤ k) :
    (x ++ y).extractLsb' k w = x.extractLsb' (k - n) w := by
  refine BitVec.eq_of_getLsbD_eq fun i hi => ?_
  simp only [BitVec.getLsbD_extractLsb', BitVec.getLsbD_append, hi, decide_true, Bool.true_and]
  rw [if_neg (by omega)]
  congr 1; omega

/-- A slice inside the low part is a slice of the low part. -/
theorem slice_low {m n : Nat} (x : BitVec m) (y : BitVec n) (k w : Nat) (h : k + w ≤ n) :
    (x ++ y).extractLsb' k w = y.extractLsb' k w := by
  refine BitVec.eq_of_getLsbD_eq fun i hi => ?_
  simp only [BitVec.getLsbD_extractLsb', BitVec.getLsbD_append, hi, decide_true, Bool.true_and]
  rw [if_pos (by omega)]

/-- The slice of every bit is the word. -/
theorem slice_all {w : Nat} (x : BitVec w) : x.extractLsb' 0 w = x := by
  refine BitVec.eq_of_getLsbD_eq fun i hi => ?_
  simp [hi]

/-! ### The fields of a word -/

@[simp] theorem opField_wordOf (op : BitVec 6) (d s1 : BitVec 5) (lo : BitVec 16) :
    opField (wordOf op d s1 lo) = op := by
  simp (disch := decide) only [opField, wordOf, slice_high, slice_all, Nat.reduceSub]

@[simp] theorem dField_wordOf (op : BitVec 6) (d s1 : BitVec 5) (lo : BitVec 16) :
    dField (wordOf op d s1 lo) = d := by
  simp (disch := decide) only [dField, wordOf, slice_high, slice_low, slice_all, Nat.reduceSub]

@[simp] theorem s1Field_wordOf (op : BitVec 6) (d s1 : BitVec 5) (lo : BitVec 16) :
    s1Field (wordOf op d s1 lo) = s1 := by
  simp (disch := decide) only [s1Field, wordOf, slice_high, slice_low, slice_all, Nat.reduceSub]

@[simp] theorem loField_wordOf (op : BitVec 6) (d s1 : BitVec 5) (lo : BitVec 16) :
    loField (wordOf op d s1 lo) = lo := by
  simp (disch := decide) only [loField, wordOf, slice_low, slice_all]

@[simp] theorem opField_wordBr26 (op : BitVec 5) (n : Bool) (disp : BitVec 26) :
    opField (wordBr26 op n disp) = opBr16 op n := by
  simp (disch := decide) only [opField, wordBr26, opBr16, slice_high, slice_all, Nat.reduceSub]

@[simp] theorem d26Field_wordBr26 (op : BitVec 5) (n : Bool) (disp : BitVec 26) :
    d26Field (wordBr26 op n disp) = disp := by
  simp (disch := decide) only [d26Field, wordBr26, slice_low, slice_all]

/-! ### The fields of a low half -/

@[simp] theorem subField_loTri (sub : BitVec 6) (mid s2 : BitVec 5) : subField (loTri sub mid s2) = sub := by
  simp (disch := decide) only [subField, loTri, slice_high, slice_all, Nat.reduceSub]

@[simp] theorem midField_loTri (sub : BitVec 6) (mid s2 : BitVec 5) : midField (loTri sub mid s2) = mid := by
  simp (disch := decide) only [midField, loTri, slice_high, slice_low, slice_all, Nat.reduceSub]

@[simp] theorem s2Field_loTri (sub : BitVec 6) (mid s2 : BitVec 5) : s2Field (loTri sub mid s2) = s2 := by
  simp (disch := decide) only [s2Field, loTri, slice_low, slice_all]

@[simp] theorem vecField_loVec (sub : BitVec 7) (vec : BitVec 9) : vecField (loVec sub vec) = vec := by
  simp (disch := decide) only [vecField, loVec, slice_low, slice_all]

/-- A VEC9 word's sub-opcode is the upper six bits of its seven constant ones. -/
@[simp] theorem subField_loVec (sub : BitVec 7) (vec : BitVec 9) :
    subField (loVec sub vec) = sub.extractLsb' 1 6 := by
  simp (disch := decide) only [subField, loVec, slice_high, Nat.reduceSub]

/-- The S bit's place in a VEC9 word holds the last of its constant bits. -/
@[simp] theorem scaledBit_loVec (sub : BitVec 7) (vec : BitVec 9) :
    scaledBit (midField (loVec sub vec)) = sub.getLsbD 0 := by
  simp only [scaledBit, midField, loVec, BitVec.getLsbD_extractLsb', BitVec.getLsbD_append]
  simp

@[simp] theorem crOpField_loCr (op : BitVec 2) (sfu : BitVec 3) (cr : BitVec 6) (s2 : BitVec 5) :
    crOpField (loCr op sfu cr s2) = op := by
  simp (disch := decide) only [crOpField, loCr, slice_high, slice_all, Nat.reduceSub]

@[simp] theorem crSfuField_loCr (op : BitVec 2) (sfu : BitVec 3) (cr : BitVec 6) (s2 : BitVec 5) :
    crSfuField (loCr op sfu cr s2) = sfu := by
  simp (disch := decide) only [crSfuField, loCr, slice_high, slice_low, slice_all, Nat.reduceSub]

@[simp] theorem crField_loCr (op : BitVec 2) (sfu : BitVec 3) (cr : BitVec 6) (s2 : BitVec 5) :
    crField (loCr op sfu cr s2) = cr := by
  simp (disch := decide) only [crField, loCr, slice_high, slice_low, slice_all, Nat.reduceSub]

@[simp] theorem s2Field_loCr (op : BitVec 2) (sfu : BitVec 3) (cr : BitVec 6) (s2 : BitVec 5) :
    s2Field (loCr op sfu cr s2) = s2 := by
  simp (disch := decide) only [s2Field, loCr, slice_low, slice_all]

@[simp] theorem fpFileField_loFp (x : Bool) (op : BitVec 4) (t1 t2 td : BitVec 2) (s2 : BitVec 5) :
    fpFileField (loFp x op t1 t2 td s2) = BitVec.ofBool x := by
  simp (disch := decide) only [fpFileField, loFp, slice_high, slice_all, Nat.reduceSub]

@[simp] theorem fpOpField_loFp (x : Bool) (op : BitVec 4) (t1 t2 td : BitVec 2) (s2 : BitVec 5) :
    fpOpField (loFp x op t1 t2 td s2) = op := by
  simp (disch := decide) only [fpOpField, loFp, slice_high, slice_low, slice_all, Nat.reduceSub]

@[simp] theorem t1Field_loFp (x : Bool) (op : BitVec 4) (t1 t2 td : BitVec 2) (s2 : BitVec 5) :
    t1Field (loFp x op t1 t2 td s2) = t1 := by
  simp (disch := decide) only [t1Field, loFp, slice_high, slice_low, slice_all, Nat.reduceSub]

@[simp] theorem t2Field_loFp (x : Bool) (op : BitVec 4) (t1 t2 td : BitVec 2) (s2 : BitVec 5) :
    t2Field (loFp x op t1 t2 td s2) = t2 := by
  simp (disch := decide) only [t2Field, loFp, slice_high, slice_low, slice_all, Nat.reduceSub]

@[simp] theorem tdField_loFp (x : Bool) (op : BitVec 4) (t1 t2 td : BitVec 2) (s2 : BitVec 5) :
    tdField (loFp x op t1 t2 td s2) = td := by
  simp (disch := decide) only [tdField, loFp, slice_high, slice_low, slice_all, Nat.reduceSub]

@[simp] theorem s2Field_loFp (x : Bool) (op : BitVec 4) (t1 t2 td : BitVec 2) (s2 : BitVec 5) :
    s2Field (loFp x op t1 t2 td s2) = s2 := by
  simp (disch := decide) only [s2Field, loFp, slice_low, slice_all]

@[simp] theorem gfxOpField_loGfx (op : BitVec 5) (r : BitVec 4) (t : BitVec 2) (s2 : BitVec 5) :
    gfxOpField (loGfx op r t s2) = op := by
  simp (disch := decide) only [gfxOpField, loGfx, slice_high, slice_all, Nat.reduceSub]

@[simp] theorem gfxRotField_loGfx (op : BitVec 5) (r : BitVec 4) (t : BitVec 2) (s2 : BitVec 5) :
    gfxRotField (loGfx op r t s2) = r := by
  simp (disch := decide) only [gfxRotField, loGfx, slice_high, slice_low, slice_all, Nat.reduceSub]

@[simp] theorem tdField_loGfx (op : BitVec 5) (r : BitVec 4) (t : BitVec 2) (s2 : BitVec 5) :
    tdField (loGfx op r t s2) = t := by
  simp (disch := decide) only [tdField, loGfx, slice_high, slice_low, slice_all, Nat.reduceSub]

@[simp] theorem s2Field_loGfx (op : BitVec 5) (r : BitVec 4) (t : BitVec 2) (s2 : BitVec 5) :
    s2Field (loGfx op r t s2) = s2 := by
  simp (disch := decide) only [s2Field, loGfx, slice_low, slice_all]

/-! ### Option bits and operand codes -/

@[simp] theorem flag_ofBool (b : Bool) : flag (BitVec.ofBool b) = b := by cases b <;> rfl

@[simp] theorem scaledBit_midLoad (s u : Bool) : scaledBit (midLoad s u) = s := by cases s <;> cases u <;> rfl
@[simp] theorem usrBit_midLoad (s u : Bool) : usrBit (midLoad s u) = u := by cases s <;> cases u <;> rfl
@[simp] theorem low3Zero_midLoad (s u : Bool) : low3Zero (midLoad s u) = true := by cases s <;> cases u <;> rfl
@[simp] theorem scaledBit_midStore (s u t : Bool) : scaledBit (midStore s u t) = s := by
  cases s <;> cases u <;> cases t <;> rfl
@[simp] theorem usrBit_midStore (s u t : Bool) : usrBit (midStore s u t) = u := by
  cases s <;> cases u <;> cases t <;> rfl
@[simp] theorem wtBit_midStore (s u t : Bool) : wtBit (midStore s u t) = t := by
  cases s <;> cases u <;> cases t <;> rfl
@[simp] theorem low2Zero_midStore (s u t : Bool) : low2Zero (midStore s u t) = true := by
  cases s <;> cases u <;> cases t <;> rfl

@[simp] theorem fpSize_ofCode_code (t : FpSize) : FpSize.ofCode t.code = t := by cases t <;> rfl
@[simp] theorem packSize_ofCode_code (t : PackSize) : PackSize.ofCode t.code = t := by cases t <;> rfl
@[simp] theorem fpSize_code_ofCode (c : BitVec 2) : (FpSize.ofCode c).code = c := by revert c; decide
@[simp] theorem packSize_code_ofCode (c : BitVec 2) : (PackSize.ofCode c).code = c := by revert c; decide

/-- The four bytes of a word are the word again. -/
@[simp] theorem wordOfBytes_bytesOfWord (w : Word) :
    wordOfBytes (w.extractLsb' 24 8) (w.extractLsb' 16 8) (w.extractLsb' 8 8) (w.extractLsb' 0 8) = w := by
  refine BitVec.eq_of_getLsbD_eq fun i hi => ?_
  simp only [wordOfBytes, BitVec.getLsbD_append, BitVec.getLsbD_extractLsb']
  by_cases h0 : i < 8
  · simp [h0]
  · by_cases h1 : i < 16
    · have e1 : i - 8 < 8 := by omega
      have e2 : 8 + (i - 8) = i := by omega
      simp [h0, e1, e2]
    · by_cases h2 : i < 24
      · have e1 : ¬ i - 8 < 8 := by omega
        have e2 : i - 8 - 8 < 8 := by omega
        have e3 : 16 + (i - 8 - 8) = i := by omega
        simp [h0, e1, e2, e3]
      · have e1 : ¬ i - 8 < 8 := by omega
        have e2 : ¬ i - 8 - 8 < 8 := by omega
        have e3 : i - 8 - 8 - 8 < 8 := by omega
        have e4 : 24 + (i - 8 - 8 - 8) = i := by omega
        simp [h0, e1, e2, e3, e4]

/-! ### Masks -/

/-- A mask meets a word field by field. -/
theorem wordOf_and (op mop : BitVec 6) (d md s1 ms : BitVec 5) (lo ml : BitVec 16) :
    wordOf op d s1 lo &&& wordOf mop md ms ml = wordOf (op &&& mop) (d &&& md) (s1 &&& ms) (lo &&& ml) := by
  refine BitVec.eq_of_getLsbD_eq fun i _ => ?_
  simp only [wordOf, BitVec.getLsbD_and, BitVec.getLsbD_append]
  split_ifs <;> simp

theorem wordBr26_and (op mop : BitVec 5) (n mn : Bool) (disp md : BitVec 26) :
    wordBr26 op n disp &&& wordBr26 mop mn md = wordBr26 (op &&& mop) (n && mn) (disp &&& md) := by
  refine BitVec.eq_of_getLsbD_eq fun i _ => ?_
  simp only [wordBr26, BitVec.getLsbD_and, BitVec.getLsbD_append, BitVec.getLsbD_ofBool]
  split_ifs <;> simp [Bool.and_assoc, Bool.and_left_comm]

theorem loTri_and (sub msub : BitVec 6) (mid mmid s2 ms : BitVec 5) :
    loTri sub mid s2 &&& loTri msub mmid ms = loTri (sub &&& msub) (mid &&& mmid) (s2 &&& ms) := by
  refine BitVec.eq_of_getLsbD_eq fun i _ => ?_
  simp only [loTri, BitVec.getLsbD_and, BitVec.getLsbD_append]
  split_ifs <;> simp

theorem loVec_and (sub msub : BitVec 7) (vec mv : BitVec 9) :
    loVec sub vec &&& loVec msub mv = loVec (sub &&& msub) (vec &&& mv) := by
  refine BitVec.eq_of_getLsbD_eq fun i _ => ?_
  simp only [loVec, BitVec.getLsbD_and, BitVec.getLsbD_append]
  split_ifs <;> simp

theorem loCr_and (op mop : BitVec 2) (sfu msfu : BitVec 3) (cr mcr : BitVec 6) (s2 ms : BitVec 5) :
    loCr op sfu cr s2 &&& loCr mop msfu mcr ms = loCr (op &&& mop) (sfu &&& msfu) (cr &&& mcr) (s2 &&& ms) := by
  refine BitVec.eq_of_getLsbD_eq fun i _ => ?_
  simp only [loCr, BitVec.getLsbD_and, BitVec.getLsbD_append]
  split_ifs <;> simp

theorem loFp_and (x mx : Bool) (op mop : BitVec 4) (t1 m1 t2 m2 td m3 : BitVec 2) (s2 ms : BitVec 5) :
    loFp x op t1 t2 td s2 &&& loFp mx mop m1 m2 m3 ms
      = loFp (x && mx) (op &&& mop) (t1 &&& m1) (t2 &&& m2) (td &&& m3) (s2 &&& ms) := by
  refine BitVec.eq_of_getLsbD_eq fun i _ => ?_
  simp only [loFp, BitVec.getLsbD_and, BitVec.getLsbD_append, BitVec.getLsbD_ofBool]
  split_ifs <;> simp [Bool.and_assoc, Bool.and_left_comm]

theorem loGfx_and (op mop : BitVec 5) (r mr : BitVec 4) (t mt : BitVec 2) (s2 ms : BitVec 5) :
    loGfx op r t s2 &&& loGfx mop mr mt ms = loGfx (op &&& mop) (r &&& mr) (t &&& mt) (s2 &&& ms) := by
  refine BitVec.eq_of_getLsbD_eq fun i _ => ?_
  simp only [loGfx, BitVec.getLsbD_and, BitVec.getLsbD_append]
  split_ifs <;> simp

end Sys2Proof
end

