-- ==== Sys2Proof/Laws/Mmu.lean ====
section
/-!
SUPPORT. What a translation can do to the state, said once: a hardware table search may replace a PATC entry, move the
FIFO pointer and overwrite the port words of its side, and uses the bus; nothing else changes.
-/

namespace Sys2Proof.Machine

@[simp] theorem mmuOf_setMmu (side : Side) (s : State) (m : Mmu) : mmuOf side (setMmu side s m) = m := by
  cases side <;> rfl

@[simp] theorem setMmu_mmuOf (side : Side) (s : State) : setMmu side s (mmuOf side s) = s := by cases side <;> rfl

@[simp] theorem setMmu_setMmu (side : Side) (s : State) (m n : Mmu) : setMmu side (setMmu side s m) n = setMmu side s n := by
  cases side <;> rfl

/-- What a translation on one side keeps. -/
structure TranslateKeeps (side : Side) (s t : State) : Prop where
  frame : t = setMmu side
    { s with
      dcache := t.dcache, mem := t.mem, busLog := t.busLog, script := t.script, draws := t.draws,
      halted := t.halted, snoopFault := t.snoopFault }
    { mmuOf side s with
      patc := (mmuOf side t).patc, fifo := (mmuOf side t).fifo, ppu := (mmuOf side t).ppu, ppl := (mmuOf side t).ppl }
  canonical : Canonical s → Canonical t

theorem TranslateKeeps.refl (side : Side) (s : State) : TranslateKeeps side s s := ⟨by cases side <;> rfl, id⟩

theorem TranslateKeeps.trans {side : Side} {s t u : State} (h : TranslateKeeps side s t) (k : TranslateKeeps side t u) :
    TranslateKeeps side s u :=
  ⟨by rw [k.frame, h.frame]; cases side <;> rfl, fun w => k.canonical (h.canonical w)⟩

theorem BusKeeps.translate {s t : State} (h : BusKeeps s t) (side : Side) : TranslateKeeps side s t :=
  ⟨by have := h.frame; unfold BusFrame at this; rw [this]; cases side <;> rfl, h.canonical⟩

theorem translateKeeps_setPort (side : Side) (v : Word) (s : State) : TranslateKeeps side s (setPort side v s) :=
  ⟨by cases side <;> rfl, by cases side <;> exact id⟩

theorem translateKeeps_pickOne {n : Nat} (side : Side) (l : List (Fin n)) (s : State) :
    TranslateKeeps side s (pickOne l s).2 := by
  unfold pickOne; split
  · exact .refl side s
  · exact .refl side s
  · exact (busKeeps_drawn s).translate side

theorem busKeeps_readDescriptor (side : Side) (user : BitVec 2) (a : Word) (s : State) :
    BusKeeps s (readDescriptor side user a s).2 := by
  have again : ∀ (x : BusTxn) (n : Nat) (u : State), BusKeeps u (readAgain x n u).2 := by
    intro x n
    induction n with
    | zero => exact fun u => busKeeps_busRead u x 4
    | succ n ih =>
      intro u
      have k := busKeeps_busRead u x 4
      simp only [readAgain]; split
      · exact k.trans ((busKeeps_arbitrate _).trans (ih _))
      · exact k
  have h := fun n => (busKeeps_arbitrate s).trans (again (descriptorTxn side user a) n _)
  simp only [readDescriptor]; split <;> exact h _

/-- The last steps of the search. -/
theorem translateKeeps_searchLoad (side : Side) (su write : Bool) (la : Word) (acc : Attr) (pd pda : Word) (s : State) :
    TranslateKeeps side s (searchLoad side su write la acc pd pda s).last := by
  simp only [searchLoad]; split
  · exact .refl side s
  · exact ⟨by cases side <;> rfl, by cases side <;> exact id⟩

theorem translateKeeps_searchPage (side : Side) (su write : Bool) (la : Word) (user : BitVec 2) (acc : Attr) (pda : Word)
    (s : State) : TranslateKeeps side s (searchPage side su write la user acc pda s).last := by
  have h := (busKeeps_readDescriptor side user pda s).translate side
  simp only [searchPage]; split
  · exact h
  · split
    · exact h
    · split
      · exact h.trans (translateKeeps_searchLoad side su write la _ _ _ _)
      · next pd _ _ _ =>
        have k := h.trans ((busKeeps_readDescriptor side user (pd &&& 0xFFFFFFFC#32) _).translate side)
        split
        · exact k
        · split
          · exact k.trans (translateKeeps_searchLoad side su write la _ _ _ _)
          · exact k

/-- The hardware table search. -/
theorem translateKeeps_tableSearch (side : Side) (su write : Bool) (la : Word) (s : State) :
    TranslateKeeps side s (tableSearch side su write la s).last := by
  have h := fun a => (busKeeps_readDescriptor side (areaUser (areaOf (mmuOf side s) su)) a s).translate side
  simp only [tableSearch]; split
  · exact h _
  · split
    · exact h _
    · split
      · exact h _
      · exact (h _).trans (translateKeeps_searchPage side su write la _ _ _ _)

theorem applyHit_last (write : Bool) (x : Xlate) (s : State) : (applyHit write x s).last = s := by
  unfold applyHit; split <;> rfl

/-- A translation, whatever its mode. -/
theorem translateKeeps_translate (side : Side) (su write : Bool) (la : Word) (s : State) :
    TranslateKeeps side s (translate side su write la s).last := by
  have miss : ∀ u, TranslateKeeps side u (translateMiss side su write la u).last := by
    intro u
    have h := translateKeeps_tableSearch side su write la u
    unfold translateMiss; split
    · split
      · next hs => rw [hs] at h; rw [applyHit_last]; exact h.trans (translateKeeps_setPort side _ _)
      · next hs =>
        rw [hs] at h
        simp only [MRes.last_fail]; split
        · exact h
        · exact h.trans (translateKeeps_setPort side _ _)
    · exact .refl side u
  have page : ∀ u, TranslateKeeps side u (translatePage side su write la u).last := by
    intro u
    have h := translateKeeps_pickOne side (patcMatches (mmuOf side u) su la) u
    simp only [translatePage]; split
    · rw [applyHit_last]; exact h
    · exact h.trans (miss _)
  have h := translateKeeps_pickOne side (batcMatches (mmuOf side s) su la) s
  simp only [translate]; split
  · exact .refl side s
  · split
    · rw [applyHit_last]; exact h
    · split
      · exact h.trans (page _)
      · exact h

/-- The address of a data access. -/
theorem translateKeeps_dataAddress (su write : Bool) (la : Word) (s : State) :
    TranslateKeeps .data s (dataAddress su write la s).last := by
  unfold dataAddress; split
  · exact .refl .data s
  · exact translateKeeps_translate .data su write la s

/-- While PSR.EFRZ is 1 a memory fault records nothing (60_exceptions.md R770). -/
theorem recordFault_frozen (side : Side) (su : Bool) (la : Word) (f : MemFault) {s : State} (h : psrEfrz s = true) :
    recordFault side su la f s = s := by
  simp [recordFault, h]

/-- What recording a memory fault writes: the status and address registers of its side, and the port words. -/
theorem recordFault_frame (side : Side) (su : Bool) (la : Word) (f : MemFault) (s : State) :
    let t := recordFault side su la f s
    t = setMmu side { s with draws := t.draws }
      { mmuOf side s with
        status := (mmuOf side t).status, lar := (mmuOf side t).lar, par := (mmuOf side t).par,
        ppu := (mmuOf side t).ppu, ppl := (mmuOf side t).ppl } := by
  simp only [recordFault, preloadPort, setPort]
  split
  · cases side <;> rfl
  · split <;> cases side <;> rfl

end Sys2Proof.Machine
end

