-- ==== Sys2Proof/Laws/Fetch.lean ====
section
/-!
SUPPORT. What fetching ahead can do to the state, said once: the caches and the bus, never a register of a memory unit;
and when nothing is fetched ahead, nothing changes. Then what the loads whose result is waived can do, and what the end
of a step that was cut short leaves.
-/

namespace Sys2Proof.Machine

/-- The fetch of a word that may not be needed. -/
theorem cacheKeeps_prefetchWord (k : Nat) (a : Word) (s : State) : CacheKeeps s (prefetchWord k a s).2 := by
  have space : (fetchSpace k s).2 = s ∨ (fetchSpace k s).2 = drawn s := by
    unfold fetchSpace; split <;> simp
  have h0 : BusKeeps s (fetchSpace k s).2 := by
    rcases space with h | h <;> rw [h]
    · exact .refl s
    · exact busKeeps_drawn s
  have imu0 : (fetchSpace k s).2.imu = s.imu := by
    rcases space with h | h
    · rw [h]
    · rw [h]; rfl
  have h1 := translateKeeps_translate .instr (fetchSpace k s).1 false a (fetchSpace k s).2
  simp only [prefetchWord]; split
  · exact .refl s
  · next x s1 hs =>
    rw [hs] at h1
    split
    · next hi =>
      have c : CacheKeeps s s1 := by
        refine h0.cache.trans ⟨?_, h1.canonical⟩
        have f := h1.frame
        simp only [MRes.last_ok] at f
        have : (setMmu Side.instr { (fetchSpace k s).2 with
            dcache := s1.dcache, mem := s1.mem, busLog := s1.busLog, script := s1.script, draws := s1.draws,
            halted := s1.halted, snoopFault := s1.snoopFault } (fetchSpace k s).2.imu) = s1 := by
          rw [imu0, ← hi]; rw [f]; rfl
        rw [← this]; rfl
      have w := cacheKeeps_fetchWord x (fetchSpace k s).1 s1
      split <;> next hw => rw [hw] at w; exact c.trans w
    · exact .refl s

/-- The fetch of several. -/
theorem cacheKeeps_prefetchFrom (n k : Nat) (a : Word) (s : State) : CacheKeeps s (prefetchFrom n k a s).2 := by
  induction n generalizing k a s with
  | zero => exact .refl s
  | succ n ih =>
    have h := cacheKeeps_prefetchWord k a s
    simp only [prefetchFrom]; split
    · exact h
    · exact h.trans (ih _ _ _)

/-- The words of a path. -/
theorem cacheKeeps_fetchPath (us : List Turn) (k : Nat) (p : Path) (s : State) : CacheKeeps s (fetchPath us k p s) := by
  have word : ∀ (k : Nat) (p : Path) (u : State), CacheKeeps u (p.word k u).2 := by
    intro k p u
    unfold Path.word; split
    · exact .refl u
    · exact cacheKeeps_prefetchWord k p.here u
  induction us generalizing k p s with
  | nil => exact .refl s
  | cons u us ih =>
    simp only [fetchPath]; split
    · exact word k p s
    · exact (word k p s).trans (ih _ _ _)

/-- A wrong prediction (46_flow_control.md R668). -/
theorem cacheKeeps_wrongPath (predicted taken n : Bool) (t : Word) (s : State) :
    CacheKeeps s (wrongPath predicted taken n t s) := by
  unfold wrongPath; split
  · split
    · exact .refl s
    · next k ks _ =>
      have h : CacheKeeps s { s with script := { s.script with guesses := ks } } := ⟨rfl, id⟩
      exact h.trans (cacheKeeps_fetchPath _ _ _ _)
  · exact .refl s

/-- Nothing is fetched along a path that is not guessed, or with branch prediction off. -/
theorem wrongPath_quiet {s : State} (h : ctlPren s.imu.ctl = false ∨ s.script.guesses = []) (predicted taken n : Bool)
    (t : Word) : wrongPath predicted taken n t s = s := by
  rcases h with h | h
  · simp [wrongPath, h]
  · unfold wrongPath; split
    · rw [h]
    · rfl

/-- Nothing is prefetched when the script says so. -/
theorem lookAhead_quiet {s : State} (h : s.script.ahead = []) : lookAhead s = s := by simp [lookAhead, h]

/-- A prefetch changes the words prefetched, the caches and what the bus writes. -/
theorem lookAhead_frame (s : State) :
    let t := lookAhead s
    CacheKeeps { s with prefetched := t.prefetched } t := by
  simp only [lookAhead]; split
  · exact .refl s
  · next k ks _ =>
    have h : ∀ a, CacheKeeps { s with script := { s.script with ahead := ks } }
        (prefetchFrom k s.prefetched.length a { s with script := { s.script with ahead := ks } }).2 := fun a => cacheKeeps_prefetchFrom k _ a _
    exact ⟨by
      rw [show ∀ a, (prefetchFrom k s.prefetched.length a { s with script := { s.script with ahead := ks } }).2 = _ from fun a => (h a).frame],
      fun w => (h _).canonical w⟩

/-! ### Loads whose result is waived (60_exceptions.md R713) -/

/-- The state a part of an instruction ends in, if it does not stop. -/
def Res.last? {α : Type} : Res α → Option State
  | .ok _ s => some s
  | .trap _ s => some s
  | .stop _ => none

/-- Recording a fault leaves memory and a step that was cut short alone. -/
theorem canonical_recordFault (side : Side) (su : Bool) (la : Word) (f : MemFault) {s : State} (h : Canonical s) :
    Canonical (recordFault side su la f s) := by
  rw [recordFault_frame side su la f s]; cases side <;> exact h

/-- The translated read of an operand keeps the memory canonical. -/
theorem canonical_readAt (su : Bool) (n : Nat) (a : Word) {s : State} (h : Canonical s) :
    Canonical (readAt su n a s).last := by
  have operand : ∀ x u, Canonical u → Canonical (readOperand x su n u).last := by
    intro x u hu
    unfold readOperand; split
    · have k := (cacheKeeps_dataRead (dataReq x su 8 false) 8 u).canonical hu
      split
      · next hs => rw [hs] at k; exact k
      · next s1 hs =>
        rw [hs] at k
        have l := (cacheKeeps_dataRead (dataReq ⟨x.pa + 8#32, x.attr⟩ su 8 false) 8 s1).canonical k
        split <;> next ht => rw [ht] at l; exact l
    · exact (cacheKeeps_dataRead (dataReq x su n false) n u).canonical hu
  have k := (translateKeeps_dataAddress su false a s).canonical h
  unfold readAt; split
  · next hs => rw [hs] at k; exact k
  · next hs => rw [hs] at k; exact operand _ _ k

/-- A load keeps the memory canonical, whether its access faults or not. -/
theorem canonical_loadInto (usr : Bool) (n : Nat) (ea : Word) {s : State} (h : Canonical s) :
    ∀ t ∈ (loadInto usr n ea (fun t _ => t) s).last?, Canonical t := by
  have value : ∀ t ∈ (loadValue usr n ea s).last?, Canonical t := by
    unfold loadValue; split
    · rintro t ⟨⟩; exact h
    · split
      · rintro t ⟨⟩; exact h
      · next a _ =>
        have k := canonical_readAt (spaceOf s usr) n a h
        unfold settle
        split
        · next hs =>
          split at hs
          · next hr => rw [hr] at k; cases hs; rintro t ⟨⟩; exact k
          · cases hs
        · next hs =>
          split at hs
          · cases hs
          · next hr => rw [hr] at k; cases hs; rintro t ⟨⟩; exact canonical_recordFault _ _ _ _ k
        · rintro t ⟨⟩
  unfold loadInto; split <;> next hs => rw [hs] at value; exact value

/-- A touch load keeps the memory canonical. -/
theorem canonical_touchLoad (usr : Bool) (ea : Word) {s : State} (h : Canonical s) :
    ∀ t ∈ (touchLoad usr ea s).last?, Canonical t := by
  unfold touchLoad; split
  · rintro t ⟨⟩; exact h
  · have k := (translateKeeps_dataAddress (spaceOf s usr) false ea s).canonical h
    split <;> next hs => rw [hs] at k; rintro t ⟨⟩; first | exact k | exact (cacheKeeps_touch _ _).canonical k

/-- What a load whose result is waived keeps: every register, the port words of the translation caches included, and the
canonical form of memory. -/
structure WaivedKeeps (s t : State) : Prop where
  frame : t = keepAccess s t
  canonical : Canonical s → Canonical t

theorem WaivedKeeps.refl (s : State) : WaivedKeeps s s := ⟨rfl, id⟩

theorem WaivedKeeps.trans {s t u : State} (h : WaivedKeeps s t) (k : WaivedKeeps t u) : WaivedKeeps s u :=
  ⟨by rw [k.frame, h.frame]; rfl, fun w => k.canonical (h.canonical w)⟩

/-- One load. -/
theorem waivedKeeps_waivedLoad (l : WaivedLoad) (s : State) : WaivedKeeps s (waivedLoad l s) := by
  have h : ∀ r : Res Unit, (Canonical s → ∀ t ∈ r.last?, Canonical t) →
      WaivedKeeps s (match r with | .ok _ t => keepAccess s t | .trap _ t => keepAccess s t | .stop _ => s) := by
    rintro (⟨_, t⟩ | ⟨_, t⟩ | _) k
    · exact ⟨rfl, fun w => k w t rfl⟩
    · exact ⟨rfl, fun w => k w t rfl⟩
    · exact .refl s
  unfold waivedLoad
  apply h
  intro w
  cases l.form
  · exact canonical_loadInto _ _ _ w
  · exact canonical_touchLoad _ _ w

/-- Several. -/
theorem waivedKeeps_foldl (ls : List WaivedLoad) (s : State) :
    WaivedKeeps s (ls.foldl (fun w l => waivedLoad l w) s) := by
  induction ls generalizing s with
  | nil => exact .refl s
  | cons l ls ih => exact (waivedKeeps_waivedLoad l s).trans (ih _)

/-- All the loads behind an exception. -/
theorem waivedKeeps_waivedLoads (n : Nat) (b t : State) : WaivedKeeps t (waivedLoads n b t) := by
  unfold waivedLoads; split
  · exact .refl t
  · next ls rest _ =>
    have h : WaivedKeeps { t with psr := b.psr, script := { t.script with waived := rest } }
        (if psrSrm b then { t with psr := b.psr, script := { t.script with waived := rest } }
        else (ls.take n).foldl (fun w l => waivedLoad l w)
          { t with psr := b.psr, script := { t.script with waived := rest } }) := by
      split
      · exact .refl _
      · exact waivedKeeps_foldl _ _
    exact ⟨by simp only []; rw [h.frame]; rfl, fun w => h.canonical w⟩

/-- No load has been granted access behind the exception when the script says so. -/
theorem waivedLoads_quiet (n : Nat) {b : State} (h : b.script.waived = []) (t : State) : waivedLoads n b t = t := by
  simp [waivedLoads, h]

/-- Then an outcome is as it was. -/
theorem waive_quiet {b : State} (h : b.script.waived = []) (o : Host.Outcome State Fault Refusal) : waive b o = o := by
  cases o <;> simp [waive, waivedLoads_quiet issuedBehind h]

/-! ### The end of a step that was cut short -/

/-- No step is in progress after the end of a step. -/
@[simp] theorem settleHalt_halted (b t : State) : (settleHalt b t).halted = none := by
  unfold settleHalt; split
  · next h => exact h
  · unfold endHalt; split <;> rfl

/-- The memory a step ends with is that of its last state, or that of the moment it was cut short. -/
theorem settleHalt_mem (b t : State) : (settleHalt b t).mem = (t.halted.elim t.mem Halt.mem) := by
  unfold settleHalt; split
  · next h => rw [h]; rfl
  · next h => rw [h]; unfold endHalt; split <;> rfl

/-- The end of a step keeps the memory canonical. -/
theorem settleHalt_wf (b : State) {t : State} (h : Canonical t) : Memory.wf (settleHalt b t).mem = true := by
  rw [settleHalt_mem]
  cases k : t.halted with
  | none => exact h.1
  | some c => exact h.2 c k

end Sys2Proof.Machine
end

