-- ==== Sys2Proof/Laws/PerInstr.lean ====
section
/-!
SUPPORT. For every instruction: its word agrees with its row of spec/opcode_table.json on every constant bit of the row,
whatever its operands (30_encoding.md R362).
-/

namespace Sys2Proof.Laws.RowMatch

open Sys2Proof

/-- The mask and the match of the instruction's row in spec/opcode_table.json. -/
def row : Instr → Word × Word
  | .ldXrfDImm .. => (0xFC000000#32, 0x00000000#32)
  | .ldXrfImm .. => (0xFC000000#32, 0x04000000#32)
  | .ldHuImm .. => (0xFC000000#32, 0x08000000#32)
  | .ldBuImm .. => (0xFC000000#32, 0x0C000000#32)
  | .ldDImm .. => (0xFC000000#32, 0x10000000#32)
  | .ldImm .. => (0xFC000000#32, 0x14000000#32)
  | .ldHImm .. => (0xFC000000#32, 0x18000000#32)
  | .ldBImm .. => (0xFC000000#32, 0x1C000000#32)
  | .stDImm .. => (0xFC000000#32, 0x20000000#32)
  | .stImm .. => (0xFC000000#32, 0x24000000#32)
  | .stHImm .. => (0xFC000000#32, 0x28000000#32)
  | .stBImm .. => (0xFC000000#32, 0x2C000000#32)
  | .stXrfDImm .. => (0xFC000000#32, 0x30000000#32)
  | .stXrfImm .. => (0xFC000000#32, 0x34000000#32)
  | .stXrfXImm .. => (0xFC000000#32, 0x38000000#32)
  | .ldXrfXImm .. => (0xFC000000#32, 0x3C000000#32)
  | .andImm .. => (0xFC000000#32, 0x40000000#32)
  | .andUImm .. => (0xFC000000#32, 0x44000000#32)
  | .maskImm .. => (0xFC000000#32, 0x48000000#32)
  | .maskUImm .. => (0xFC000000#32, 0x4C000000#32)
  | .xorImm .. => (0xFC000000#32, 0x50000000#32)
  | .xorUImm .. => (0xFC000000#32, 0x54000000#32)
  | .orImm .. => (0xFC000000#32, 0x58000000#32)
  | .orUImm .. => (0xFC000000#32, 0x5C000000#32)
  | .adduImm .. => (0xFC000000#32, 0x60000000#32)
  | .subuImm .. => (0xFC000000#32, 0x64000000#32)
  | .divuImm .. => (0xFC000000#32, 0x68000000#32)
  | .muluImm .. => (0xFC000000#32, 0x6C000000#32)
  | .addImm .. => (0xFC000000#32, 0x70000000#32)
  | .subImm .. => (0xFC000000#32, 0x74000000#32)
  | .divsImm .. => (0xFC000000#32, 0x78000000#32)
  | .cmpImm .. => (0xFC000000#32, 0x7C000000#32)
  | .ldcr .. => (0xFC1FF81F#32, 0x80004000#32)
  | .stcr .. => (0xFFE0F800#32, 0x80008000#32)
  | .xcr .. => (0xFC00F800#32, 0x8000C000#32)
  | .fldcr .. => (0xFC1FF81F#32, 0x80004800#32)
  | .fstcr .. => (0xFFE0F800#32, 0x80008800#32)
  | .fxcr .. => (0xFC00F800#32, 0x8000C800#32)
  | .br .. => (0xF8000000#32, 0xC0000000#32)
  | .bsr .. => (0xF8000000#32, 0xC8000000#32)
  | .bb0 .. => (0xF8000000#32, 0xD0000000#32)
  | .bb1 .. => (0xF8000000#32, 0xD8000000#32)
  | .bcnd .. => (0xF8000000#32, 0xE8000000#32)
  | .clrImm .. => (0xFC00FC00#32, 0xF0008000#32)
  | .setImm .. => (0xFC00FC00#32, 0xF0008800#32)
  | .extImm .. => (0xFC00FC00#32, 0xF0009000#32)
  | .extuImm .. => (0xFC00FC00#32, 0xF0009800#32)
  | .makImm .. => (0xFC00FC00#32, 0xF000A000#32)
  | .rotImm .. => (0xFC00FFE0#32, 0xF000A800#32)
  | .tb0 .. => (0xFC00FE00#32, 0xF000D000#32)
  | .tb1 .. => (0xFC00FE00#32, 0xF000D800#32)
  | .tcnd .. => (0xFC00FE00#32, 0xF000E800#32)
  | .ldXrfD .. => (0xFC00FCE0#32, 0xF0001000#32)
  | .ldXrf .. => (0xFC00FCE0#32, 0xF0001400#32)
  | .ldXrfX .. => (0xFC00FCE0#32, 0xF0001800#32)
  | .stXrfD .. => (0xFC00FC60#32, 0xF0002000#32)
  | .stXrf .. => (0xFC00FC60#32, 0xF0002400#32)
  | .stXrfX .. => (0xFC00FC60#32, 0xF0002800#32)
  | .xmemBu .. => (0xFC00FCE0#32, 0xF4000000#32)
  | .xmem .. => (0xFC00FCE0#32, 0xF4000400#32)
  | .ldHu .. => (0xFC00FCE0#32, 0xF4000800#32)
  | .ldBu .. => (0xFC00FCE0#32, 0xF4000C00#32)
  | .ldD .. => (0xFC00FCE0#32, 0xF4001000#32)
  | .ld .. => (0xFC00FCE0#32, 0xF4001400#32)
  | .ldH .. => (0xFC00FCE0#32, 0xF4001800#32)
  | .ldB .. => (0xFC00FCE0#32, 0xF4001C00#32)
  | .stD .. => (0xFC00FC60#32, 0xF4002000#32)
  | .st .. => (0xFC00FC60#32, 0xF4002400#32)
  | .stH .. => (0xFC00FC60#32, 0xF4002800#32)
  | .stB .. => (0xFC00FC60#32, 0xF4002C00#32)
  | .ldaD .. => (0xFC00FFE0#32, 0xF4003200#32)
  | .lda .. => (0xFC00FFE0#32, 0xF4003600#32)
  | .ldaH .. => (0xFC00FFE0#32, 0xF4003A00#32)
  | .ldaX .. => (0xFC00FFE0#32, 0xF4003E00#32)
  | .andReg .. => (0xFC00FBE0#32, 0xF4004000#32)
  | .xorReg .. => (0xFC00FBE0#32, 0xF4005000#32)
  | .orReg .. => (0xFC00FBE0#32, 0xF4005800#32)
  | .adduReg .. => (0xFC00FCE0#32, 0xF4006000#32)
  | .subuReg .. => (0xFC00FCE0#32, 0xF4006400#32)
  | .addReg .. => (0xFC00FCE0#32, 0xF4007000#32)
  | .subReg .. => (0xFC00FCE0#32, 0xF4007400#32)
  | .divuReg .. => (0xFC00FFE0#32, 0xF4006800#32)
  | .divuD .. => (0xFC00FFE0#32, 0xF4006900#32)
  | .muluReg .. => (0xFC00FFE0#32, 0xF4006C00#32)
  | .muluD .. => (0xFC00FFE0#32, 0xF4006D00#32)
  | .muls .. => (0xFC00FFE0#32, 0xF4006E00#32)
  | .divsReg .. => (0xFC00FFE0#32, 0xF4007800#32)
  | .cmpReg .. => (0xFC00FFE0#32, 0xF4007C00#32)
  | .clrReg .. => (0xFC00FFE0#32, 0xF4008000#32)
  | .setReg .. => (0xFC00FFE0#32, 0xF4008800#32)
  | .extReg .. => (0xFC00FFE0#32, 0xF4009000#32)
  | .extuReg .. => (0xFC00FFE0#32, 0xF4009800#32)
  | .makReg .. => (0xFC00FFE0#32, 0xF400A000#32)
  | .rotReg .. => (0xFC00FFE0#32, 0xF400A800#32)
  | .jmp .. => (0xFFFFFBE0#32, 0xF400C000#32)
  | .jsr .. => (0xFFFFFBE0#32, 0xF400C800#32)
  | .ff1 .. => (0xFC1FFFE0#32, 0xF400E800#32)
  | .ff0 .. => (0xFC1FFFE0#32, 0xF400EC00#32)
  | .tbndReg .. => (0xFFE0FFE0#32, 0xF400F800#32)
  | .tbndImm .. => (0xFFE00000#32, 0xF8000000#32)
  | .rte => (0xFFFFFFFF#32, 0xF400FC00#32)
  | .illop1 => (0xFFFFFFFF#32, 0xF400FC01#32)
  | .illop2 => (0xFFFFFFFF#32, 0xF400FC02#32)
  | .illop3 => (0xFFFFFFFF#32, 0xF400FC03#32)
  | .fmul .. => (0xFC007800#32, 0x84000000#32)
  | .fadd .. => (0xFC007800#32, 0x84002800#32)
  | .fsub .. => (0xFC007800#32, 0x84003000#32)
  | .fdiv .. => (0xFC007800#32, 0x84007000#32)
  | .fcvt .. => (0xFC1F7E00#32, 0x84000800#32)
  | .fsqrt .. => (0xFC1F7E00#32, 0x84007800#32)
  | .flt .. => (0xFC1FFD80#32, 0x84002000#32)
  | .fcmp .. => (0xFC007860#32, 0x84003800#32)
  | .fcmpu .. => (0xFC007860#32, 0x84003820#32)
  | .int .. => (0xFC1F7E60#32, 0x84004800#32)
  | .nint .. => (0xFC1F7E60#32, 0x84005000#32)
  | .trnc .. => (0xFC1F7E60#32, 0x84005800#32)
  | .movToGrf .. => (0xFC1FFF60#32, 0x8400C000#32)
  | .movToXrf .. => (0xFC1FFF60#32, 0x84004200#32)
  | .movXrf .. => (0xFC1FFFE0#32, 0x8400C300#32)
  | .pmul .. => (0xFC00FFE0#32, 0x88000000#32)
  | .padd .. => (0xFC00FF80#32, 0x88002000#32)
  | .paddsU .. => (0xFC00FF80#32, 0x88002080#32)
  | .paddsUs .. => (0xFC00FF80#32, 0x88002100#32)
  | .paddsS .. => (0xFC00FF80#32, 0x88002180#32)
  | .psub .. => (0xFC00FF80#32, 0x88003000#32)
  | .psubsU .. => (0xFC00FF80#32, 0x88003080#32)
  | .psubsUs .. => (0xFC00FF80#32, 0x88003100#32)
  | .psubsS .. => (0xFC00FF80#32, 0x88003180#32)
  | .pcmp .. => (0xFC00FFE0#32, 0x88003860#32)
  | .ppack .. => (0xFC00F800#32, 0x88006000#32)
  | .punpk .. => (0xFC00FF9F#32, 0x88006800#32)
  | .protImm .. => (0xFC00F87F#32, 0x88007000#32)
  | .protReg .. => (0xFC00FFE0#32, 0x88007800#32)

/-- The word of the instruction has the constant bits of its row. -/
def Statement (i : Instr) : Prop := encode i &&& (row i).1 = (row i).2

theorem ldXrfDImm (d : RegNum) (s1 : RegNum) (imm : BitVec 16) : Statement (.ldXrfDImm d s1 imm) := by
  have hm : (0xFC000000#32 : Word) = wordOf 63#6 0#5 0#5 0#16 := by decide
  show wordOf 0b000000#6 d s1 imm &&& 0xFC000000#32 = 0x00000000#32
  rw [hm, wordOf_and]
  simp only [BitVec.and_zero]
  rfl

theorem ldXrfImm (d : RegNum) (s1 : RegNum) (imm : BitVec 16) : Statement (.ldXrfImm d s1 imm) := by
  have hm : (0xFC000000#32 : Word) = wordOf 63#6 0#5 0#5 0#16 := by decide
  show wordOf 0b000001#6 d s1 imm &&& 0xFC000000#32 = 0x04000000#32
  rw [hm, wordOf_and]
  simp only [BitVec.and_zero]
  rfl

theorem ldHuImm (d : RegNum) (s1 : RegNum) (imm : BitVec 16) : Statement (.ldHuImm d s1 imm) := by
  have hm : (0xFC000000#32 : Word) = wordOf 63#6 0#5 0#5 0#16 := by decide
  show wordOf 0b000010#6 d s1 imm &&& 0xFC000000#32 = 0x08000000#32
  rw [hm, wordOf_and]
  simp only [BitVec.and_zero]
  rfl

theorem ldBuImm (d : RegNum) (s1 : RegNum) (imm : BitVec 16) : Statement (.ldBuImm d s1 imm) := by
  have hm : (0xFC000000#32 : Word) = wordOf 63#6 0#5 0#5 0#16 := by decide
  show wordOf 0b000011#6 d s1 imm &&& 0xFC000000#32 = 0x0C000000#32
  rw [hm, wordOf_and]
  simp only [BitVec.and_zero]
  rfl

theorem ldDImm (d : RegNum) (s1 : RegNum) (imm : BitVec 16) : Statement (.ldDImm d s1 imm) := by
  have hm : (0xFC000000#32 : Word) = wordOf 63#6 0#5 0#5 0#16 := by decide
  show wordOf 0b000100#6 d s1 imm &&& 0xFC000000#32 = 0x10000000#32
  rw [hm, wordOf_and]
  simp only [BitVec.and_zero]
  rfl

theorem ldImm (d : RegNum) (s1 : RegNum) (imm : BitVec 16) : Statement (.ldImm d s1 imm) := by
  have hm : (0xFC000000#32 : Word) = wordOf 63#6 0#5 0#5 0#16 := by decide
  show wordOf 0b000101#6 d s1 imm &&& 0xFC000000#32 = 0x14000000#32
  rw [hm, wordOf_and]
  simp only [BitVec.and_zero]
  rfl

theorem ldHImm (d : RegNum) (s1 : RegNum) (imm : BitVec 16) : Statement (.ldHImm d s1 imm) := by
  have hm : (0xFC000000#32 : Word) = wordOf 63#6 0#5 0#5 0#16 := by decide
  show wordOf 0b000110#6 d s1 imm &&& 0xFC000000#32 = 0x18000000#32
  rw [hm, wordOf_and]
  simp only [BitVec.and_zero]
  rfl

theorem ldBImm (d : RegNum) (s1 : RegNum) (imm : BitVec 16) : Statement (.ldBImm d s1 imm) := by
  have hm : (0xFC000000#32 : Word) = wordOf 63#6 0#5 0#5 0#16 := by decide
  show wordOf 0b000111#6 d s1 imm &&& 0xFC000000#32 = 0x1C000000#32
  rw [hm, wordOf_and]
  simp only [BitVec.and_zero]
  rfl

theorem stDImm (d : RegNum) (s1 : RegNum) (imm : BitVec 16) : Statement (.stDImm d s1 imm) := by
  have hm : (0xFC000000#32 : Word) = wordOf 63#6 0#5 0#5 0#16 := by decide
  show wordOf 0b001000#6 d s1 imm &&& 0xFC000000#32 = 0x20000000#32
  rw [hm, wordOf_and]
  simp only [BitVec.and_zero]
  rfl

theorem stImm (d : RegNum) (s1 : RegNum) (imm : BitVec 16) : Statement (.stImm d s1 imm) := by
  have hm : (0xFC000000#32 : Word) = wordOf 63#6 0#5 0#5 0#16 := by decide
  show wordOf 0b001001#6 d s1 imm &&& 0xFC000000#32 = 0x24000000#32
  rw [hm, wordOf_and]
  simp only [BitVec.and_zero]
  rfl

theorem stHImm (d : RegNum) (s1 : RegNum) (imm : BitVec 16) : Statement (.stHImm d s1 imm) := by
  have hm : (0xFC000000#32 : Word) = wordOf 63#6 0#5 0#5 0#16 := by decide
  show wordOf 0b001010#6 d s1 imm &&& 0xFC000000#32 = 0x28000000#32
  rw [hm, wordOf_and]
  simp only [BitVec.and_zero]
  rfl

theorem stBImm (d : RegNum) (s1 : RegNum) (imm : BitVec 16) : Statement (.stBImm d s1 imm) := by
  have hm : (0xFC000000#32 : Word) = wordOf 63#6 0#5 0#5 0#16 := by decide
  show wordOf 0b001011#6 d s1 imm &&& 0xFC000000#32 = 0x2C000000#32
  rw [hm, wordOf_and]
  simp only [BitVec.and_zero]
  rfl

theorem stXrfDImm (d : RegNum) (s1 : RegNum) (imm : BitVec 16) : Statement (.stXrfDImm d s1 imm) := by
  have hm : (0xFC000000#32 : Word) = wordOf 63#6 0#5 0#5 0#16 := by decide
  show wordOf 0b001100#6 d s1 imm &&& 0xFC000000#32 = 0x30000000#32
  rw [hm, wordOf_and]
  simp only [BitVec.and_zero]
  rfl

theorem stXrfImm (d : RegNum) (s1 : RegNum) (imm : BitVec 16) : Statement (.stXrfImm d s1 imm) := by
  have hm : (0xFC000000#32 : Word) = wordOf 63#6 0#5 0#5 0#16 := by decide
  show wordOf 0b001101#6 d s1 imm &&& 0xFC000000#32 = 0x34000000#32
  rw [hm, wordOf_and]
  simp only [BitVec.and_zero]
  rfl

theorem stXrfXImm (d : RegNum) (s1 : RegNum) (imm : BitVec 16) : Statement (.stXrfXImm d s1 imm) := by
  have hm : (0xFC000000#32 : Word) = wordOf 63#6 0#5 0#5 0#16 := by decide
  show wordOf 0b001110#6 d s1 imm &&& 0xFC000000#32 = 0x38000000#32
  rw [hm, wordOf_and]
  simp only [BitVec.and_zero]
  rfl

theorem ldXrfXImm (d : RegNum) (s1 : RegNum) (imm : BitVec 16) : Statement (.ldXrfXImm d s1 imm) := by
  have hm : (0xFC000000#32 : Word) = wordOf 63#6 0#5 0#5 0#16 := by decide
  show wordOf 0b001111#6 d s1 imm &&& 0xFC000000#32 = 0x3C000000#32
  rw [hm, wordOf_and]
  simp only [BitVec.and_zero]
  rfl

theorem andImm (d : RegNum) (s1 : RegNum) (imm : BitVec 16) : Statement (.andImm d s1 imm) := by
  have hm : (0xFC000000#32 : Word) = wordOf 63#6 0#5 0#5 0#16 := by decide
  show wordOf 0b010000#6 d s1 imm &&& 0xFC000000#32 = 0x40000000#32
  rw [hm, wordOf_and]
  simp only [BitVec.and_zero]
  rfl

theorem andUImm (d : RegNum) (s1 : RegNum) (imm : BitVec 16) : Statement (.andUImm d s1 imm) := by
  have hm : (0xFC000000#32 : Word) = wordOf 63#6 0#5 0#5 0#16 := by decide
  show wordOf 0b010001#6 d s1 imm &&& 0xFC000000#32 = 0x44000000#32
  rw [hm, wordOf_and]
  simp only [BitVec.and_zero]
  rfl

theorem maskImm (d : RegNum) (s1 : RegNum) (imm : BitVec 16) : Statement (.maskImm d s1 imm) := by
  have hm : (0xFC000000#32 : Word) = wordOf 63#6 0#5 0#5 0#16 := by decide
  show wordOf 0b010010#6 d s1 imm &&& 0xFC000000#32 = 0x48000000#32
  rw [hm, wordOf_and]
  simp only [BitVec.and_zero]
  rfl

theorem maskUImm (d : RegNum) (s1 : RegNum) (imm : BitVec 16) : Statement (.maskUImm d s1 imm) := by
  have hm : (0xFC000000#32 : Word) = wordOf 63#6 0#5 0#5 0#16 := by decide
  show wordOf 0b010011#6 d s1 imm &&& 0xFC000000#32 = 0x4C000000#32
  rw [hm, wordOf_and]
  simp only [BitVec.and_zero]
  rfl

theorem xorImm (d : RegNum) (s1 : RegNum) (imm : BitVec 16) : Statement (.xorImm d s1 imm) := by
  have hm : (0xFC000000#32 : Word) = wordOf 63#6 0#5 0#5 0#16 := by decide
  show wordOf 0b010100#6 d s1 imm &&& 0xFC000000#32 = 0x50000000#32
  rw [hm, wordOf_and]
  simp only [BitVec.and_zero]
  rfl

theorem xorUImm (d : RegNum) (s1 : RegNum) (imm : BitVec 16) : Statement (.xorUImm d s1 imm) := by
  have hm : (0xFC000000#32 : Word) = wordOf 63#6 0#5 0#5 0#16 := by decide
  show wordOf 0b010101#6 d s1 imm &&& 0xFC000000#32 = 0x54000000#32
  rw [hm, wordOf_and]
  simp only [BitVec.and_zero]
  rfl

theorem orImm (d : RegNum) (s1 : RegNum) (imm : BitVec 16) : Statement (.orImm d s1 imm) := by
  have hm : (0xFC000000#32 : Word) = wordOf 63#6 0#5 0#5 0#16 := by decide
  show wordOf 0b010110#6 d s1 imm &&& 0xFC000000#32 = 0x58000000#32
  rw [hm, wordOf_and]
  simp only [BitVec.and_zero]
  rfl

theorem orUImm (d : RegNum) (s1 : RegNum) (imm : BitVec 16) : Statement (.orUImm d s1 imm) := by
  have hm : (0xFC000000#32 : Word) = wordOf 63#6 0#5 0#5 0#16 := by decide
  show wordOf 0b010111#6 d s1 imm &&& 0xFC000000#32 = 0x5C000000#32
  rw [hm, wordOf_and]
  simp only [BitVec.and_zero]
  rfl

theorem adduImm (d : RegNum) (s1 : RegNum) (imm : BitVec 16) : Statement (.adduImm d s1 imm) := by
  have hm : (0xFC000000#32 : Word) = wordOf 63#6 0#5 0#5 0#16 := by decide
  show wordOf 0b011000#6 d s1 imm &&& 0xFC000000#32 = 0x60000000#32
  rw [hm, wordOf_and]
  simp only [BitVec.and_zero]
  rfl

theorem subuImm (d : RegNum) (s1 : RegNum) (imm : BitVec 16) : Statement (.subuImm d s1 imm) := by
  have hm : (0xFC000000#32 : Word) = wordOf 63#6 0#5 0#5 0#16 := by decide
  show wordOf 0b011001#6 d s1 imm &&& 0xFC000000#32 = 0x64000000#32
  rw [hm, wordOf_and]
  simp only [BitVec.and_zero]
  rfl

theorem divuImm (d : RegNum) (s1 : RegNum) (imm : BitVec 16) : Statement (.divuImm d s1 imm) := by
  have hm : (0xFC000000#32 : Word) = wordOf 63#6 0#5 0#5 0#16 := by decide
  show wordOf 0b011010#6 d s1 imm &&& 0xFC000000#32 = 0x68000000#32
  rw [hm, wordOf_and]
  simp only [BitVec.and_zero]
  rfl

theorem muluImm (d : RegNum) (s1 : RegNum) (imm : BitVec 16) : Statement (.muluImm d s1 imm) := by
  have hm : (0xFC000000#32 : Word) = wordOf 63#6 0#5 0#5 0#16 := by decide
  show wordOf 0b011011#6 d s1 imm &&& 0xFC000000#32 = 0x6C000000#32
  rw [hm, wordOf_and]
  simp only [BitVec.and_zero]
  rfl

theorem addImm (d : RegNum) (s1 : RegNum) (imm : BitVec 16) : Statement (.addImm d s1 imm) := by
  have hm : (0xFC000000#32 : Word) = wordOf 63#6 0#5 0#5 0#16 := by decide
  show wordOf 0b011100#6 d s1 imm &&& 0xFC000000#32 = 0x70000000#32
  rw [hm, wordOf_and]
  simp only [BitVec.and_zero]
  rfl

theorem subImm (d : RegNum) (s1 : RegNum) (imm : BitVec 16) : Statement (.subImm d s1 imm) := by
  have hm : (0xFC000000#32 : Word) = wordOf 63#6 0#5 0#5 0#16 := by decide
  show wordOf 0b011101#6 d s1 imm &&& 0xFC000000#32 = 0x74000000#32
  rw [hm, wordOf_and]
  simp only [BitVec.and_zero]
  rfl

theorem divsImm (d : RegNum) (s1 : RegNum) (imm : BitVec 16) : Statement (.divsImm d s1 imm) := by
  have hm : (0xFC000000#32 : Word) = wordOf 63#6 0#5 0#5 0#16 := by decide
  show wordOf 0b011110#6 d s1 imm &&& 0xFC000000#32 = 0x78000000#32
  rw [hm, wordOf_and]
  simp only [BitVec.and_zero]
  rfl

theorem cmpImm (d : RegNum) (s1 : RegNum) (imm : BitVec 16) : Statement (.cmpImm d s1 imm) := by
  have hm : (0xFC000000#32 : Word) = wordOf 63#6 0#5 0#5 0#16 := by decide
  show wordOf 0b011111#6 d s1 imm &&& 0xFC000000#32 = 0x7C000000#32
  rw [hm, wordOf_and]
  simp only [BitVec.and_zero]
  rfl

theorem ldcr (d : RegNum) (cr : BitVec 6) : Statement (.ldcr d cr) := by
  have hm : (0xFC1FF81F#32 : Word) = wordOf 63#6 0#5 31#5 (loCr 3#2 7#3 0#6 31#5) := by decide
  show wordOf 0b100000#6 d 0#5 (loCr 0b01#2 0b000#3 cr 0#5) &&& 0xFC1FF81F#32 = 0x80004000#32
  rw [hm, wordOf_and, loCr_and]
  simp only [BitVec.and_zero]
  rfl

theorem stcr (s1 : RegNum) (cr : BitVec 6) (s2 : RegNum) : Statement (.stcr s1 cr s2) := by
  have hm : (0xFFE0F800#32 : Word) = wordOf 63#6 31#5 0#5 (loCr 3#2 7#3 0#6 0#5) := by decide
  show wordOf 0b100000#6 0#5 s1 (loCr 0b10#2 0b000#3 cr s2) &&& 0xFFE0F800#32 = 0x80008000#32
  rw [hm, wordOf_and, loCr_and]
  simp only [BitVec.and_zero]
  rfl

theorem xcr (d : RegNum) (s1 : RegNum) (cr : BitVec 6) (s2 : RegNum) : Statement (.xcr d s1 cr s2) := by
  have hm : (0xFC00F800#32 : Word) = wordOf 63#6 0#5 0#5 (loCr 3#2 7#3 0#6 0#5) := by decide
  show wordOf 0b100000#6 d s1 (loCr 0b11#2 0b000#3 cr s2) &&& 0xFC00F800#32 = 0x8000C000#32
  rw [hm, wordOf_and, loCr_and]
  simp only [BitVec.and_zero]
  rfl

theorem fldcr (d : RegNum) (cr : BitVec 6) : Statement (.fldcr d cr) := by
  have hm : (0xFC1FF81F#32 : Word) = wordOf 63#6 0#5 31#5 (loCr 3#2 7#3 0#6 31#5) := by decide
  show wordOf 0b100000#6 d 0#5 (loCr 0b01#2 0b001#3 cr 0#5) &&& 0xFC1FF81F#32 = 0x80004800#32
  rw [hm, wordOf_and, loCr_and]
  simp only [BitVec.and_zero]
  rfl

theorem fstcr (s1 : RegNum) (cr : BitVec 6) (s2 : RegNum) : Statement (.fstcr s1 cr s2) := by
  have hm : (0xFFE0F800#32 : Word) = wordOf 63#6 31#5 0#5 (loCr 3#2 7#3 0#6 0#5) := by decide
  show wordOf 0b100000#6 0#5 s1 (loCr 0b10#2 0b001#3 cr s2) &&& 0xFFE0F800#32 = 0x80008800#32
  rw [hm, wordOf_and, loCr_and]
  simp only [BitVec.and_zero]
  rfl

theorem fxcr (d : RegNum) (s1 : RegNum) (cr : BitVec 6) (s2 : RegNum) : Statement (.fxcr d s1 cr s2) := by
  have hm : (0xFC00F800#32 : Word) = wordOf 63#6 0#5 0#5 (loCr 3#2 7#3 0#6 0#5) := by decide
  show wordOf 0b100000#6 d s1 (loCr 0b11#2 0b001#3 cr s2) &&& 0xFC00F800#32 = 0x8000C800#32
  rw [hm, wordOf_and, loCr_and]
  simp only [BitVec.and_zero]
  rfl

theorem br (n : Bool) (disp : BitVec 26) : Statement (.br n disp) := by
  have hm : (0xF8000000#32 : Word) = wordBr26 31#5 false 0#26 := by decide
  show wordBr26 0b11000#5 n disp &&& 0xF8000000#32 = 0xC0000000#32
  rw [hm, wordBr26_and]
  simp only [BitVec.and_zero, Bool.and_false]
  rfl

theorem bsr (n : Bool) (disp : BitVec 26) : Statement (.bsr n disp) := by
  have hm : (0xF8000000#32 : Word) = wordBr26 31#5 false 0#26 := by decide
  show wordBr26 0b11001#5 n disp &&& 0xF8000000#32 = 0xC8000000#32
  rw [hm, wordBr26_and]
  simp only [BitVec.and_zero, Bool.and_false]
  rfl

theorem bb0 (n : Bool) (b : BitVec 5) (s1 : RegNum) (disp : BitVec 16) : Statement (.bb0 n b s1 disp) := by
  have hm : (0xF8000000#32 : Word) = wordOf 62#6 0#5 0#5 0#16 := by decide
  show wordOf (opBr16 0b11010#5 n) b s1 disp &&& 0xF8000000#32 = 0xD0000000#32
  rw [hm, wordOf_and]
  simp only [BitVec.and_zero]
  cases n <;> rfl

theorem bb1 (n : Bool) (b : BitVec 5) (s1 : RegNum) (disp : BitVec 16) : Statement (.bb1 n b s1 disp) := by
  have hm : (0xF8000000#32 : Word) = wordOf 62#6 0#5 0#5 0#16 := by decide
  show wordOf (opBr16 0b11011#5 n) b s1 disp &&& 0xF8000000#32 = 0xD8000000#32
  rw [hm, wordOf_and]
  simp only [BitVec.and_zero]
  cases n <;> rfl

theorem bcnd (n : Bool) (m : BitVec 5) (s1 : RegNum) (disp : BitVec 16) : Statement (.bcnd n m s1 disp) := by
  have hm : (0xF8000000#32 : Word) = wordOf 62#6 0#5 0#5 0#16 := by decide
  show wordOf (opBr16 0b11101#5 n) m s1 disp &&& 0xF8000000#32 = 0xE8000000#32
  rw [hm, wordOf_and]
  simp only [BitVec.and_zero]
  cases n <;> rfl

theorem clrImm (d : RegNum) (s1 : RegNum) (w : BitVec 5) (o : BitVec 5) : Statement (.clrImm d s1 w o) := by
  have hm : (0xFC00FC00#32 : Word) = wordOf 63#6 0#5 0#5 (loTri 63#6 0#5 0#5) := by decide
  show wordOf 0b111100#6 d s1 (loTri 0b100000#6 w o) &&& 0xFC00FC00#32 = 0xF0008000#32
  rw [hm, wordOf_and, loTri_and]
  simp only [BitVec.and_zero]
  rfl

theorem setImm (d : RegNum) (s1 : RegNum) (w : BitVec 5) (o : BitVec 5) : Statement (.setImm d s1 w o) := by
  have hm : (0xFC00FC00#32 : Word) = wordOf 63#6 0#5 0#5 (loTri 63#6 0#5 0#5) := by decide
  show wordOf 0b111100#6 d s1 (loTri 0b100010#6 w o) &&& 0xFC00FC00#32 = 0xF0008800#32
  rw [hm, wordOf_and, loTri_and]
  simp only [BitVec.and_zero]
  rfl

theorem extImm (d : RegNum) (s1 : RegNum) (w : BitVec 5) (o : BitVec 5) : Statement (.extImm d s1 w o) := by
  have hm : (0xFC00FC00#32 : Word) = wordOf 63#6 0#5 0#5 (loTri 63#6 0#5 0#5) := by decide
  show wordOf 0b111100#6 d s1 (loTri 0b100100#6 w o) &&& 0xFC00FC00#32 = 0xF0009000#32
  rw [hm, wordOf_and, loTri_and]
  simp only [BitVec.and_zero]
  rfl

theorem extuImm (d : RegNum) (s1 : RegNum) (w : BitVec 5) (o : BitVec 5) : Statement (.extuImm d s1 w o) := by
  have hm : (0xFC00FC00#32 : Word) = wordOf 63#6 0#5 0#5 (loTri 63#6 0#5 0#5) := by decide
  show wordOf 0b111100#6 d s1 (loTri 0b100110#6 w o) &&& 0xFC00FC00#32 = 0xF0009800#32
  rw [hm, wordOf_and, loTri_and]
  simp only [BitVec.and_zero]
  rfl

theorem makImm (d : RegNum) (s1 : RegNum) (w : BitVec 5) (o : BitVec 5) : Statement (.makImm d s1 w o) := by
  have hm : (0xFC00FC00#32 : Word) = wordOf 63#6 0#5 0#5 (loTri 63#6 0#5 0#5) := by decide
  show wordOf 0b111100#6 d s1 (loTri 0b101000#6 w o) &&& 0xFC00FC00#32 = 0xF000A000#32
  rw [hm, wordOf_and, loTri_and]
  simp only [BitVec.and_zero]
  rfl

theorem rotImm (d : RegNum) (s1 : RegNum) (o : BitVec 5) : Statement (.rotImm d s1 o) := by
  have hm : (0xFC00FFE0#32 : Word) = wordOf 63#6 0#5 0#5 (loTri 63#6 31#5 0#5) := by decide
  show wordOf 0b111100#6 d s1 (loTri 0b101010#6 0#5 o) &&& 0xFC00FFE0#32 = 0xF000A800#32
  rw [hm, wordOf_and, loTri_and]
  simp only [BitVec.and_zero]
  rfl

theorem tb0 (b : BitVec 5) (s1 : RegNum) (vec : BitVec 9) : Statement (.tb0 b s1 vec) := by
  have hm : (0xFC00FE00#32 : Word) = wordOf 63#6 0#5 0#5 (loVec 127#7 0#9) := by decide
  show wordOf 0b111100#6 b s1 (loVec 0b1101000#7 vec) &&& 0xFC00FE00#32 = 0xF000D000#32
  rw [hm, wordOf_and, loVec_and]
  simp only [BitVec.and_zero]
  rfl

theorem tb1 (b : BitVec 5) (s1 : RegNum) (vec : BitVec 9) : Statement (.tb1 b s1 vec) := by
  have hm : (0xFC00FE00#32 : Word) = wordOf 63#6 0#5 0#5 (loVec 127#7 0#9) := by decide
  show wordOf 0b111100#6 b s1 (loVec 0b1101100#7 vec) &&& 0xFC00FE00#32 = 0xF000D800#32
  rw [hm, wordOf_and, loVec_and]
  simp only [BitVec.and_zero]
  rfl

theorem tcnd (m : BitVec 5) (s1 : RegNum) (vec : BitVec 9) : Statement (.tcnd m s1 vec) := by
  have hm : (0xFC00FE00#32 : Word) = wordOf 63#6 0#5 0#5 (loVec 127#7 0#9) := by decide
  show wordOf 0b111100#6 m s1 (loVec 0b1110100#7 vec) &&& 0xFC00FE00#32 = 0xF000E800#32
  rw [hm, wordOf_and, loVec_and]
  simp only [BitVec.and_zero]
  rfl

theorem ldXrfD (d : RegNum) (s1 : RegNum) (scaled : Bool) (usr : Bool) (s2 : RegNum) : Statement (.ldXrfD d s1 scaled usr s2) := by
  have hm : (0xFC00FCE0#32 : Word) = wordOf 63#6 0#5 0#5 (loTri 63#6 7#5 0#5) := by decide
  show wordOf 0b111100#6 d s1 (loTri 0b000100#6 (midLoad scaled usr) s2) &&& 0xFC00FCE0#32 = 0xF0001000#32
  rw [hm, wordOf_and, loTri_and]
  simp only [BitVec.and_zero]
  cases scaled <;> cases usr <;> rfl

theorem ldXrf (d : RegNum) (s1 : RegNum) (scaled : Bool) (usr : Bool) (s2 : RegNum) : Statement (.ldXrf d s1 scaled usr s2) := by
  have hm : (0xFC00FCE0#32 : Word) = wordOf 63#6 0#5 0#5 (loTri 63#6 7#5 0#5) := by decide
  show wordOf 0b111100#6 d s1 (loTri 0b000101#6 (midLoad scaled usr) s2) &&& 0xFC00FCE0#32 = 0xF0001400#32
  rw [hm, wordOf_and, loTri_and]
  simp only [BitVec.and_zero]
  cases scaled <;> cases usr <;> rfl

theorem ldXrfX (d : RegNum) (s1 : RegNum) (scaled : Bool) (usr : Bool) (s2 : RegNum) : Statement (.ldXrfX d s1 scaled usr s2) := by
  have hm : (0xFC00FCE0#32 : Word) = wordOf 63#6 0#5 0#5 (loTri 63#6 7#5 0#5) := by decide
  show wordOf 0b111100#6 d s1 (loTri 0b000110#6 (midLoad scaled usr) s2) &&& 0xFC00FCE0#32 = 0xF0001800#32
  rw [hm, wordOf_and, loTri_and]
  simp only [BitVec.and_zero]
  cases scaled <;> cases usr <;> rfl

theorem stXrfD (d : RegNum) (s1 : RegNum) (scaled : Bool) (usr : Bool) (wt : Bool) (s2 : RegNum) : Statement (.stXrfD d s1 scaled usr wt s2) := by
  have hm : (0xFC00FC60#32 : Word) = wordOf 63#6 0#5 0#5 (loTri 63#6 3#5 0#5) := by decide
  show wordOf 0b111100#6 d s1 (loTri 0b001000#6 (midStore scaled usr wt) s2) &&& 0xFC00FC60#32 = 0xF0002000#32
  rw [hm, wordOf_and, loTri_and]
  simp only [BitVec.and_zero]
  cases scaled <;> cases usr <;> cases wt <;> rfl

theorem stXrf (d : RegNum) (s1 : RegNum) (scaled : Bool) (usr : Bool) (wt : Bool) (s2 : RegNum) : Statement (.stXrf d s1 scaled usr wt s2) := by
  have hm : (0xFC00FC60#32 : Word) = wordOf 63#6 0#5 0#5 (loTri 63#6 3#5 0#5) := by decide
  show wordOf 0b111100#6 d s1 (loTri 0b001001#6 (midStore scaled usr wt) s2) &&& 0xFC00FC60#32 = 0xF0002400#32
  rw [hm, wordOf_and, loTri_and]
  simp only [BitVec.and_zero]
  cases scaled <;> cases usr <;> cases wt <;> rfl

theorem stXrfX (d : RegNum) (s1 : RegNum) (scaled : Bool) (usr : Bool) (wt : Bool) (s2 : RegNum) : Statement (.stXrfX d s1 scaled usr wt s2) := by
  have hm : (0xFC00FC60#32 : Word) = wordOf 63#6 0#5 0#5 (loTri 63#6 3#5 0#5) := by decide
  show wordOf 0b111100#6 d s1 (loTri 0b001010#6 (midStore scaled usr wt) s2) &&& 0xFC00FC60#32 = 0xF0002800#32
  rw [hm, wordOf_and, loTri_and]
  simp only [BitVec.and_zero]
  cases scaled <;> cases usr <;> cases wt <;> rfl

theorem xmemBu (d : RegNum) (s1 : RegNum) (scaled : Bool) (usr : Bool) (s2 : RegNum) : Statement (.xmemBu d s1 scaled usr s2) := by
  have hm : (0xFC00FCE0#32 : Word) = wordOf 63#6 0#5 0#5 (loTri 63#6 7#5 0#5) := by decide
  show wordOf 0b111101#6 d s1 (loTri 0b000000#6 (midLoad scaled usr) s2) &&& 0xFC00FCE0#32 = 0xF4000000#32
  rw [hm, wordOf_and, loTri_and]
  simp only [BitVec.and_zero]
  cases scaled <;> cases usr <;> rfl

theorem xmem (d : RegNum) (s1 : RegNum) (scaled : Bool) (usr : Bool) (s2 : RegNum) : Statement (.xmem d s1 scaled usr s2) := by
  have hm : (0xFC00FCE0#32 : Word) = wordOf 63#6 0#5 0#5 (loTri 63#6 7#5 0#5) := by decide
  show wordOf 0b111101#6 d s1 (loTri 0b000001#6 (midLoad scaled usr) s2) &&& 0xFC00FCE0#32 = 0xF4000400#32
  rw [hm, wordOf_and, loTri_and]
  simp only [BitVec.and_zero]
  cases scaled <;> cases usr <;> rfl

theorem ldHu (d : RegNum) (s1 : RegNum) (scaled : Bool) (usr : Bool) (s2 : RegNum) : Statement (.ldHu d s1 scaled usr s2) := by
  have hm : (0xFC00FCE0#32 : Word) = wordOf 63#6 0#5 0#5 (loTri 63#6 7#5 0#5) := by decide
  show wordOf 0b111101#6 d s1 (loTri 0b000010#6 (midLoad scaled usr) s2) &&& 0xFC00FCE0#32 = 0xF4000800#32
  rw [hm, wordOf_and, loTri_and]
  simp only [BitVec.and_zero]
  cases scaled <;> cases usr <;> rfl

theorem ldBu (d : RegNum) (s1 : RegNum) (scaled : Bool) (usr : Bool) (s2 : RegNum) : Statement (.ldBu d s1 scaled usr s2) := by
  have hm : (0xFC00FCE0#32 : Word) = wordOf 63#6 0#5 0#5 (loTri 63#6 7#5 0#5) := by decide
  show wordOf 0b111101#6 d s1 (loTri 0b000011#6 (midLoad scaled usr) s2) &&& 0xFC00FCE0#32 = 0xF4000C00#32
  rw [hm, wordOf_and, loTri_and]
  simp only [BitVec.and_zero]
  cases scaled <;> cases usr <;> rfl

theorem ldD (d : RegNum) (s1 : RegNum) (scaled : Bool) (usr : Bool) (s2 : RegNum) : Statement (.ldD d s1 scaled usr s2) := by
  have hm : (0xFC00FCE0#32 : Word) = wordOf 63#6 0#5 0#5 (loTri 63#6 7#5 0#5) := by decide
  show wordOf 0b111101#6 d s1 (loTri 0b000100#6 (midLoad scaled usr) s2) &&& 0xFC00FCE0#32 = 0xF4001000#32
  rw [hm, wordOf_and, loTri_and]
  simp only [BitVec.and_zero]
  cases scaled <;> cases usr <;> rfl

theorem ld (d : RegNum) (s1 : RegNum) (scaled : Bool) (usr : Bool) (s2 : RegNum) : Statement (.ld d s1 scaled usr s2) := by
  have hm : (0xFC00FCE0#32 : Word) = wordOf 63#6 0#5 0#5 (loTri 63#6 7#5 0#5) := by decide
  show wordOf 0b111101#6 d s1 (loTri 0b000101#6 (midLoad scaled usr) s2) &&& 0xFC00FCE0#32 = 0xF4001400#32
  rw [hm, wordOf_and, loTri_and]
  simp only [BitVec.and_zero]
  cases scaled <;> cases usr <;> rfl

theorem ldH (d : RegNum) (s1 : RegNum) (scaled : Bool) (usr : Bool) (s2 : RegNum) : Statement (.ldH d s1 scaled usr s2) := by
  have hm : (0xFC00FCE0#32 : Word) = wordOf 63#6 0#5 0#5 (loTri 63#6 7#5 0#5) := by decide
  show wordOf 0b111101#6 d s1 (loTri 0b000110#6 (midLoad scaled usr) s2) &&& 0xFC00FCE0#32 = 0xF4001800#32
  rw [hm, wordOf_and, loTri_and]
  simp only [BitVec.and_zero]
  cases scaled <;> cases usr <;> rfl

theorem ldB (d : RegNum) (s1 : RegNum) (scaled : Bool) (usr : Bool) (s2 : RegNum) : Statement (.ldB d s1 scaled usr s2) := by
  have hm : (0xFC00FCE0#32 : Word) = wordOf 63#6 0#5 0#5 (loTri 63#6 7#5 0#5) := by decide
  show wordOf 0b111101#6 d s1 (loTri 0b000111#6 (midLoad scaled usr) s2) &&& 0xFC00FCE0#32 = 0xF4001C00#32
  rw [hm, wordOf_and, loTri_and]
  simp only [BitVec.and_zero]
  cases scaled <;> cases usr <;> rfl

theorem stD (d : RegNum) (s1 : RegNum) (scaled : Bool) (usr : Bool) (wt : Bool) (s2 : RegNum) : Statement (.stD d s1 scaled usr wt s2) := by
  have hm : (0xFC00FC60#32 : Word) = wordOf 63#6 0#5 0#5 (loTri 63#6 3#5 0#5) := by decide
  show wordOf 0b111101#6 d s1 (loTri 0b001000#6 (midStore scaled usr wt) s2) &&& 0xFC00FC60#32 = 0xF4002000#32
  rw [hm, wordOf_and, loTri_and]
  simp only [BitVec.and_zero]
  cases scaled <;> cases usr <;> cases wt <;> rfl

theorem st (d : RegNum) (s1 : RegNum) (scaled : Bool) (usr : Bool) (wt : Bool) (s2 : RegNum) : Statement (.st d s1 scaled usr wt s2) := by
  have hm : (0xFC00FC60#32 : Word) = wordOf 63#6 0#5 0#5 (loTri 63#6 3#5 0#5) := by decide
  show wordOf 0b111101#6 d s1 (loTri 0b001001#6 (midStore scaled usr wt) s2) &&& 0xFC00FC60#32 = 0xF4002400#32
  rw [hm, wordOf_and, loTri_and]
  simp only [BitVec.and_zero]
  cases scaled <;> cases usr <;> cases wt <;> rfl

theorem stH (d : RegNum) (s1 : RegNum) (scaled : Bool) (usr : Bool) (wt : Bool) (s2 : RegNum) : Statement (.stH d s1 scaled usr wt s2) := by
  have hm : (0xFC00FC60#32 : Word) = wordOf 63#6 0#5 0#5 (loTri 63#6 3#5 0#5) := by decide
  show wordOf 0b111101#6 d s1 (loTri 0b001010#6 (midStore scaled usr wt) s2) &&& 0xFC00FC60#32 = 0xF4002800#32
  rw [hm, wordOf_and, loTri_and]
  simp only [BitVec.and_zero]
  cases scaled <;> cases usr <;> cases wt <;> rfl

theorem stB (d : RegNum) (s1 : RegNum) (scaled : Bool) (usr : Bool) (wt : Bool) (s2 : RegNum) : Statement (.stB d s1 scaled usr wt s2) := by
  have hm : (0xFC00FC60#32 : Word) = wordOf 63#6 0#5 0#5 (loTri 63#6 3#5 0#5) := by decide
  show wordOf 0b111101#6 d s1 (loTri 0b001011#6 (midStore scaled usr wt) s2) &&& 0xFC00FC60#32 = 0xF4002C00#32
  rw [hm, wordOf_and, loTri_and]
  simp only [BitVec.and_zero]
  cases scaled <;> cases usr <;> cases wt <;> rfl

theorem ldaD (d : RegNum) (s1 : RegNum) (s2 : RegNum) : Statement (.ldaD d s1 s2) := by
  have hm : (0xFC00FFE0#32 : Word) = wordOf 63#6 0#5 0#5 (loTri 63#6 31#5 0#5) := by decide
  show wordOf 0b111101#6 d s1 (loTri 0b001100#6 0b10000#5 s2) &&& 0xFC00FFE0#32 = 0xF4003200#32
  rw [hm, wordOf_and, loTri_and]
  simp only [BitVec.and_zero]
  rfl

theorem lda (d : RegNum) (s1 : RegNum) (s2 : RegNum) : Statement (.lda d s1 s2) := by
  have hm : (0xFC00FFE0#32 : Word) = wordOf 63#6 0#5 0#5 (loTri 63#6 31#5 0#5) := by decide
  show wordOf 0b111101#6 d s1 (loTri 0b001101#6 0b10000#5 s2) &&& 0xFC00FFE0#32 = 0xF4003600#32
  rw [hm, wordOf_and, loTri_and]
  simp only [BitVec.and_zero]
  rfl

theorem ldaH (d : RegNum) (s1 : RegNum) (s2 : RegNum) : Statement (.ldaH d s1 s2) := by
  have hm : (0xFC00FFE0#32 : Word) = wordOf 63#6 0#5 0#5 (loTri 63#6 31#5 0#5) := by decide
  show wordOf 0b111101#6 d s1 (loTri 0b001110#6 0b10000#5 s2) &&& 0xFC00FFE0#32 = 0xF4003A00#32
  rw [hm, wordOf_and, loTri_and]
  simp only [BitVec.and_zero]
  rfl

theorem ldaX (d : RegNum) (s1 : RegNum) (s2 : RegNum) : Statement (.ldaX d s1 s2) := by
  have hm : (0xFC00FFE0#32 : Word) = wordOf 63#6 0#5 0#5 (loTri 63#6 31#5 0#5) := by decide
  show wordOf 0b111101#6 d s1 (loTri 0b001111#6 0b10000#5 s2) &&& 0xFC00FFE0#32 = 0xF4003E00#32
  rw [hm, wordOf_and, loTri_and]
  simp only [BitVec.and_zero]
  rfl

theorem andReg (d : RegNum) (s1 : RegNum) (c : Bool) (s2 : RegNum) : Statement (.andReg d s1 c s2) := by
  have hm : (0xFC00FBE0#32 : Word) = wordOf 63#6 0#5 0#5 (loTri 62#6 31#5 0#5) := by decide
  show wordOf 0b111101#6 d s1 (loTri (0b01000#5 ++ BitVec.ofBool c) 0#5 s2) &&& 0xFC00FBE0#32 = 0xF4004000#32
  rw [hm, wordOf_and, loTri_and]
  simp only [BitVec.and_zero]
  cases c <;> rfl

theorem xorReg (d : RegNum) (s1 : RegNum) (c : Bool) (s2 : RegNum) : Statement (.xorReg d s1 c s2) := by
  have hm : (0xFC00FBE0#32 : Word) = wordOf 63#6 0#5 0#5 (loTri 62#6 31#5 0#5) := by decide
  show wordOf 0b111101#6 d s1 (loTri (0b01010#5 ++ BitVec.ofBool c) 0#5 s2) &&& 0xFC00FBE0#32 = 0xF4005000#32
  rw [hm, wordOf_and, loTri_and]
  simp only [BitVec.and_zero]
  cases c <;> rfl

theorem orReg (d : RegNum) (s1 : RegNum) (c : Bool) (s2 : RegNum) : Statement (.orReg d s1 c s2) := by
  have hm : (0xFC00FBE0#32 : Word) = wordOf 63#6 0#5 0#5 (loTri 62#6 31#5 0#5) := by decide
  show wordOf 0b111101#6 d s1 (loTri (0b01011#5 ++ BitVec.ofBool c) 0#5 s2) &&& 0xFC00FBE0#32 = 0xF4005800#32
  rw [hm, wordOf_and, loTri_and]
  simp only [BitVec.and_zero]
  cases c <;> rfl

theorem adduReg (d : RegNum) (s1 : RegNum) (ci : Bool) (co : Bool) (s2 : RegNum) : Statement (.adduReg d s1 ci co s2) := by
  have hm : (0xFC00FCE0#32 : Word) = wordOf 63#6 0#5 0#5 (loTri 63#6 7#5 0#5) := by decide
  show wordOf 0b111101#6 d s1 (loTri 0b011000#6 (midLoad ci co) s2) &&& 0xFC00FCE0#32 = 0xF4006000#32
  rw [hm, wordOf_and, loTri_and]
  simp only [BitVec.and_zero]
  cases ci <;> cases co <;> rfl

theorem subuReg (d : RegNum) (s1 : RegNum) (ci : Bool) (co : Bool) (s2 : RegNum) : Statement (.subuReg d s1 ci co s2) := by
  have hm : (0xFC00FCE0#32 : Word) = wordOf 63#6 0#5 0#5 (loTri 63#6 7#5 0#5) := by decide
  show wordOf 0b111101#6 d s1 (loTri 0b011001#6 (midLoad ci co) s2) &&& 0xFC00FCE0#32 = 0xF4006400#32
  rw [hm, wordOf_and, loTri_and]
  simp only [BitVec.and_zero]
  cases ci <;> cases co <;> rfl

theorem addReg (d : RegNum) (s1 : RegNum) (ci : Bool) (co : Bool) (s2 : RegNum) : Statement (.addReg d s1 ci co s2) := by
  have hm : (0xFC00FCE0#32 : Word) = wordOf 63#6 0#5 0#5 (loTri 63#6 7#5 0#5) := by decide
  show wordOf 0b111101#6 d s1 (loTri 0b011100#6 (midLoad ci co) s2) &&& 0xFC00FCE0#32 = 0xF4007000#32
  rw [hm, wordOf_and, loTri_and]
  simp only [BitVec.and_zero]
  cases ci <;> cases co <;> rfl

theorem subReg (d : RegNum) (s1 : RegNum) (ci : Bool) (co : Bool) (s2 : RegNum) : Statement (.subReg d s1 ci co s2) := by
  have hm : (0xFC00FCE0#32 : Word) = wordOf 63#6 0#5 0#5 (loTri 63#6 7#5 0#5) := by decide
  show wordOf 0b111101#6 d s1 (loTri 0b011101#6 (midLoad ci co) s2) &&& 0xFC00FCE0#32 = 0xF4007400#32
  rw [hm, wordOf_and, loTri_and]
  simp only [BitVec.and_zero]
  cases ci <;> cases co <;> rfl

theorem divuReg (d : RegNum) (s1 : RegNum) (s2 : RegNum) : Statement (.divuReg d s1 s2) := by
  have hm : (0xFC00FFE0#32 : Word) = wordOf 63#6 0#5 0#5 (loTri 63#6 31#5 0#5) := by decide
  show wordOf 0b111101#6 d s1 (loTri 0b011010#6 0b00000#5 s2) &&& 0xFC00FFE0#32 = 0xF4006800#32
  rw [hm, wordOf_and, loTri_and]
  simp only [BitVec.and_zero]
  rfl

theorem divuD (d : RegNum) (s1 : RegNum) (s2 : RegNum) : Statement (.divuD d s1 s2) := by
  have hm : (0xFC00FFE0#32 : Word) = wordOf 63#6 0#5 0#5 (loTri 63#6 31#5 0#5) := by decide
  show wordOf 0b111101#6 d s1 (loTri 0b011010#6 0b01000#5 s2) &&& 0xFC00FFE0#32 = 0xF4006900#32
  rw [hm, wordOf_and, loTri_and]
  simp only [BitVec.and_zero]
  rfl

theorem muluReg (d : RegNum) (s1 : RegNum) (s2 : RegNum) : Statement (.muluReg d s1 s2) := by
  have hm : (0xFC00FFE0#32 : Word) = wordOf 63#6 0#5 0#5 (loTri 63#6 31#5 0#5) := by decide
  show wordOf 0b111101#6 d s1 (loTri 0b011011#6 0b00000#5 s2) &&& 0xFC00FFE0#32 = 0xF4006C00#32
  rw [hm, wordOf_and, loTri_and]
  simp only [BitVec.and_zero]
  rfl

theorem muluD (d : RegNum) (s1 : RegNum) (s2 : RegNum) : Statement (.muluD d s1 s2) := by
  have hm : (0xFC00FFE0#32 : Word) = wordOf 63#6 0#5 0#5 (loTri 63#6 31#5 0#5) := by decide
  show wordOf 0b111101#6 d s1 (loTri 0b011011#6 0b01000#5 s2) &&& 0xFC00FFE0#32 = 0xF4006D00#32
  rw [hm, wordOf_and, loTri_and]
  simp only [BitVec.and_zero]
  rfl

theorem muls (d : RegNum) (s1 : RegNum) (s2 : RegNum) : Statement (.muls d s1 s2) := by
  have hm : (0xFC00FFE0#32 : Word) = wordOf 63#6 0#5 0#5 (loTri 63#6 31#5 0#5) := by decide
  show wordOf 0b111101#6 d s1 (loTri 0b011011#6 0b10000#5 s2) &&& 0xFC00FFE0#32 = 0xF4006E00#32
  rw [hm, wordOf_and, loTri_and]
  simp only [BitVec.and_zero]
  rfl

theorem divsReg (d : RegNum) (s1 : RegNum) (s2 : RegNum) : Statement (.divsReg d s1 s2) := by
  have hm : (0xFC00FFE0#32 : Word) = wordOf 63#6 0#5 0#5 (loTri 63#6 31#5 0#5) := by decide
  show wordOf 0b111101#6 d s1 (loTri 0b011110#6 0b00000#5 s2) &&& 0xFC00FFE0#32 = 0xF4007800#32
  rw [hm, wordOf_and, loTri_and]
  simp only [BitVec.and_zero]
  rfl

theorem cmpReg (d : RegNum) (s1 : RegNum) (s2 : RegNum) : Statement (.cmpReg d s1 s2) := by
  have hm : (0xFC00FFE0#32 : Word) = wordOf 63#6 0#5 0#5 (loTri 63#6 31#5 0#5) := by decide
  show wordOf 0b111101#6 d s1 (loTri 0b011111#6 0b00000#5 s2) &&& 0xFC00FFE0#32 = 0xF4007C00#32
  rw [hm, wordOf_and, loTri_and]
  simp only [BitVec.and_zero]
  rfl

theorem clrReg (d : RegNum) (s1 : RegNum) (s2 : RegNum) : Statement (.clrReg d s1 s2) := by
  have hm : (0xFC00FFE0#32 : Word) = wordOf 63#6 0#5 0#5 (loTri 63#6 31#5 0#5) := by decide
  show wordOf 0b111101#6 d s1 (loTri 0b100000#6 0b00000#5 s2) &&& 0xFC00FFE0#32 = 0xF4008000#32
  rw [hm, wordOf_and, loTri_and]
  simp only [BitVec.and_zero]
  rfl

theorem setReg (d : RegNum) (s1 : RegNum) (s2 : RegNum) : Statement (.setReg d s1 s2) := by
  have hm : (0xFC00FFE0#32 : Word) = wordOf 63#6 0#5 0#5 (loTri 63#6 31#5 0#5) := by decide
  show wordOf 0b111101#6 d s1 (loTri 0b100010#6 0b00000#5 s2) &&& 0xFC00FFE0#32 = 0xF4008800#32
  rw [hm, wordOf_and, loTri_and]
  simp only [BitVec.and_zero]
  rfl

theorem extReg (d : RegNum) (s1 : RegNum) (s2 : RegNum) : Statement (.extReg d s1 s2) := by
  have hm : (0xFC00FFE0#32 : Word) = wordOf 63#6 0#5 0#5 (loTri 63#6 31#5 0#5) := by decide
  show wordOf 0b111101#6 d s1 (loTri 0b100100#6 0b00000#5 s2) &&& 0xFC00FFE0#32 = 0xF4009000#32
  rw [hm, wordOf_and, loTri_and]
  simp only [BitVec.and_zero]
  rfl

theorem extuReg (d : RegNum) (s1 : RegNum) (s2 : RegNum) : Statement (.extuReg d s1 s2) := by
  have hm : (0xFC00FFE0#32 : Word) = wordOf 63#6 0#5 0#5 (loTri 63#6 31#5 0#5) := by decide
  show wordOf 0b111101#6 d s1 (loTri 0b100110#6 0b00000#5 s2) &&& 0xFC00FFE0#32 = 0xF4009800#32
  rw [hm, wordOf_and, loTri_and]
  simp only [BitVec.and_zero]
  rfl

theorem makReg (d : RegNum) (s1 : RegNum) (s2 : RegNum) : Statement (.makReg d s1 s2) := by
  have hm : (0xFC00FFE0#32 : Word) = wordOf 63#6 0#5 0#5 (loTri 63#6 31#5 0#5) := by decide
  show wordOf 0b111101#6 d s1 (loTri 0b101000#6 0b00000#5 s2) &&& 0xFC00FFE0#32 = 0xF400A000#32
  rw [hm, wordOf_and, loTri_and]
  simp only [BitVec.and_zero]
  rfl

theorem rotReg (d : RegNum) (s1 : RegNum) (s2 : RegNum) : Statement (.rotReg d s1 s2) := by
  have hm : (0xFC00FFE0#32 : Word) = wordOf 63#6 0#5 0#5 (loTri 63#6 31#5 0#5) := by decide
  show wordOf 0b111101#6 d s1 (loTri 0b101010#6 0b00000#5 s2) &&& 0xFC00FFE0#32 = 0xF400A800#32
  rw [hm, wordOf_and, loTri_and]
  simp only [BitVec.and_zero]
  rfl

theorem jmp (n : Bool) (s2 : RegNum) : Statement (.jmp n s2) := by
  have hm : (0xFFFFFBE0#32 : Word) = wordOf 63#6 31#5 31#5 (loTri 62#6 31#5 0#5) := by decide
  show wordOf 0b111101#6 0#5 0#5 (loTri (0b11000#5 ++ BitVec.ofBool n) 0#5 s2) &&& 0xFFFFFBE0#32 = 0xF400C000#32
  rw [hm, wordOf_and, loTri_and]
  simp only [BitVec.and_zero]
  cases n <;> rfl

theorem jsr (n : Bool) (s2 : RegNum) : Statement (.jsr n s2) := by
  have hm : (0xFFFFFBE0#32 : Word) = wordOf 63#6 31#5 31#5 (loTri 62#6 31#5 0#5) := by decide
  show wordOf 0b111101#6 0#5 0#5 (loTri (0b11001#5 ++ BitVec.ofBool n) 0#5 s2) &&& 0xFFFFFBE0#32 = 0xF400C800#32
  rw [hm, wordOf_and, loTri_and]
  simp only [BitVec.and_zero]
  cases n <;> rfl

theorem ff1 (d : RegNum) (s2 : RegNum) : Statement (.ff1 d s2) := by
  have hm : (0xFC1FFFE0#32 : Word) = wordOf 63#6 0#5 31#5 (loTri 63#6 31#5 0#5) := by decide
  show wordOf 0b111101#6 d 0#5 (loTri 0b111010#6 0b00000#5 s2) &&& 0xFC1FFFE0#32 = 0xF400E800#32
  rw [hm, wordOf_and, loTri_and]
  simp only [BitVec.and_zero]
  rfl

theorem ff0 (d : RegNum) (s2 : RegNum) : Statement (.ff0 d s2) := by
  have hm : (0xFC1FFFE0#32 : Word) = wordOf 63#6 0#5 31#5 (loTri 63#6 31#5 0#5) := by decide
  show wordOf 0b111101#6 d 0#5 (loTri 0b111011#6 0b00000#5 s2) &&& 0xFC1FFFE0#32 = 0xF400EC00#32
  rw [hm, wordOf_and, loTri_and]
  simp only [BitVec.and_zero]
  rfl

theorem tbndReg (s1 : RegNum) (s2 : RegNum) : Statement (.tbndReg s1 s2) := by
  have hm : (0xFFE0FFE0#32 : Word) = wordOf 63#6 31#5 0#5 (loTri 63#6 31#5 0#5) := by decide
  show wordOf 0b111101#6 0#5 s1 (loTri 0b111110#6 0b00000#5 s2) &&& 0xFFE0FFE0#32 = 0xF400F800#32
  rw [hm, wordOf_and, loTri_and]
  simp only [BitVec.and_zero]
  rfl

theorem tbndImm (s1 : RegNum) (imm : BitVec 16) : Statement (.tbndImm s1 imm) := by
  have hm : (0xFFE00000#32 : Word) = wordOf 63#6 31#5 0#5 0#16 := by decide
  show wordOf 0b111110#6 0#5 s1 imm &&& 0xFFE00000#32 = 0xF8000000#32
  rw [hm, wordOf_and]
  simp only [BitVec.and_zero]
  rfl

theorem rte : Statement (.rte) := by
  have hm : (0xFFFFFFFF#32 : Word) = wordOf 63#6 31#5 31#5 (loTri 63#6 31#5 31#5) := by decide
  show wordOf 0b111101#6 0#5 0#5 (loTri 0b111111#6 0#5 0#5) &&& 0xFFFFFFFF#32 = 0xF400FC00#32
  rw [hm, wordOf_and, loTri_and]
  rfl

theorem illop1 : Statement (.illop1) := by
  have hm : (0xFFFFFFFF#32 : Word) = wordOf 63#6 31#5 31#5 (loTri 63#6 31#5 31#5) := by decide
  show wordOf 0b111101#6 0#5 0#5 (loTri 0b111111#6 0#5 1#5) &&& 0xFFFFFFFF#32 = 0xF400FC01#32
  rw [hm, wordOf_and, loTri_and]
  rfl

theorem illop2 : Statement (.illop2) := by
  have hm : (0xFFFFFFFF#32 : Word) = wordOf 63#6 31#5 31#5 (loTri 63#6 31#5 31#5) := by decide
  show wordOf 0b111101#6 0#5 0#5 (loTri 0b111111#6 0#5 2#5) &&& 0xFFFFFFFF#32 = 0xF400FC02#32
  rw [hm, wordOf_and, loTri_and]
  rfl

theorem illop3 : Statement (.illop3) := by
  have hm : (0xFFFFFFFF#32 : Word) = wordOf 63#6 31#5 31#5 (loTri 63#6 31#5 31#5) := by decide
  show wordOf 0b111101#6 0#5 0#5 (loTri 0b111111#6 0#5 3#5) &&& 0xFFFFFFFF#32 = 0xF400FC03#32
  rw [hm, wordOf_and, loTri_and]
  rfl

theorem fmul (d : RegNum) (s1 : RegNum) (x : Bool) (t1 : FpSize) (t2 : FpSize) (td : FpSize) (s2 : RegNum) : Statement (.fmul d s1 x t1 t2 td s2) := by
  have hm : (0xFC007800#32 : Word) = wordOf 63#6 0#5 0#5 (loFp false 15#4 0#2 0#2 0#2 0#5) := by decide
  show wordOf 0b100001#6 d s1 (loFp x 0b0000#4 t1.code t2.code td.code s2) &&& 0xFC007800#32 = 0x84000000#32
  rw [hm, wordOf_and, loFp_and]
  simp only [BitVec.and_zero, Bool.and_false]
  rfl

theorem fadd (d : RegNum) (s1 : RegNum) (x : Bool) (t1 : FpSize) (t2 : FpSize) (td : FpSize) (s2 : RegNum) : Statement (.fadd d s1 x t1 t2 td s2) := by
  have hm : (0xFC007800#32 : Word) = wordOf 63#6 0#5 0#5 (loFp false 15#4 0#2 0#2 0#2 0#5) := by decide
  show wordOf 0b100001#6 d s1 (loFp x 0b0101#4 t1.code t2.code td.code s2) &&& 0xFC007800#32 = 0x84002800#32
  rw [hm, wordOf_and, loFp_and]
  simp only [BitVec.and_zero, Bool.and_false]
  rfl

theorem fsub (d : RegNum) (s1 : RegNum) (x : Bool) (t1 : FpSize) (t2 : FpSize) (td : FpSize) (s2 : RegNum) : Statement (.fsub d s1 x t1 t2 td s2) := by
  have hm : (0xFC007800#32 : Word) = wordOf 63#6 0#5 0#5 (loFp false 15#4 0#2 0#2 0#2 0#5) := by decide
  show wordOf 0b100001#6 d s1 (loFp x 0b0110#4 t1.code t2.code td.code s2) &&& 0xFC007800#32 = 0x84003000#32
  rw [hm, wordOf_and, loFp_and]
  simp only [BitVec.and_zero, Bool.and_false]
  rfl

theorem fdiv (d : RegNum) (s1 : RegNum) (x : Bool) (t1 : FpSize) (t2 : FpSize) (td : FpSize) (s2 : RegNum) : Statement (.fdiv d s1 x t1 t2 td s2) := by
  have hm : (0xFC007800#32 : Word) = wordOf 63#6 0#5 0#5 (loFp false 15#4 0#2 0#2 0#2 0#5) := by decide
  show wordOf 0b100001#6 d s1 (loFp x 0b1110#4 t1.code t2.code td.code s2) &&& 0xFC007800#32 = 0x84007000#32
  rw [hm, wordOf_and, loFp_and]
  simp only [BitVec.and_zero, Bool.and_false]
  rfl

theorem fcvt (d : RegNum) (x : Bool) (t2 : FpSize) (td : FpSize) (s2 : RegNum) : Statement (.fcvt d x t2 td s2) := by
  have hm : (0xFC1F7E00#32 : Word) = wordOf 63#6 0#5 31#5 (loFp false 15#4 3#2 0#2 0#2 0#5) := by decide
  show wordOf 0b100001#6 d 0#5 (loFp x 0b0001#4 0b00#2 t2.code td.code s2) &&& 0xFC1F7E00#32 = 0x84000800#32
  rw [hm, wordOf_and, loFp_and]
  simp only [BitVec.and_zero, Bool.and_false]
  rfl

theorem fsqrt (d : RegNum) (x : Bool) (t2 : FpSize) (td : FpSize) (s2 : RegNum) : Statement (.fsqrt d x t2 td s2) := by
  have hm : (0xFC1F7E00#32 : Word) = wordOf 63#6 0#5 31#5 (loFp false 15#4 3#2 0#2 0#2 0#5) := by decide
  show wordOf 0b100001#6 d 0#5 (loFp x 0b1111#4 0b00#2 t2.code td.code s2) &&& 0xFC1F7E00#32 = 0x84007800#32
  rw [hm, wordOf_and, loFp_and]
  simp only [BitVec.and_zero, Bool.and_false]
  rfl

theorem flt (d : RegNum) (x : Bool) (td : FpSize) (s2 : RegNum) : Statement (.flt d x td s2) := by
  have hm : (0xFC1FFD80#32 : Word) = wordOf 63#6 0#5 31#5 (loFp true 15#4 2#2 3#2 0#2 0#5) := by decide
  show wordOf 0b100001#6 d 0#5 (loFp false 0b0100#4 (0#1 ++ BitVec.ofBool x) 0b00#2 td.code s2) &&& 0xFC1FFD80#32 = 0x84002000#32
  rw [hm, wordOf_and, loFp_and]
  simp only [BitVec.and_zero]
  cases x <;> rfl

theorem fcmp (d : RegNum) (s1 : RegNum) (x : Bool) (t1 : FpSize) (t2 : FpSize) (s2 : RegNum) : Statement (.fcmp d s1 x t1 t2 s2) := by
  have hm : (0xFC007860#32 : Word) = wordOf 63#6 0#5 0#5 (loFp false 15#4 0#2 0#2 3#2 0#5) := by decide
  show wordOf 0b100001#6 d s1 (loFp x 0b0111#4 t1.code t2.code 0b00#2 s2) &&& 0xFC007860#32 = 0x84003800#32
  rw [hm, wordOf_and, loFp_and]
  simp only [BitVec.and_zero, Bool.and_false]
  rfl

theorem fcmpu (d : RegNum) (s1 : RegNum) (x : Bool) (t1 : FpSize) (t2 : FpSize) (s2 : RegNum) : Statement (.fcmpu d s1 x t1 t2 s2) := by
  have hm : (0xFC007860#32 : Word) = wordOf 63#6 0#5 0#5 (loFp false 15#4 0#2 0#2 3#2 0#5) := by decide
  show wordOf 0b100001#6 d s1 (loFp x 0b0111#4 t1.code t2.code 0b01#2 s2) &&& 0xFC007860#32 = 0x84003820#32
  rw [hm, wordOf_and, loFp_and]
  simp only [BitVec.and_zero, Bool.and_false]
  rfl

theorem int (d : RegNum) (x : Bool) (t2 : FpSize) (s2 : RegNum) : Statement (.int d x t2 s2) := by
  have hm : (0xFC1F7E60#32 : Word) = wordOf 63#6 0#5 31#5 (loFp false 15#4 3#2 0#2 3#2 0#5) := by decide
  show wordOf 0b100001#6 d 0#5 (loFp x 0b1001#4 0b00#2 t2.code 0b00#2 s2) &&& 0xFC1F7E60#32 = 0x84004800#32
  rw [hm, wordOf_and, loFp_and]
  simp only [BitVec.and_zero, Bool.and_false]
  rfl

theorem nint (d : RegNum) (x : Bool) (t2 : FpSize) (s2 : RegNum) : Statement (.nint d x t2 s2) := by
  have hm : (0xFC1F7E60#32 : Word) = wordOf 63#6 0#5 31#5 (loFp false 15#4 3#2 0#2 3#2 0#5) := by decide
  show wordOf 0b100001#6 d 0#5 (loFp x 0b1010#4 0b00#2 t2.code 0b00#2 s2) &&& 0xFC1F7E60#32 = 0x84005000#32
  rw [hm, wordOf_and, loFp_and]
  simp only [BitVec.and_zero, Bool.and_false]
  rfl

theorem trnc (d : RegNum) (x : Bool) (t2 : FpSize) (s2 : RegNum) : Statement (.trnc d x t2 s2) := by
  have hm : (0xFC1F7E60#32 : Word) = wordOf 63#6 0#5 31#5 (loFp false 15#4 3#2 0#2 3#2 0#5) := by decide
  show wordOf 0b100001#6 d 0#5 (loFp x 0b1011#4 0b00#2 t2.code 0b00#2 s2) &&& 0xFC1F7E60#32 = 0x84005800#32
  rw [hm, wordOf_and, loFp_and]
  simp only [BitVec.and_zero, Bool.and_false]
  rfl

theorem movToGrf (d : RegNum) (dbl : Bool) (s2 : RegNum) : Statement (.movToGrf d dbl s2) := by
  have hm : (0xFC1FFF60#32 : Word) = wordOf 63#6 0#5 31#5 (loFp true 15#4 3#2 2#2 3#2 0#5) := by decide
  show wordOf 0b100001#6 d 0#5 (loFp true 0b1000#4 0b00#2 (0#1 ++ BitVec.ofBool dbl) 0b00#2 s2) &&& 0xFC1FFF60#32 = 0x8400C000#32
  rw [hm, wordOf_and, loFp_and]
  simp only [BitVec.and_zero]
  cases dbl <;> rfl

theorem movToXrf (d : RegNum) (dbl : Bool) (s2 : RegNum) : Statement (.movToXrf d dbl s2) := by
  have hm : (0xFC1FFF60#32 : Word) = wordOf 63#6 0#5 31#5 (loFp true 15#4 3#2 2#2 3#2 0#5) := by decide
  show wordOf 0b100001#6 d 0#5 (loFp false 0b1000#4 0b01#2 (0#1 ++ BitVec.ofBool dbl) 0b00#2 s2) &&& 0xFC1FFF60#32 = 0x84004200#32
  rw [hm, wordOf_and, loFp_and]
  simp only [BitVec.and_zero]
  cases dbl <;> rfl

theorem movXrf (d : RegNum) (s2 : RegNum) : Statement (.movXrf d s2) := by
  have hm : (0xFC1FFFE0#32 : Word) = wordOf 63#6 0#5 31#5 (loFp true 15#4 3#2 3#2 3#2 0#5) := by decide
  show wordOf 0b100001#6 d 0#5 (loFp true 0b1000#4 0b01#2 0b10#2 0b00#2 s2) &&& 0xFC1FFFE0#32 = 0x8400C300#32
  rw [hm, wordOf_and, loFp_and]
  simp only [BitVec.and_zero]
  rfl

theorem pmul (d : RegNum) (s1 : RegNum) (s2 : RegNum) : Statement (.pmul d s1 s2) := by
  have hm : (0xFC00FFE0#32 : Word) = wordOf 63#6 0#5 0#5 (loGfx 31#5 15#4 3#2 0#5) := by decide
  show wordOf 0b100010#6 d s1 (loGfx 0b00000#5 0b0000#4 0b00#2 s2) &&& 0xFC00FFE0#32 = 0x88000000#32
  rw [hm, wordOf_and, loGfx_and]
  simp only [BitVec.and_zero]
  rfl

theorem padd (d : RegNum) (s1 : RegNum) (t : PackSize) (s2 : RegNum) : Statement (.padd d s1 t s2) := by
  have hm : (0xFC00FF80#32 : Word) = wordOf 63#6 0#5 0#5 (loGfx 31#5 15#4 0#2 0#5) := by decide
  show wordOf 0b100010#6 d s1 (loGfx 0b00100#5 0b0000#4 t.code s2) &&& 0xFC00FF80#32 = 0x88002000#32
  rw [hm, wordOf_and, loGfx_and]
  simp only [BitVec.and_zero]
  rfl

theorem paddsU (d : RegNum) (s1 : RegNum) (t : PackSize) (s2 : RegNum) : Statement (.paddsU d s1 t s2) := by
  have hm : (0xFC00FF80#32 : Word) = wordOf 63#6 0#5 0#5 (loGfx 31#5 15#4 0#2 0#5) := by decide
  show wordOf 0b100010#6 d s1 (loGfx 0b00100#5 0b0001#4 t.code s2) &&& 0xFC00FF80#32 = 0x88002080#32
  rw [hm, wordOf_and, loGfx_and]
  simp only [BitVec.and_zero]
  rfl

theorem paddsUs (d : RegNum) (s1 : RegNum) (t : PackSize) (s2 : RegNum) : Statement (.paddsUs d s1 t s2) := by
  have hm : (0xFC00FF80#32 : Word) = wordOf 63#6 0#5 0#5 (loGfx 31#5 15#4 0#2 0#5) := by decide
  show wordOf 0b100010#6 d s1 (loGfx 0b00100#5 0b0010#4 t.code s2) &&& 0xFC00FF80#32 = 0x88002100#32
  rw [hm, wordOf_and, loGfx_and]
  simp only [BitVec.and_zero]
  rfl

theorem paddsS (d : RegNum) (s1 : RegNum) (t : PackSize) (s2 : RegNum) : Statement (.paddsS d s1 t s2) := by
  have hm : (0xFC00FF80#32 : Word) = wordOf 63#6 0#5 0#5 (loGfx 31#5 15#4 0#2 0#5) := by decide
  show wordOf 0b100010#6 d s1 (loGfx 0b00100#5 0b0011#4 t.code s2) &&& 0xFC00FF80#32 = 0x88002180#32
  rw [hm, wordOf_and, loGfx_and]
  simp only [BitVec.and_zero]
  rfl

theorem psub (d : RegNum) (s1 : RegNum) (t : PackSize) (s2 : RegNum) : Statement (.psub d s1 t s2) := by
  have hm : (0xFC00FF80#32 : Word) = wordOf 63#6 0#5 0#5 (loGfx 31#5 15#4 0#2 0#5) := by decide
  show wordOf 0b100010#6 d s1 (loGfx 0b00110#5 0b0000#4 t.code s2) &&& 0xFC00FF80#32 = 0x88003000#32
  rw [hm, wordOf_and, loGfx_and]
  simp only [BitVec.and_zero]
  rfl

theorem psubsU (d : RegNum) (s1 : RegNum) (t : PackSize) (s2 : RegNum) : Statement (.psubsU d s1 t s2) := by
  have hm : (0xFC00FF80#32 : Word) = wordOf 63#6 0#5 0#5 (loGfx 31#5 15#4 0#2 0#5) := by decide
  show wordOf 0b100010#6 d s1 (loGfx 0b00110#5 0b0001#4 t.code s2) &&& 0xFC00FF80#32 = 0x88003080#32
  rw [hm, wordOf_and, loGfx_and]
  simp only [BitVec.and_zero]
  rfl

theorem psubsUs (d : RegNum) (s1 : RegNum) (t : PackSize) (s2 : RegNum) : Statement (.psubsUs d s1 t s2) := by
  have hm : (0xFC00FF80#32 : Word) = wordOf 63#6 0#5 0#5 (loGfx 31#5 15#4 0#2 0#5) := by decide
  show wordOf 0b100010#6 d s1 (loGfx 0b00110#5 0b0010#4 t.code s2) &&& 0xFC00FF80#32 = 0x88003100#32
  rw [hm, wordOf_and, loGfx_and]
  simp only [BitVec.and_zero]
  rfl

theorem psubsS (d : RegNum) (s1 : RegNum) (t : PackSize) (s2 : RegNum) : Statement (.psubsS d s1 t s2) := by
  have hm : (0xFC00FF80#32 : Word) = wordOf 63#6 0#5 0#5 (loGfx 31#5 15#4 0#2 0#5) := by decide
  show wordOf 0b100010#6 d s1 (loGfx 0b00110#5 0b0011#4 t.code s2) &&& 0xFC00FF80#32 = 0x88003180#32
  rw [hm, wordOf_and, loGfx_and]
  simp only [BitVec.and_zero]
  rfl

theorem pcmp (d : RegNum) (s1 : RegNum) (s2 : RegNum) : Statement (.pcmp d s1 s2) := by
  have hm : (0xFC00FFE0#32 : Word) = wordOf 63#6 0#5 0#5 (loGfx 31#5 15#4 3#2 0#5) := by decide
  show wordOf 0b100010#6 d s1 (loGfx 0b00111#5 0b0000#4 0b11#2 s2) &&& 0xFC00FFE0#32 = 0x88003860#32
  rw [hm, wordOf_and, loGfx_and]
  simp only [BitVec.and_zero]
  rfl

theorem ppack (d : RegNum) (s1 : RegNum) (r : BitVec 4) (t : PackSize) (s2 : RegNum) : Statement (.ppack d s1 r t s2) := by
  have hm : (0xFC00F800#32 : Word) = wordOf 63#6 0#5 0#5 (loGfx 31#5 0#4 0#2 0#5) := by decide
  show wordOf 0b100010#6 d s1 (loGfx 0b01100#5 r t.code s2) &&& 0xFC00F800#32 = 0x88006000#32
  rw [hm, wordOf_and, loGfx_and]
  simp only [BitVec.and_zero]
  rfl

theorem punpk (d : RegNum) (s1 : RegNum) (t : PackSize) : Statement (.punpk d s1 t) := by
  have hm : (0xFC00FF9F#32 : Word) = wordOf 63#6 0#5 0#5 (loGfx 31#5 15#4 0#2 31#5) := by decide
  show wordOf 0b100010#6 d s1 (loGfx 0b01101#5 0b0000#4 t.code 0#5) &&& 0xFC00FF9F#32 = 0x88006800#32
  rw [hm, wordOf_and, loGfx_and]
  simp only [BitVec.and_zero]
  rfl

theorem protImm (d : RegNum) (s1 : RegNum) (r : BitVec 4) : Statement (.protImm d s1 r) := by
  have hm : (0xFC00F87F#32 : Word) = wordOf 63#6 0#5 0#5 (loGfx 31#5 0#4 3#2 31#5) := by decide
  show wordOf 0b100010#6 d s1 (loGfx 0b01110#5 r 0b00#2 0#5) &&& 0xFC00F87F#32 = 0x88007000#32
  rw [hm, wordOf_and, loGfx_and]
  simp only [BitVec.and_zero]
  rfl

theorem protReg (d : RegNum) (s1 : RegNum) (s2 : RegNum) : Statement (.protReg d s1 s2) := by
  have hm : (0xFC00FFE0#32 : Word) = wordOf 63#6 0#5 0#5 (loGfx 31#5 15#4 3#2 0#5) := by decide
  show wordOf 0b100010#6 d s1 (loGfx 0b01111#5 0b0000#4 0b00#2 s2) &&& 0xFC00FFE0#32 = 0x88007800#32
  rw [hm, wordOf_and, loGfx_and]
  simp only [BitVec.and_zero]
  rfl

end Sys2Proof.Laws.RowMatch
end

