-- ==== Sys2Proof/Tests/Slice0.lean ====
section
/-!
SUPPORT. The model's own tests. Well-formedness: each check refuses an ill-formed term. Decoding: for every constructor
a word written out field by field from its row of the encoding tables (30_encoding.md R365 to R410). One step of each
instruction: the vectors of 95_test_vectors.md part B by their names there, and hand calculations where there is none.
Then, for every statement with hypotheses, a concrete state and operands that meet them.
-/

namespace Sys2Proof.Tests

open Sys2Proof Sys2Proof.Machine

/-! ### Well-formedness -/

theorem test_wf_refuses_unused_size : (Instr.fadd 2#5 4#5 true .single .unused .single 6#5).wf = false := by decide
theorem test_wf_refuses_extended_in_general_file :
    (Instr.fmul 2#5 4#5 false .single .single .ext 6#5).wf = false := by decide
theorem test_wf_admits_extended_in_extended_file :
    (Instr.fmul 2#5 4#5 true .ext .single .ext 6#5).wf = true := by decide
theorem test_wf_refuses_unused_size_of_int : (Instr.int 2#5 true .unused 6#5).wf = false := by decide
theorem test_wf_refuses_extended_destination_of_flt : (Instr.flt 2#5 false .ext 6#5).wf = false := by decide
theorem test_wf_refuses_nibble_padd : (Instr.padd 2#5 4#5 .nibble 6#5).wf = false := by decide
theorem test_wf_refuses_word_punpk : (Instr.punpk 2#5 5#5 .word).wf = false := by decide
theorem test_wf_refuses_undefined_ppack : (Instr.ppack 2#5 4#5 2#4 .half 6#5).wf = false := by decide
theorem test_wf_refuses_nibble_ppack : (Instr.ppack 2#5 4#5 8#4 .nibble 6#5).wf = false := by decide
theorem test_wf_refuses_unequal_stcr : (Instr.stcr 3#5 1#6 4#5).wf = false := by decide
theorem test_wf_refuses_unequal_xcr : (Instr.xcr 2#5 3#5 1#6 4#5).wf = false := by decide
theorem test_wf_refuses_unequal_fstcr : (Instr.fstcr 3#5 62#6 4#5).wf = false := by decide
theorem test_wf_refuses_unequal_fxcr : (Instr.fxcr 2#5 3#5 62#6 4#5).wf = false := by decide

/-! ### Decoding -/

theorem test_decode_ldXrfDImm :
    decodeWord (0b000000#6 ++ 0b10110#5 ++ 0b01101#5 ++ 0b1010010111000011#16) =
      .ok (.ldXrfDImm 22#5 13#5 0xA5C3#16) := by decide
theorem test_decode_ldXrfImm :
    decodeWord (0b000001#6 ++ 0b10110#5 ++ 0b01101#5 ++ 0b1010010111000011#16) =
      .ok (.ldXrfImm 22#5 13#5 0xA5C3#16) := by decide
theorem test_decode_ldHuImm :
    decodeWord (0b000010#6 ++ 0b10110#5 ++ 0b01101#5 ++ 0b1010010111000011#16) =
      .ok (.ldHuImm 22#5 13#5 0xA5C3#16) := by decide
theorem test_decode_ldBuImm :
    decodeWord (0b000011#6 ++ 0b10110#5 ++ 0b01101#5 ++ 0b1010010111000011#16) =
      .ok (.ldBuImm 22#5 13#5 0xA5C3#16) := by decide
theorem test_decode_ldDImm :
    decodeWord (0b000100#6 ++ 0b10110#5 ++ 0b01101#5 ++ 0b1010010111000011#16) =
      .ok (.ldDImm 22#5 13#5 0xA5C3#16) := by decide
theorem test_decode_ldImm :
    decodeWord (0b000101#6 ++ 0b10110#5 ++ 0b01101#5 ++ 0b1010010111000011#16) =
      .ok (.ldImm 22#5 13#5 0xA5C3#16) := by decide
theorem test_decode_ldHImm :
    decodeWord (0b000110#6 ++ 0b10110#5 ++ 0b01101#5 ++ 0b1010010111000011#16) =
      .ok (.ldHImm 22#5 13#5 0xA5C3#16) := by decide
theorem test_decode_ldBImm :
    decodeWord (0b000111#6 ++ 0b10110#5 ++ 0b01101#5 ++ 0b1010010111000011#16) =
      .ok (.ldBImm 22#5 13#5 0xA5C3#16) := by decide
theorem test_decode_stDImm :
    decodeWord (0b001000#6 ++ 0b10110#5 ++ 0b01101#5 ++ 0b1010010111000011#16) =
      .ok (.stDImm 22#5 13#5 0xA5C3#16) := by decide
theorem test_decode_stImm :
    decodeWord (0b001001#6 ++ 0b10110#5 ++ 0b01101#5 ++ 0b1010010111000011#16) =
      .ok (.stImm 22#5 13#5 0xA5C3#16) := by decide
theorem test_decode_stHImm :
    decodeWord (0b001010#6 ++ 0b10110#5 ++ 0b01101#5 ++ 0b1010010111000011#16) =
      .ok (.stHImm 22#5 13#5 0xA5C3#16) := by decide
theorem test_decode_stBImm :
    decodeWord (0b001011#6 ++ 0b10110#5 ++ 0b01101#5 ++ 0b1010010111000011#16) =
      .ok (.stBImm 22#5 13#5 0xA5C3#16) := by decide
theorem test_decode_stXrfDImm :
    decodeWord (0b001100#6 ++ 0b10110#5 ++ 0b01101#5 ++ 0b1010010111000011#16) =
      .ok (.stXrfDImm 22#5 13#5 0xA5C3#16) := by decide
theorem test_decode_stXrfImm :
    decodeWord (0b001101#6 ++ 0b10110#5 ++ 0b01101#5 ++ 0b1010010111000011#16) =
      .ok (.stXrfImm 22#5 13#5 0xA5C3#16) := by decide
theorem test_decode_stXrfXImm :
    decodeWord (0b001110#6 ++ 0b10110#5 ++ 0b01101#5 ++ 0b1010010111000011#16) =
      .ok (.stXrfXImm 22#5 13#5 0xA5C3#16) := by decide
theorem test_decode_ldXrfXImm :
    decodeWord (0b001111#6 ++ 0b10110#5 ++ 0b01101#5 ++ 0b1010010111000011#16) =
      .ok (.ldXrfXImm 22#5 13#5 0xA5C3#16) := by decide
theorem test_decode_andImm :
    decodeWord (0b010000#6 ++ 0b10110#5 ++ 0b01101#5 ++ 0b1010010111000011#16) =
      .ok (.andImm 22#5 13#5 0xA5C3#16) := by decide
theorem test_decode_andUImm :
    decodeWord (0b010001#6 ++ 0b10110#5 ++ 0b01101#5 ++ 0b1010010111000011#16) =
      .ok (.andUImm 22#5 13#5 0xA5C3#16) := by decide
theorem test_decode_maskImm :
    decodeWord (0b010010#6 ++ 0b10110#5 ++ 0b01101#5 ++ 0b1010010111000011#16) =
      .ok (.maskImm 22#5 13#5 0xA5C3#16) := by decide
theorem test_decode_maskUImm :
    decodeWord (0b010011#6 ++ 0b10110#5 ++ 0b01101#5 ++ 0b1010010111000011#16) =
      .ok (.maskUImm 22#5 13#5 0xA5C3#16) := by decide
theorem test_decode_xorImm :
    decodeWord (0b010100#6 ++ 0b10110#5 ++ 0b01101#5 ++ 0b1010010111000011#16) =
      .ok (.xorImm 22#5 13#5 0xA5C3#16) := by decide
theorem test_decode_xorUImm :
    decodeWord (0b010101#6 ++ 0b10110#5 ++ 0b01101#5 ++ 0b1010010111000011#16) =
      .ok (.xorUImm 22#5 13#5 0xA5C3#16) := by decide
theorem test_decode_orImm :
    decodeWord (0b010110#6 ++ 0b10110#5 ++ 0b01101#5 ++ 0b1010010111000011#16) =
      .ok (.orImm 22#5 13#5 0xA5C3#16) := by decide
theorem test_decode_orUImm :
    decodeWord (0b010111#6 ++ 0b10110#5 ++ 0b01101#5 ++ 0b1010010111000011#16) =
      .ok (.orUImm 22#5 13#5 0xA5C3#16) := by decide
theorem test_decode_adduImm :
    decodeWord (0b011000#6 ++ 0b10110#5 ++ 0b01101#5 ++ 0b1010010111000011#16) =
      .ok (.adduImm 22#5 13#5 0xA5C3#16) := by decide
theorem test_decode_subuImm :
    decodeWord (0b011001#6 ++ 0b10110#5 ++ 0b01101#5 ++ 0b1010010111000011#16) =
      .ok (.subuImm 22#5 13#5 0xA5C3#16) := by decide
theorem test_decode_divuImm :
    decodeWord (0b011010#6 ++ 0b10110#5 ++ 0b01101#5 ++ 0b1010010111000011#16) =
      .ok (.divuImm 22#5 13#5 0xA5C3#16) := by decide
theorem test_decode_muluImm :
    decodeWord (0b011011#6 ++ 0b10110#5 ++ 0b01101#5 ++ 0b1010010111000011#16) =
      .ok (.muluImm 22#5 13#5 0xA5C3#16) := by decide
theorem test_decode_addImm :
    decodeWord (0b011100#6 ++ 0b10110#5 ++ 0b01101#5 ++ 0b1010010111000011#16) =
      .ok (.addImm 22#5 13#5 0xA5C3#16) := by decide
theorem test_decode_subImm :
    decodeWord (0b011101#6 ++ 0b10110#5 ++ 0b01101#5 ++ 0b1010010111000011#16) =
      .ok (.subImm 22#5 13#5 0xA5C3#16) := by decide
theorem test_decode_divsImm :
    decodeWord (0b011110#6 ++ 0b10110#5 ++ 0b01101#5 ++ 0b1010010111000011#16) =
      .ok (.divsImm 22#5 13#5 0xA5C3#16) := by decide
theorem test_decode_cmpImm :
    decodeWord (0b011111#6 ++ 0b10110#5 ++ 0b01101#5 ++ 0b1010010111000011#16) =
      .ok (.cmpImm 22#5 13#5 0xA5C3#16) := by decide
theorem test_decode_ldcr :
    decodeWord (0b100000#6 ++ 0b10110#5 ++ 0b0000001000#10 ++ 0b101101#6 ++ 0b00000#5) =
      .ok (.ldcr 22#5 45#6) := by decide
theorem test_decode_stcr :
    decodeWord (0b10000000000#11 ++ 0b01101#5 ++ 0b10000#5 ++ 0b101101#6 ++ 0b01101#5) =
      .ok (.stcr 13#5 45#6 13#5) := by decide
theorem test_decode_xcr :
    decodeWord (0b100000#6 ++ 0b10110#5 ++ 0b01101#5 ++ 0b11000#5 ++ 0b101101#6 ++ 0b01101#5) =
      .ok (.xcr 22#5 13#5 45#6 13#5) := by decide
theorem test_decode_fldcr :
    decodeWord (0b100000#6 ++ 0b10110#5 ++ 0b0000001001#10 ++ 0b101101#6 ++ 0b00000#5) =
      .ok (.fldcr 22#5 45#6) := by decide
theorem test_decode_fstcr :
    decodeWord (0b10000000000#11 ++ 0b01101#5 ++ 0b10001#5 ++ 0b101101#6 ++ 0b01101#5) =
      .ok (.fstcr 13#5 45#6 13#5) := by decide
theorem test_decode_fxcr :
    decodeWord (0b100000#6 ++ 0b10110#5 ++ 0b01101#5 ++ 0b11001#5 ++ 0b101101#6 ++ 0b01101#5) =
      .ok (.fxcr 22#5 13#5 45#6 13#5) := by decide
theorem test_decode_br :
    decodeWord (0b11000#5 ++ 0b1#1 ++ 0b10101010111100110111100101#26) = .ok (.br true 0x2ABCDE5#26) := by decide
theorem test_decode_bsr :
    decodeWord (0b11001#5 ++ 0b1#1 ++ 0b10101010111100110111100101#26) = .ok (.bsr true 0x2ABCDE5#26) := by decide
theorem test_decode_bb0 :
    decodeWord (0b11010#5 ++ 0b1#1 ++ 0b10011#5 ++ 0b01101#5 ++ 0b1010010111000011#16) =
      .ok (.bb0 true 19#5 13#5 0xA5C3#16) := by decide
theorem test_decode_bb1 :
    decodeWord (0b11011#5 ++ 0b1#1 ++ 0b10011#5 ++ 0b01101#5 ++ 0b1010010111000011#16) =
      .ok (.bb1 true 19#5 13#5 0xA5C3#16) := by decide
theorem test_decode_bcnd :
    decodeWord (0b11101#5 ++ 0b1#1 ++ 0b01011#5 ++ 0b01101#5 ++ 0b1010010111000011#16) =
      .ok (.bcnd true 11#5 13#5 0xA5C3#16) := by decide
theorem test_decode_clrImm :
    decodeWord (0b111100#6 ++ 0b10110#5 ++ 0b01101#5 ++ 0b100000#6 ++ 0b10110#5 ++ 0b01101#5) =
      .ok (.clrImm 22#5 13#5 22#5 13#5) := by decide
theorem test_decode_setImm :
    decodeWord (0b111100#6 ++ 0b10110#5 ++ 0b01101#5 ++ 0b100010#6 ++ 0b10110#5 ++ 0b01101#5) =
      .ok (.setImm 22#5 13#5 22#5 13#5) := by decide
theorem test_decode_extImm :
    decodeWord (0b111100#6 ++ 0b10110#5 ++ 0b01101#5 ++ 0b100100#6 ++ 0b10110#5 ++ 0b01101#5) =
      .ok (.extImm 22#5 13#5 22#5 13#5) := by decide
theorem test_decode_extuImm :
    decodeWord (0b111100#6 ++ 0b10110#5 ++ 0b01101#5 ++ 0b100110#6 ++ 0b10110#5 ++ 0b01101#5) =
      .ok (.extuImm 22#5 13#5 22#5 13#5) := by decide
theorem test_decode_makImm :
    decodeWord (0b111100#6 ++ 0b10110#5 ++ 0b01101#5 ++ 0b101000#6 ++ 0b10110#5 ++ 0b01101#5) =
      .ok (.makImm 22#5 13#5 22#5 13#5) := by decide
theorem test_decode_rotImm :
    decodeWord (0b111100#6 ++ 0b10110#5 ++ 0b01101#5 ++ 0b10101000000#11 ++ 0b01101#5) =
      .ok (.rotImm 22#5 13#5 13#5) := by decide
theorem test_decode_tb0 :
    decodeWord (0b111100#6 ++ 0b10011#5 ++ 0b01101#5 ++ 0b1101000#7 ++ 0b101100111#9) =
      .ok (.tb0 19#5 13#5 0x167#9) := by decide
theorem test_decode_tb1 :
    decodeWord (0b111100#6 ++ 0b10011#5 ++ 0b01101#5 ++ 0b1101100#7 ++ 0b101100111#9) =
      .ok (.tb1 19#5 13#5 0x167#9) := by decide
theorem test_decode_tcnd :
    decodeWord (0b111100#6 ++ 0b01011#5 ++ 0b01101#5 ++ 0b1110100#7 ++ 0b101100111#9) =
      .ok (.tcnd 11#5 13#5 0x167#9) := by decide
theorem test_decode_ldXrfD :
    decodeWord (0b111100#6 ++ 0b10110#5 ++ 0b01101#5 ++ 0b000100#6 ++ 0b1#1 ++ 0b0#1 ++ 0b000#3 ++ 0b11011#5) =
      .ok (.ldXrfD 22#5 13#5 true false 27#5) := by decide
theorem test_decode_ldXrf :
    decodeWord (0b111100#6 ++ 0b10110#5 ++ 0b01101#5 ++ 0b000101#6 ++ 0b0#1 ++ 0b1#1 ++ 0b000#3 ++ 0b11011#5) =
      .ok (.ldXrf 22#5 13#5 false true 27#5) := by decide
theorem test_decode_ldXrfX :
    decodeWord (0b111100#6 ++ 0b10110#5 ++ 0b01101#5 ++ 0b000110#6 ++ 0b1#1 ++ 0b0#1 ++ 0b000#3 ++ 0b11011#5) =
      .ok (.ldXrfX 22#5 13#5 true false 27#5) := by decide
theorem test_decode_stXrfD :
    decodeWord (0b111100#6 ++ 0b10110#5 ++ 0b01101#5 ++ 0b001000#6 ++ 0b0#1 ++ 0b1#1 ++ 0b1#1 ++ 0b00#2 ++ 0b11011#5) =
      .ok (.stXrfD 22#5 13#5 false true true 27#5) := by decide
theorem test_decode_stXrf :
    decodeWord (0b111100#6 ++ 0b10110#5 ++ 0b01101#5 ++ 0b001001#6 ++ 0b1#1 ++ 0b0#1 ++ 0b0#1 ++ 0b00#2 ++ 0b11011#5) =
      .ok (.stXrf 22#5 13#5 true false false 27#5) := by decide
theorem test_decode_stXrfX :
    decodeWord (0b111100#6 ++ 0b10110#5 ++ 0b01101#5 ++ 0b001010#6 ++ 0b0#1 ++ 0b1#1 ++ 0b0#1 ++ 0b00#2 ++ 0b11011#5) =
      .ok (.stXrfX 22#5 13#5 false true false 27#5) := by decide
theorem test_decode_xmemBu :
    decodeWord (0b111101#6 ++ 0b10110#5 ++ 0b01101#5 ++ 0b000000#6 ++ 0b1#1 ++ 0b0#1 ++ 0b000#3 ++ 0b11011#5) =
      .ok (.xmemBu 22#5 13#5 true false 27#5) := by decide
theorem test_decode_xmem :
    decodeWord (0b111101#6 ++ 0b10110#5 ++ 0b01101#5 ++ 0b000001#6 ++ 0b0#1 ++ 0b1#1 ++ 0b000#3 ++ 0b11011#5) =
      .ok (.xmem 22#5 13#5 false true 27#5) := by decide
theorem test_decode_ldHu :
    decodeWord (0b111101#6 ++ 0b10110#5 ++ 0b01101#5 ++ 0b000010#6 ++ 0b1#1 ++ 0b0#1 ++ 0b000#3 ++ 0b11011#5) =
      .ok (.ldHu 22#5 13#5 true false 27#5) := by decide
theorem test_decode_ldBu :
    decodeWord (0b111101#6 ++ 0b10110#5 ++ 0b01101#5 ++ 0b000011#6 ++ 0b0#1 ++ 0b1#1 ++ 0b000#3 ++ 0b11011#5) =
      .ok (.ldBu 22#5 13#5 false true 27#5) := by decide
theorem test_decode_ldD :
    decodeWord (0b111101#6 ++ 0b10110#5 ++ 0b01101#5 ++ 0b000100#6 ++ 0b1#1 ++ 0b0#1 ++ 0b000#3 ++ 0b11011#5) =
      .ok (.ldD 22#5 13#5 true false 27#5) := by decide
theorem test_decode_ld :
    decodeWord (0b111101#6 ++ 0b10110#5 ++ 0b01101#5 ++ 0b000101#6 ++ 0b0#1 ++ 0b1#1 ++ 0b000#3 ++ 0b11011#5) =
      .ok (.ld 22#5 13#5 false true 27#5) := by decide
theorem test_decode_ldH :
    decodeWord (0b111101#6 ++ 0b10110#5 ++ 0b01101#5 ++ 0b000110#6 ++ 0b1#1 ++ 0b0#1 ++ 0b000#3 ++ 0b11011#5) =
      .ok (.ldH 22#5 13#5 true false 27#5) := by decide
theorem test_decode_ldB :
    decodeWord (0b111101#6 ++ 0b10110#5 ++ 0b01101#5 ++ 0b000111#6 ++ 0b0#1 ++ 0b1#1 ++ 0b000#3 ++ 0b11011#5) =
      .ok (.ldB 22#5 13#5 false true 27#5) := by decide
theorem test_decode_stD :
    decodeWord (0b111101#6 ++ 0b10110#5 ++ 0b01101#5 ++ 0b001000#6 ++ 0b1#1 ++ 0b0#1 ++ 0b1#1 ++ 0b00#2 ++ 0b11011#5) =
      .ok (.stD 22#5 13#5 true false true 27#5) := by decide
theorem test_decode_st :
    decodeWord (0b111101#6 ++ 0b10110#5 ++ 0b01101#5 ++ 0b001001#6 ++ 0b0#1 ++ 0b1#1 ++ 0b1#1 ++ 0b00#2 ++ 0b11011#5) =
      .ok (.st 22#5 13#5 false true true 27#5) := by decide
theorem test_decode_stH :
    decodeWord (0b111101#6 ++ 0b10110#5 ++ 0b01101#5 ++ 0b001010#6 ++ 0b1#1 ++ 0b0#1 ++ 0b0#1 ++ 0b00#2 ++ 0b11011#5) =
      .ok (.stH 22#5 13#5 true false false 27#5) := by decide
theorem test_decode_stB :
    decodeWord (0b111101#6 ++ 0b10110#5 ++ 0b01101#5 ++ 0b001011#6 ++ 0b0#1 ++ 0b1#1 ++ 0b0#1 ++ 0b00#2 ++ 0b11011#5) =
      .ok (.stB 22#5 13#5 false true false 27#5) := by decide
theorem test_decode_ldaD :
    decodeWord (0b111101#6 ++ 0b10110#5 ++ 0b01101#5 ++ 0b00110010000#11 ++ 0b11011#5) =
      .ok (.ldaD 22#5 13#5 27#5) := by decide
theorem test_decode_lda :
    decodeWord (0b111101#6 ++ 0b10110#5 ++ 0b01101#5 ++ 0b00110110000#11 ++ 0b11011#5) =
      .ok (.lda 22#5 13#5 27#5) := by decide
theorem test_decode_ldaH :
    decodeWord (0b111101#6 ++ 0b10110#5 ++ 0b01101#5 ++ 0b00111010000#11 ++ 0b11011#5) =
      .ok (.ldaH 22#5 13#5 27#5) := by decide
theorem test_decode_ldaX :
    decodeWord (0b111101#6 ++ 0b10110#5 ++ 0b01101#5 ++ 0b00111110000#11 ++ 0b11011#5) =
      .ok (.ldaX 22#5 13#5 27#5) := by decide
theorem test_decode_andReg :
    decodeWord (0b111101#6 ++ 0b10110#5 ++ 0b01101#5 ++ 0b01000#5 ++ 0b1#1 ++ 0b00000#5 ++ 0b11011#5) =
      .ok (.andReg 22#5 13#5 true 27#5) := by decide
theorem test_decode_xorReg :
    decodeWord (0b111101#6 ++ 0b10110#5 ++ 0b01101#5 ++ 0b01010#5 ++ 0b1#1 ++ 0b00000#5 ++ 0b11011#5) =
      .ok (.xorReg 22#5 13#5 true 27#5) := by decide
theorem test_decode_orReg :
    decodeWord (0b111101#6 ++ 0b10110#5 ++ 0b01101#5 ++ 0b01011#5 ++ 0b1#1 ++ 0b00000#5 ++ 0b11011#5) =
      .ok (.orReg 22#5 13#5 true 27#5) := by decide
theorem test_decode_adduReg :
    decodeWord (0b111101#6 ++ 0b10110#5 ++ 0b01101#5 ++ 0b011000#6 ++ 0b1#1 ++ 0b0#1 ++ 0b000#3 ++ 0b11011#5) =
      .ok (.adduReg 22#5 13#5 true false 27#5) := by decide
theorem test_decode_subuReg :
    decodeWord (0b111101#6 ++ 0b10110#5 ++ 0b01101#5 ++ 0b011001#6 ++ 0b0#1 ++ 0b1#1 ++ 0b000#3 ++ 0b11011#5) =
      .ok (.subuReg 22#5 13#5 false true 27#5) := by decide
theorem test_decode_addReg :
    decodeWord (0b111101#6 ++ 0b10110#5 ++ 0b01101#5 ++ 0b011100#6 ++ 0b1#1 ++ 0b0#1 ++ 0b000#3 ++ 0b11011#5) =
      .ok (.addReg 22#5 13#5 true false 27#5) := by decide
theorem test_decode_subReg :
    decodeWord (0b111101#6 ++ 0b10110#5 ++ 0b01101#5 ++ 0b011101#6 ++ 0b0#1 ++ 0b1#1 ++ 0b000#3 ++ 0b11011#5) =
      .ok (.subReg 22#5 13#5 false true 27#5) := by decide
theorem test_decode_divuReg :
    decodeWord (0b111101#6 ++ 0b10110#5 ++ 0b01101#5 ++ 0b01101000000#11 ++ 0b11011#5) =
      .ok (.divuReg 22#5 13#5 27#5) := by decide
theorem test_decode_divuD :
    decodeWord (0b111101#6 ++ 0b10110#5 ++ 0b01101#5 ++ 0b01101001000#11 ++ 0b11011#5) =
      .ok (.divuD 22#5 13#5 27#5) := by decide
theorem test_decode_muluReg :
    decodeWord (0b111101#6 ++ 0b10110#5 ++ 0b01101#5 ++ 0b01101100000#11 ++ 0b11011#5) =
      .ok (.muluReg 22#5 13#5 27#5) := by decide
theorem test_decode_muluD :
    decodeWord (0b111101#6 ++ 0b10110#5 ++ 0b01101#5 ++ 0b01101101000#11 ++ 0b11011#5) =
      .ok (.muluD 22#5 13#5 27#5) := by decide
theorem test_decode_muls :
    decodeWord (0b111101#6 ++ 0b10110#5 ++ 0b01101#5 ++ 0b01101110000#11 ++ 0b11011#5) =
      .ok (.muls 22#5 13#5 27#5) := by decide
theorem test_decode_divsReg :
    decodeWord (0b111101#6 ++ 0b10110#5 ++ 0b01101#5 ++ 0b01111000000#11 ++ 0b11011#5) =
      .ok (.divsReg 22#5 13#5 27#5) := by decide
theorem test_decode_cmpReg :
    decodeWord (0b111101#6 ++ 0b10110#5 ++ 0b01101#5 ++ 0b01111100000#11 ++ 0b11011#5) =
      .ok (.cmpReg 22#5 13#5 27#5) := by decide
theorem test_decode_clrReg :
    decodeWord (0b111101#6 ++ 0b10110#5 ++ 0b01101#5 ++ 0b10000000000#11 ++ 0b11011#5) =
      .ok (.clrReg 22#5 13#5 27#5) := by decide
theorem test_decode_setReg :
    decodeWord (0b111101#6 ++ 0b10110#5 ++ 0b01101#5 ++ 0b10001000000#11 ++ 0b11011#5) =
      .ok (.setReg 22#5 13#5 27#5) := by decide
theorem test_decode_extReg :
    decodeWord (0b111101#6 ++ 0b10110#5 ++ 0b01101#5 ++ 0b10010000000#11 ++ 0b11011#5) =
      .ok (.extReg 22#5 13#5 27#5) := by decide
theorem test_decode_extuReg :
    decodeWord (0b111101#6 ++ 0b10110#5 ++ 0b01101#5 ++ 0b10011000000#11 ++ 0b11011#5) =
      .ok (.extuReg 22#5 13#5 27#5) := by decide
theorem test_decode_makReg :
    decodeWord (0b111101#6 ++ 0b10110#5 ++ 0b01101#5 ++ 0b10100000000#11 ++ 0b11011#5) =
      .ok (.makReg 22#5 13#5 27#5) := by decide
theorem test_decode_rotReg :
    decodeWord (0b111101#6 ++ 0b10110#5 ++ 0b01101#5 ++ 0b10101000000#11 ++ 0b11011#5) =
      .ok (.rotReg 22#5 13#5 27#5) := by decide
theorem test_decode_jmp :
    decodeWord (0b111101000000000011000#21 ++ 0b1#1 ++ 0b00000#5 ++ 0b11011#5) = .ok (.jmp true 27#5) := by decide
theorem test_decode_jsr :
    decodeWord (0b111101000000000011001#21 ++ 0b1#1 ++ 0b00000#5 ++ 0b11011#5) = .ok (.jsr true 27#5) := by decide
theorem test_decode_ff1 :
    decodeWord (0b111101#6 ++ 0b10110#5 ++ 0b0000011101000000#16 ++ 0b11011#5) = .ok (.ff1 22#5 27#5) := by decide
theorem test_decode_ff0 :
    decodeWord (0b111101#6 ++ 0b10110#5 ++ 0b0000011101100000#16 ++ 0b11011#5) = .ok (.ff0 22#5 27#5) := by decide
theorem test_decode_tbndReg :
    decodeWord (0b11110100000#11 ++ 0b01101#5 ++ 0b11111000000#11 ++ 0b11011#5) = .ok (.tbndReg 13#5 27#5) := by decide
theorem test_decode_tbndImm :
    decodeWord (0b11111000000#11 ++ 0b01101#5 ++ 0b1010010111000011#16) = .ok (.tbndImm 13#5 0xA5C3#16) := by decide
theorem test_decode_rte :
    decodeWord (0b11110100000000001111110000000000#32) = .ok .rte := by decide
theorem test_decode_illop1 :
    decodeWord (0b11110100000000001111110000000001#32) = .ok .illop1 := by decide
theorem test_decode_illop2 :
    decodeWord (0b11110100000000001111110000000010#32) = .ok .illop2 := by decide
theorem test_decode_illop3 :
    decodeWord (0b11110100000000001111110000000011#32) = .ok .illop3 := by decide
theorem test_decode_fmul :
    decodeWord (0b100001#6 ++ 0b10110#5 ++ 0b01101#5 ++ 0b1#1 ++ 0b0000#4 ++ 0b10#2 ++ 0b01#2 ++ 0b00#2 ++ 0b11011#5) =
      .ok (.fmul 22#5 13#5 true .ext .double .single 27#5) := by decide
theorem test_decode_fadd :
    decodeWord (0b100001#6 ++ 0b10110#5 ++ 0b01101#5 ++ 0b1#1 ++ 0b0101#4 ++ 0b10#2 ++ 0b01#2 ++ 0b00#2 ++ 0b11011#5) =
      .ok (.fadd 22#5 13#5 true .ext .double .single 27#5) := by decide
theorem test_decode_fsub :
    decodeWord (0b100001#6 ++ 0b10110#5 ++ 0b01101#5 ++ 0b1#1 ++ 0b0110#4 ++ 0b10#2 ++ 0b01#2 ++ 0b00#2 ++ 0b11011#5) =
      .ok (.fsub 22#5 13#5 true .ext .double .single 27#5) := by decide
theorem test_decode_fdiv :
    decodeWord (0b100001#6 ++ 0b10110#5 ++ 0b01101#5 ++ 0b1#1 ++ 0b1110#4 ++ 0b10#2 ++ 0b01#2 ++ 0b00#2 ++ 0b11011#5) =
      .ok (.fdiv 22#5 13#5 true .ext .double .single 27#5) := by decide
theorem test_decode_fcvt :
    decodeWord (0b100001#6 ++ 0b10110#5 ++ 0b00000#5 ++ 0b1#1 ++ 0b000100#6 ++ 0b01#2 ++ 0b00#2 ++ 0b11011#5) =
      .ok (.fcvt 22#5 true .double .single 27#5) := by decide
theorem test_decode_fsqrt :
    decodeWord (0b100001#6 ++ 0b10110#5 ++ 0b00000#5 ++ 0b1#1 ++ 0b111100#6 ++ 0b01#2 ++ 0b00#2 ++ 0b11011#5) =
      .ok (.fsqrt 22#5 true .double .single 27#5) := by decide
theorem test_decode_flt :
    decodeWord (0b100001#6 ++ 0b10110#5 ++ 0b00000001000#11 ++ 0b1#1 ++ 0b00#2 ++ 0b00#2 ++ 0b11011#5) =
      .ok (.flt 22#5 true .single 27#5) := by decide
theorem test_decode_fcmp :
    decodeWord (0b100001#6 ++ 0b10110#5 ++ 0b01101#5 ++ 0b1#1 ++ 0b0111#4 ++ 0b10#2 ++ 0b01#2 ++ 0b00#2 ++ 0b11011#5) =
      .ok (.fcmp 22#5 13#5 true .ext .double 27#5) := by decide
theorem test_decode_fcmpu :
    decodeWord (0b100001#6 ++ 0b10110#5 ++ 0b01101#5 ++ 0b1#1 ++ 0b0111#4 ++ 0b10#2 ++ 0b01#2 ++ 0b01#2 ++ 0b11011#5) =
      .ok (.fcmpu 22#5 13#5 true .ext .double 27#5) := by decide
theorem test_decode_int :
    decodeWord (0b100001#6 ++ 0b10110#5 ++ 0b00000#5 ++ 0b1#1 ++ 0b100100#6 ++ 0b01#2 ++ 0b00#2 ++ 0b11011#5) =
      .ok (.int 22#5 true .double 27#5) := by decide
theorem test_decode_nint :
    decodeWord (0b100001#6 ++ 0b10110#5 ++ 0b00000#5 ++ 0b1#1 ++ 0b101000#6 ++ 0b01#2 ++ 0b00#2 ++ 0b11011#5) =
      .ok (.nint 22#5 true .double 27#5) := by decide
theorem test_decode_trnc :
    decodeWord (0b100001#6 ++ 0b10110#5 ++ 0b00000#5 ++ 0b1#1 ++ 0b101100#6 ++ 0b01#2 ++ 0b00#2 ++ 0b11011#5) =
      .ok (.trnc 22#5 true .double 27#5) := by decide
theorem test_decode_movToGrf :
    decodeWord (0b100001#6 ++ 0b10110#5 ++ 0b0000011000000#13 ++ 0b1#1 ++ 0b00#2 ++ 0b11011#5) =
      .ok (.movToGrf 22#5 true 27#5) := by decide
theorem test_decode_movToXrf :
    decodeWord (0b100001#6 ++ 0b10110#5 ++ 0b0000001000010#13 ++ 0b1#1 ++ 0b00#2 ++ 0b11011#5) =
      .ok (.movToXrf 22#5 true 27#5) := by decide
theorem test_decode_movXrf :
    decodeWord (0b100001#6 ++ 0b10110#5 ++ 0b0000011000011000#16 ++ 0b11011#5) = .ok (.movXrf 22#5 27#5) := by decide
theorem test_decode_pmul :
    decodeWord (0b100010#6 ++ 0b10110#5 ++ 0b01101#5 ++ 0b00000000000#11 ++ 0b11011#5) =
      .ok (.pmul 22#5 13#5 27#5) := by decide
theorem test_decode_padd :
    decodeWord (0b100010#6 ++ 0b10110#5 ++ 0b01101#5 ++ 0b001000000#9 ++ 0b10#2 ++ 0b11011#5) =
      .ok (.padd 22#5 13#5 .half 27#5) := by decide
theorem test_decode_paddsU :
    decodeWord (0b100010#6 ++ 0b10110#5 ++ 0b01101#5 ++ 0b001000001#9 ++ 0b10#2 ++ 0b11011#5) =
      .ok (.paddsU 22#5 13#5 .half 27#5) := by decide
theorem test_decode_paddsUs :
    decodeWord (0b100010#6 ++ 0b10110#5 ++ 0b01101#5 ++ 0b001000010#9 ++ 0b10#2 ++ 0b11011#5) =
      .ok (.paddsUs 22#5 13#5 .half 27#5) := by decide
theorem test_decode_paddsS :
    decodeWord (0b100010#6 ++ 0b10110#5 ++ 0b01101#5 ++ 0b001000011#9 ++ 0b10#2 ++ 0b11011#5) =
      .ok (.paddsS 22#5 13#5 .half 27#5) := by decide
theorem test_decode_psub :
    decodeWord (0b100010#6 ++ 0b10110#5 ++ 0b01101#5 ++ 0b001100000#9 ++ 0b10#2 ++ 0b11011#5) =
      .ok (.psub 22#5 13#5 .half 27#5) := by decide
theorem test_decode_psubsU :
    decodeWord (0b100010#6 ++ 0b10110#5 ++ 0b01101#5 ++ 0b001100001#9 ++ 0b10#2 ++ 0b11011#5) =
      .ok (.psubsU 22#5 13#5 .half 27#5) := by decide
theorem test_decode_psubsUs :
    decodeWord (0b100010#6 ++ 0b10110#5 ++ 0b01101#5 ++ 0b001100010#9 ++ 0b10#2 ++ 0b11011#5) =
      .ok (.psubsUs 22#5 13#5 .half 27#5) := by decide
theorem test_decode_psubsS :
    decodeWord (0b100010#6 ++ 0b10110#5 ++ 0b01101#5 ++ 0b001100011#9 ++ 0b10#2 ++ 0b11011#5) =
      .ok (.psubsS 22#5 13#5 .half 27#5) := by decide
theorem test_decode_pcmp :
    decodeWord (0b100010#6 ++ 0b10110#5 ++ 0b01101#5 ++ 0b00111000011#11 ++ 0b11011#5) =
      .ok (.pcmp 22#5 13#5 27#5) := by decide
theorem test_decode_ppack :
    decodeWord (0b100010#6 ++ 0b10110#5 ++ 0b01101#5 ++ 0b01100#5 ++ 0b0100#4 ++ 0b10#2 ++ 0b11011#5) =
      .ok (.ppack 22#5 13#5 4#4 .half 27#5) := by decide
theorem test_decode_punpk :
    decodeWord (0b100010#6 ++ 0b10110#5 ++ 0b01101#5 ++ 0b011010000#9 ++ 0b10#2 ++ 0b00000#5) =
      .ok (.punpk 22#5 13#5 .half) := by decide
theorem test_decode_protImm :
    decodeWord (0b100010#6 ++ 0b10110#5 ++ 0b01101#5 ++ 0b01110#5 ++ 0b1011#4 ++ 0b0000000#7) =
      .ok (.protImm 22#5 13#5 11#4) := by decide
theorem test_decode_protReg :
    decodeWord (0b100010#6 ++ 0b10110#5 ++ 0b01101#5 ++ 0b01111000000#11 ++ 0b11011#5) =
      .ok (.protReg 22#5 13#5 27#5) := by decide

/-- A set bit where a row prints a constant zero is a reserved encoding (R362). -/
theorem test_decode_reserved_constant_bit : decodeWord 0xF4224023#32 = .error (.reserved .base) := by decide
/-- Major opcode 36 belongs to SFU4 (R364). -/
theorem test_decode_reserved_sfu4 : decodeWord 0x90000000#32 = .error (.reserved .sfu4) := by decide
/-- The numbering of spec/opcode_table.json gives the same instruction. -/
theorem test_decodeTableWord : decodeTableWord 32 0xF400FC00 = some .rte := by decide

/-! ### One step of each instruction -/

/-- The machine at 0x1000 with a word of PSR and some general registers. -/
def start (psr : Word) (rs : List (RegNum × Word)) : State :=
  { rs.foldl (fun s r => writeReg s r.1 r.2) State.reset with psr := psr, xip := 0x1000#32, nip := 0x1004#32 }

/-- At another address. -/
def startAt (pc : Word) (s : State) : State := { s with xip := pc, nip := pc + 4#32 }

/-- With bytes in memory. -/
def withBytes (s : State) (a : Word) (bs : List Byte) : State := writeBytes s a bs

/-- With a word in an extended register, FPSR as it was. -/
def withX (s : State) (d : RegNum) (x : XWord) : State := { writeX s d x with fpsr := s.fpsr }

/-- The next step runs the word and ends in a next state with the property. -/
def check (w : Word) (s : State) (p : State → State → Bool) : Bool :=
  match step (s.withFetchWord 32 w.toNat) with
  | .next t => p s t
  | .fault _ => false
  | .refused _ => false

/-- General registers hold words. -/
def regs (t : State) (rs : List (RegNum × Word)) : Bool := rs.all fun r => readReg t r.1 == r.2

/-- Memory holds bytes. -/
def bytes (t : State) (a : Word) (bs : List Byte) : Bool := readBytes t a bs.length == bs

/-- Where execution goes on. -/
def goes (t : State) (xip nip : Word) (ds : Bool) : Bool := t.xip == xip && t.nip == nip && t.ds == ds

/-- An exception was entered at a handler, with the words saved and PSR as given. -/
def entered (t : State) (handler exip epsr psr : Word) : Bool :=
  goes t handler (handler + 4#32) false && t.exip == exip && t.epsr == epsr && t.psr == psr

/-- M5: ld.hu r2,r3,2. -/
theorem test_ldHuImm_vector_M5 : check 0x08430002#32 (withBytes (start 0x800003E0#32 [(3#5, 0x00002000#32)]) 0x2000#32
    [0x80#8, 0x01#8, 0xFF#8, 0x7F#8, 0x11#8, 0x22#8, 0x33#8, 0x44#8]) (fun _ t => regs t [(2#5, 0x0000FF7F#32)] &&
    goes t 0x1004#32 0x1008#32 false) = true := by decide
/-- M3: ld.bu r2,r3,0. -/
theorem test_ldBuImm_vector_M3 : check 0x0C430000#32 (withBytes (start 0x800003E0#32 [(3#5, 0x00002000#32)]) 0x2000#32
    [0x80#8, 0x01#8, 0xFF#8, 0x7F#8, 0x11#8, 0x22#8, 0x33#8, 0x44#8]) (fun _ t => regs t [(2#5, 0x00000080#32)] &&
    goes t 0x1004#32 0x1008#32 false) = true := by decide
/-- M23: ld.bu r0,r3,0. -/
theorem test_ldBuImm_vector_M23 : check 0x0C030000#32 (withBytes (start 0x800003E0#32 [(3#5, 0x00002000#32)])
    0x2000#32 [0x80#8, 0x01#8, 0xFF#8, 0x7F#8, 0x11#8, 0x22#8, 0x33#8, 0x44#8]) (fun s t => goes t 0x1004#32 0x1008#32
    false && t.gpr == s.gpr) = true := by decide
/-- M6: ld.d r2,r3,0. -/
theorem test_ldDImm_vector_M6 : check 0x10430000#32 (withBytes (start 0x800003E0#32 [(3#5, 0x00002000#32)]) 0x2000#32
    [0x80#8, 0x01#8, 0xFF#8, 0x7F#8, 0x11#8, 0x22#8, 0x33#8, 0x44#8]) (fun _ t => regs t [(2#5, 0x8001FF7F#32), (3#5,
    0x11223344#32)] && goes t 0x1004#32 0x1008#32 false) = true := by decide
/-- M10: ld.d r3,r4,0. -/
theorem test_ldDImm_vector_M10 : check 0x10640000#32 (withBytes (start 0x800003E0#32 [(4#5, 0x00002000#32)]) 0x2000#32
    [0x80#8, 0x01#8, 0xFF#8, 0x7F#8, 0x11#8, 0x22#8, 0x33#8, 0x44#8]) (fun _ t => entered t 0x28#32 0x1000#32
    0x800003E0#32 0x800003FB#32) = true := by decide
/-- M8: ld r2,r3,0. -/
theorem test_ldImm_vector_M8 : check 0x14430000#32 (withBytes (start 0xC00003E0#32 [(3#5, 0x00002000#32)]) 0x2000#32
    [0x80#8, 0x01#8, 0xFF#8, 0x7F#8, 0x11#8, 0x22#8, 0x33#8, 0x44#8]) (fun _ t => regs t [(2#5, 0x7FFF0180#32)] &&
    goes t 0x1004#32 0x1008#32 false) = true := by decide
/-- M11: ld r2,r3,0xFFFC. -/
theorem test_ldImm_vector_M11 : check 0x1443FFFC#32 (withBytes (start 0x840003E0#32 [(3#5, 0x00002008#32)]) 0x2000#32
    [0x80#8, 0x01#8, 0xFF#8, 0x7F#8, 0x11#8, 0x22#8, 0x33#8, 0x44#8]) (fun _ t => regs t [(2#5, 0x11223344#32)] &&
    goes t 0x1004#32 0x1008#32 false) = true := by decide
/-- M4: ld.h r2,r3,2. -/
theorem test_ldHImm_vector_M4 : check 0x18430002#32 (withBytes (start 0x800003E0#32 [(3#5, 0x00002000#32)]) 0x2000#32
    [0x80#8, 0x01#8, 0xFF#8, 0x7F#8, 0x11#8, 0x22#8, 0x33#8, 0x44#8]) (fun _ t => regs t [(2#5, 0xFFFFFF7F#32)] &&
    goes t 0x1004#32 0x1008#32 false) = true := by decide
/-- M21: ld.h r2,r3,1. -/
theorem test_ldHImm_vector_M21 : check 0x18430001#32 (withBytes (start 0x800003E0#32 [(3#5, 0x00002000#32)]) 0x2000#32
    [0x80#8, 0x01#8, 0xFF#8, 0x7F#8, 0x11#8, 0x22#8, 0x33#8, 0x44#8]) (fun _ t => entered t 0x20#32 0x1000#32
    0x800003E0#32 0x800003FB#32) = true := by decide
/-- M2: ld.b r2,r3,0. -/
theorem test_ldBImm_vector_M2 : check 0x1C430000#32 (withBytes (start 0x800003E0#32 [(3#5, 0x00002000#32)]) 0x2000#32
    [0x80#8, 0x01#8, 0xFF#8, 0x7F#8, 0x11#8, 0x22#8, 0x33#8, 0x44#8]) (fun _ t => regs t [(2#5, 0xFFFFFF80#32)] &&
    goes t 0x1004#32 0x1008#32 false) = true := by decide
/-- M29: st.d r2,r3,8. -/
theorem test_stDImm_vector_M29 : check 0x20430008#32 (start 0x800003E0#32 [(2#5, 0x01234567#32), (3#5,
    0x000030F8#32)]) (fun _ t => goes t 0x1004#32 0x1008#32 false && bytes t 0x00003100#32 [0x01#8, 0x23#8, 0x45#8,
    0x67#8, 0x00#8, 0x00#8, 0x30#8, 0xF8#8]) = true := by decide
/-- M33: st.d r5,r3,0. -/
theorem test_stDImm_vector_M33 : check 0x20A30000#32 (start 0x800003E0#32 [(3#5, 0x00003000#32)]) (fun _ t => entered
    t 0x28#32 0x1000#32 0x800003E0#32 0x800003FB#32) = true := by decide
/-- M26: st r2,r3,4. -/
theorem test_stImm_vector_M26 : check 0x24430004#32 (start 0x800003E0#32 [(2#5, 0xCAFEBABE#32), (3#5, 0x00003000#32)])
    (fun _ t => goes t 0x1004#32 0x1008#32 false && bytes t 0x00003004#32 [0xCA#8, 0xFE#8, 0xBA#8, 0xBE#8]) = true :=
    by decide
/-- M31: st r2,r3,0. -/
theorem test_stImm_vector_M31 : check 0x24430000#32 (start 0xC00003E0#32 [(2#5, 0x11223344#32), (3#5, 0x00003000#32)])
    (fun _ t => goes t 0x1004#32 0x1008#32 false && bytes t 0x00003000#32 [0x44#8, 0x33#8, 0x22#8, 0x11#8]) = true :=
    by decide
/-- M27: st.h r2,r3,2. -/
theorem test_stHImm_vector_M27 : check 0x28430002#32 (start 0x800003E0#32 [(2#5, 0x11223344#32), (3#5,
    0x00003000#32)]) (fun _ t => goes t 0x1004#32 0x1008#32 false && bytes t 0x00003002#32 [0x33#8, 0x44#8]) = true :=
    by decide
/-- M34: st.h r2,r3,1. -/
theorem test_stHImm_vector_M34 : check 0x28430001#32 (start 0x800003E0#32 [(2#5, 0x0000AABB#32), (3#5,
    0x00003000#32)]) (fun _ t => entered t 0x20#32 0x1000#32 0x800003E0#32 0x800003FB#32) = true := by decide
/-- M28: st.b r2,r3,7. -/
theorem test_stBImm_vector_M28 : check 0x2C430007#32 (start 0x800003E0#32 [(2#5, 0x11223344#32), (3#5,
    0x00003000#32)]) (fun _ t => goes t 0x1004#32 0x1008#32 false && bytes t 0x00003007#32 [0x44#8]) = true := by
    decide
/-- L3: and r1,r2,0x00FF. -/
theorem test_andImm_vector_L3 : check 0x402200FF#32 (start 0x800003E0#32 [(2#5, 0x12345678#32)]) (fun _ t => regs t
    [(1#5, 0x12340078#32)] && goes t 0x1004#32 0x1008#32 false) = true := by decide
/-- L5: and r1,r2,0. -/
theorem test_andImm_vector_L5 : check 0x40220000#32 (start 0x800003E0#32 [(2#5, 0xFFFFFFFF#32)]) (fun _ t => regs t
    [(1#5, 0xFFFF0000#32)] && goes t 0x1004#32 0x1008#32 false) = true := by decide
/-- L4: and.u r1,r2,0x00FF. -/
theorem test_andUImm_vector_L4 : check 0x442200FF#32 (start 0x800003E0#32 [(2#5, 0x12345678#32)]) (fun _ t => regs t
    [(1#5, 0x00345678#32)] && goes t 0x1004#32 0x1008#32 false) = true := by decide
/-- L15: mask r1,r2,0x0FF0. -/
theorem test_maskImm_vector_L15 : check 0x48220FF0#32 (start 0x800003E0#32 [(2#5, 0x12345678#32)]) (fun _ t => regs t
    [(1#5, 0x00000670#32)] && goes t 0x1004#32 0x1008#32 false) = true := by decide
/-- L16: mask.u r1,r2,0x0FF0. -/
theorem test_maskUImm_vector_L16 : check 0x4C220FF0#32 (start 0x800003E0#32 [(2#5, 0x12345678#32)]) (fun _ t => regs t
    [(1#5, 0x02300000#32)] && goes t 0x1004#32 0x1008#32 false) = true := by decide
/-- L13: xor r1,r2,0xFFFF. -/
theorem test_xorImm_vector_L13 : check 0x5022FFFF#32 (start 0x800003E0#32 [(2#5, 0xFFFF0000#32)]) (fun _ t => regs t
    [(1#5, 0xFFFFFFFF#32)] && goes t 0x1004#32 0x1008#32 false) = true := by decide
/-- L14: xor.u r1,r2,0x8000. -/
theorem test_xorUImm_vector_L14 : check 0x54228000#32 (start 0x840003E0#32 [(2#5, 0x7FFFFFFF#32)]) (fun _ t => regs t
    [(1#5, 0xFFFFFFFF#32)] && goes t 0x1004#32 0x1008#32 false) = true := by decide
/-- L8: or r1,r0,0xBEEF. -/
theorem test_orImm_vector_L8 : check 0x5820BEEF#32 (start 0x800003E0#32 [(1#5, 0x11111111#32)]) (fun _ t => regs t
    [(1#5, 0x0000BEEF#32)] && goes t 0x1004#32 0x1008#32 false) = true := by decide
/-- L9: or.u r1,r1,0xDEAD. -/
theorem test_orUImm_vector_L9 : check 0x5C21DEAD#32 (start 0x800003E0#32 [(1#5, 0x0000BEEF#32)]) (fun _ t => regs t
    [(1#5, 0xDEADBEEF#32)] && goes t 0x1004#32 0x1008#32 false) = true := by decide
/-- I17: addu r2,r3,0xFFFF. -/
theorem test_adduImm_vector_I17 : check 0x6043FFFF#32 (start 0x840003E0#32 [(3#5, 0x00000001#32)]) (fun _ t => regs t
    [(2#5, 0x00010000#32)] && goes t 0x1004#32 0x1008#32 false) = true := by decide
/-- I29: subu r2,r3,0xFFFF. -/
theorem test_subuImm_vector_I29 : check 0x6443FFFF#32 (start 0x800003E0#32 [(3#5, 0x00010000#32)]) (fun _ t => regs t
    [(2#5, 0x00000001#32)] && goes t 0x1004#32 0x1008#32 false) = true := by decide
/-- I56: divu r2,r3,0. -/
theorem test_divuImm_vector_I56 : check 0x68430000#32 (start 0x800003E0#32 [(3#5, 0x00000001#32)]) (fun _ t => entered
    t 0x40#32 0x1000#32 0x800003E0#32 0x800003FB#32) = true := by decide
/-- I40: mulu r2,r3,1000. -/
theorem test_muluImm_vector_I40 : check 0x6C4303E8#32 (start 0x800003E0#32 [(3#5, 0x000003E8#32)]) (fun _ t => regs t
    [(2#5, 0x000F4240#32)] && goes t 0x1004#32 0x1008#32 false) = true := by decide
/-- I9: add r2,r3,0xFFFF. -/
theorem test_addImm_vector_I9 : check 0x7043FFFF#32 (start 0x800003E0#32 [(3#5, 0x00000001#32)]) (fun _ t => regs t
    [(2#5, 0x00010000#32)] && goes t 0x1004#32 0x1008#32 false) = true := by decide
/-- I10: add r2,r3,0xFFFF. -/
theorem test_addImm_vector_I10 : check 0x7043FFFF#32 (start 0x840003E0#32 [(3#5, 0x00000001#32)]) (fun _ t => regs t
    [(2#5, 0x00000000#32)] && goes t 0x1004#32 0x1008#32 false) = true := by decide
/-- I24: sub r2,r3,1. -/
theorem test_subImm_vector_I24 : check 0x74430001#32 (start 0x800003E0#32 [(3#5, 0x80000000#32)]) (fun _ t => entered
    t 0x48#32 0x1000#32 0x800003E0#32 0x800003FB#32) = true := by decide
/-- I52: divs r2,r3,0xFFFF. -/
theorem test_divsImm_vector_I52 : check 0x7843FFFF#32 (start 0x840003E0#32 [(3#5, 0xFFFFFFF6#32)]) (fun _ t => regs t
    [(2#5, 0x0000000A#32)] && goes t 0x1004#32 0x1008#32 false) = true := by decide
/-- I53: divs r2,r3,0xFFFF. -/
theorem test_divsImm_vector_I53 : check 0x7843FFFF#32 (start 0x800003E0#32 [(3#5, 0x000FFFF0#32)]) (fun _ t => regs t
    [(2#5, 0x00000010#32)] && goes t 0x1004#32 0x1008#32 false) = true := by decide
/-- I35: cmp r2,r3,0xFFFF. -/
theorem test_cmpImm_vector_I35 : check 0x7C43FFFF#32 (start 0x800003E0#32 [(3#5, 0xFFFFFFFF#32)]) (fun _ t => regs t
    [(2#5, 0x00005968#32)] && goes t 0x1004#32 0x1008#32 false) = true := by decide
/-- I36: cmp r2,r3,0xFFFF. -/
theorem test_cmpImm_vector_I36 : check 0x7C43FFFF#32 (start 0x840003E0#32 [(3#5, 0xFFFFFFFF#32)]) (fun _ t => regs t
    [(2#5, 0x00005AA4#32)] && goes t 0x1004#32 0x1008#32 false) = true := by decide
/-- M45: ldcr r2,cr1. -/
theorem test_ldcr_vector_M45 : check 0x80404020#32 (start 0xA20003FF#32 []) (fun _ t => regs t [(2#5, 0xA20003FF#32)]
    && goes t 0x1004#32 0x1008#32 false) = true := by decide
/-- M46: ldcr r2,cr1. -/
theorem test_ldcr_vector_M46 : check 0x80404020#32 (start 0x000003E0#32 []) (fun _ t => entered t 0x30#32 0x1000#32
    0x000003E0#32 0x800003FB#32) = true := by decide
/-- M48: stcr r3,cr7. -/
theorem test_stcr_vector_M48 : check 0x800380E3#32 (start 0x800003E0#32 [(3#5, 0x00010FFF#32)]) (fun _ t => t.vbr ==
    0x00010000#32 && goes t 0x1004#32 0x1008#32 false) = true := by decide
/-- M54: stcr with S2 ≠ S1. -/
theorem test_stcr_vector_M54 : check 0x800380E4#32 (start 0x800003E0#32 [(3#5, 0x00000001#32), (4#5, 0x00000002#32)])
    (fun _ t => entered t 0x28#32 0x1000#32 0x800003E0#32 0x800003FB#32) = true := by decide
/-- M52: xcr r1,r1,cr17. -/
theorem test_xcr_vector_M52 : check 0x8021C221#32 ({ start 0x800003E0#32 [(1#5, 0x00001234#32)] with sr1 := 0xAAAA#32
    }) (fun _ t => regs t [(1#5, 0x0000AAAA#32)] && t.sr1 == 0x00001234#32 && goes t 0x1004#32 0x1008#32 false) = true
    := by decide
/-- M53: xcr r2,r3,cr16. -/
theorem test_xcr_vector_M53 : check 0x8043C203#32 ({ start 0x800003E0#32 [(2#5, 0x00000001#32), (3#5, 0x00005555#32)]
    with sr0 := 0x7777#32 }) (fun _ t => regs t [(2#5, 0x00007777#32)] && t.sr0 == 0x00005555#32 && goes t 0x1004#32
    0x1008#32 false) = true := by decide
/-- FP91: fldcr r2,fcr63. -/
theorem test_fldcr_vector_FP91 : check 0x80404FE0#32 ({ start 0x000003E0#32 [] with fpcr := 0xC001#32 }) (fun _ t =>
    regs t [(2#5, 0x0000C001#32)] && goes t 0x1004#32 0x1008#32 false) = true := by decide
/-- FP92: fldcr r2,fcr0. -/
theorem test_fldcr_vector_FP92 : check 0x80404800#32 (start 0x000003E0#32 []) (fun _ t => entered t 0x390#32 0x1000#32
    0x000003E0#32 0x800003FB#32 && t.fpecr == 0x20#32) = true := by decide
/-- FP94: fstcr r4,fcr63. -/
theorem test_fstcr_vector_FP94 : check 0x80048FE4#32 (start 0x800003E0#32 [(4#5, 0xFFFFFFFF#32)]) (fun _ t => t.fpcr
    == 0x0026C01F#32 && goes t 0x1004#32 0x1008#32 false) = true := by decide
/-- FP95: fstcr r4,fcr62. -/
theorem test_fstcr_vector_FP95 : check 0x80048FC4#32 (start 0x800003E0#32 [(4#5, 0xFFFFFFFF#32)]) (fun _ t => t.fpsr
    == 0x0001001F#32 && goes t 0x1004#32 0x1008#32 false) = true := by decide
/-- FP97: fxcr r2,r0,fcr62. -/
theorem test_fxcr_vector_FP97 : check 0x8040CFC0#32 ({ start 0x800003E0#32 [] with fpsr := 0x10001#32 }) (fun _ t =>
    regs t [(2#5, 0x00010001#32)] && t.fpsr == 0x00000000#32 && goes t 0x1004#32 0x1008#32 false) = true := by decide
/-- FC1: br +0x100. -/
theorem test_br_vector_FC1 : check 0xC0000100#32 (startAt 0x400#32 (start 0x800003E0#32 [])) (fun _ t => goes t
    0x00000800#32 0x00000804#32 false) = true := by decide
/-- FC2: br -1. -/
theorem test_br_vector_FC2 : check 0xC3FFFFFF#32 (start 0x800003E0#32 []) (fun _ t => goes t 0x00000FFC#32
    0x00001000#32 false) = true := by decide
/-- FC4: bsr +3. -/
theorem test_bsr_vector_FC4 : check 0xC8000003#32 (start 0x800003E0#32 []) (fun _ t => regs t [(1#5, 0x00001004#32)]
    && goes t 0x0000100C#32 0x00001010#32 false) = true := by decide
/-- FC5: bsr.n -1. -/
theorem test_bsr_vector_FC5 : check 0xCFFFFFFF#32 (startAt 0x3000#32 (start 0x800003E0#32 [])) (fun _ t => regs t
    [(1#5, 0x00003008#32)] && goes t 0x00003004#32 0x00002FFC#32 true) = true := by decide
/-- FC6: bb0 3,r4,+3. -/
theorem test_bb0_vector_FC6 : check 0xD0640003#32 (start 0x800003E0#32 [(4#5, 0x00000010#32)]) (fun _ t => goes t
    0x0000100C#32 0x00001010#32 false) = true := by decide
/-- FC7: bb0 3,r4,+3. -/
theorem test_bb0_vector_FC7 : check 0xD0640003#32 (start 0x800003E0#32 [(4#5, 0x00000008#32)]) (fun s t => goes t
    0x1004#32 0x1008#32 false && t.gpr == s.gpr) = true := by decide
/-- FC11: bb1 2,r2,+8. -/
theorem test_bb1_vector_FC11 : check 0xD8420008#32 (start 0x800003E0#32 [(2#5, 0x00005AA4#32)]) (fun _ t => goes t
    0x00001020#32 0x00001024#32 false) = true := by decide
/-- FC12: bb1 2,r2,+8. -/
theorem test_bb1_vector_FC12 : check 0xD8420008#32 (start 0x800003E0#32 [(2#5, 0x0000A968#32)]) (fun s t => goes t
    0x1004#32 0x1008#32 false && t.gpr == s.gpr) = true := by decide
/-- FC14: bcnd eq0,r2,+4. -/
theorem test_bcnd_vector_FC14 : check 0xE8420004#32 (start 0x800003E0#32 [(2#5, 0x00000000#32)]) (fun _ t => goes t
    0x00001010#32 0x00001014#32 false) = true := by decide
/-- FC15: bcnd eq0,r2,+4. -/
theorem test_bcnd_vector_FC15 : check 0xE8420004#32 (start 0x800003E0#32 [(2#5, 0x00000001#32)]) (fun s t => goes t
    0x1004#32 0x1008#32 false && t.gpr == s.gpr) = true := by decide
/-- F1: clr r4,r5,5<16>. -/
theorem test_clrImm_vector_F1 : check 0xF08580B0#32 (start 0x800003E0#32 [(5#5, 0xFFFFFFFF#32)]) (fun _ t => regs t
    [(4#5, 0xFFE0FFFF#32)] && goes t 0x1004#32 0x1008#32 false) = true := by decide
/-- F2: clr r4,r5,0<0>. -/
theorem test_clrImm_vector_F2 : check 0xF0858000#32 (start 0x800003E0#32 [(5#5, 0xFFFFFFFF#32)]) (fun _ t => regs t
    [(4#5, 0x00000000#32)] && goes t 0x1004#32 0x1008#32 false) = true := by decide
/-- F4: set r4,r5,5<16>. -/
theorem test_setImm_vector_F4 : check 0xF08588B0#32 (start 0x800003E0#32 [(5#5, 0x00000000#32)]) (fun _ t => regs t
    [(4#5, 0x001F0000#32)] && goes t 0x1004#32 0x1008#32 false) = true := by decide
/-- F5: set r4,r5,0<4>. -/
theorem test_setImm_vector_F5 : check 0xF0858804#32 (start 0x800003E0#32 [(5#5, 0x00000003#32)]) (fun _ t => regs t
    [(4#5, 0xFFFFFFF3#32)] && goes t 0x1004#32 0x1008#32 false) = true := by decide
/-- F7: ext r4,r5,8<8>. -/
theorem test_extImm_vector_F7 : check 0xF0859108#32 (start 0x800003E0#32 [(5#5, 0x0000F500#32)]) (fun _ t => regs t
    [(4#5, 0xFFFFFFF5#32)] && goes t 0x1004#32 0x1008#32 false) = true := by decide
/-- F8: ext r4,r5,8<8>. -/
theorem test_extImm_vector_F8 : check 0xF0859108#32 (start 0x800003E0#32 [(5#5, 0x00007500#32)]) (fun _ t => regs t
    [(4#5, 0x00000075#32)] && goes t 0x1004#32 0x1008#32 false) = true := by decide
/-- F12: extu r4,r5,8<8>. -/
theorem test_extuImm_vector_F12 : check 0xF0859908#32 (start 0x800003E0#32 [(5#5, 0x0000F500#32)]) (fun _ t => regs t
    [(4#5, 0x000000F5#32)] && goes t 0x1004#32 0x1008#32 false) = true := by decide
/-- F13: extu r4,r5,0<4>. -/
theorem test_extuImm_vector_F13 : check 0xF0859804#32 (start 0x800003E0#32 [(5#5, 0x80000010#32)]) (fun _ t => regs t
    [(4#5, 0x08000001#32)] && goes t 0x1004#32 0x1008#32 false) = true := by decide
/-- F16: mak r4,r5,8<8>. -/
theorem test_makImm_vector_F16 : check 0xF085A108#32 (start 0x800003E0#32 [(5#5, 0xFFFFFFA5#32)]) (fun _ t => regs t
    [(4#5, 0x0000A500#32)] && goes t 0x1004#32 0x1008#32 false) = true := by decide
/-- F17: mak r4,r5,0<4>. -/
theorem test_makImm_vector_F17 : check 0xF085A004#32 (start 0x800003E0#32 [(5#5, 0xF0000001#32)]) (fun _ t => regs t
    [(4#5, 0x00000010#32)] && goes t 0x1004#32 0x1008#32 false) = true := by decide
/-- F20: rot r4,r5,<8>. -/
theorem test_rotImm_vector_F20 : check 0xF085A808#32 (start 0x800003E0#32 [(5#5, 0x12345678#32)]) (fun _ t => regs t
    [(4#5, 0x78123456#32)] && goes t 0x1004#32 0x1008#32 false) = true := by decide
/-- F21: rot r4,r5,<0>. -/
theorem test_rotImm_vector_F21 : check 0xF085A800#32 (start 0x800003E0#32 [(5#5, 0x12345678#32)]) (fun _ t => regs t
    [(4#5, 0x12345678#32)] && goes t 0x1004#32 0x1008#32 false) = true := by decide
/-- FC46: tb0 0,r0,128. -/
theorem test_tb0_vector_FC46 : check 0xF000D080#32 (startAt 0x2000#32 ({ start 0x000003E0#32 [] with vbr := 0x1F000#32
    })) (fun _ t => entered t 0x1F400#32 0x2000#32 0x000003E0#32 0x800003FB#32) = true := by decide
/-- FC47: tb0 0,r0,5. -/
theorem test_tb0_vector_FC47 : check 0xF000D005#32 (start 0x000003E0#32 []) (fun _ t => entered t 0x30#32 0x1000#32
    0x000003E0#32 0x800003FB#32) = true := by decide
/-- FC51: tb1 5,r3,129. -/
theorem test_tb1_vector_FC51 : check 0xF0A3D881#32 (start 0x800003E0#32 [(3#5, 0x0000001F#32)]) (fun s t => goes t
    0x1004#32 0x1008#32 false && t.gpr == s.gpr) = true := by decide
/-- FC48: tb1 0,r0,5. -/
theorem test_tb1_vector_FC48 : check 0xF000D805#32 (start 0x000003E0#32 []) (fun _ t => entered t 0x30#32 0x1000#32
    0x000003E0#32 0x800003FB#32) = true := by decide
/-- FC53: tcnd eq0,r3,130. -/
theorem test_tcnd_vector_FC53 : check 0xF043E882#32 (start 0x800003E0#32 [(3#5, 0x00000001#32)]) (fun s t => goes t
    0x1004#32 0x1008#32 false && t.gpr == s.gpr) = true := by decide
/-- FC52: tcnd eq0,r3,130. -/
theorem test_tcnd_vector_FC52 : check 0xF043E882#32 (start 0x800003E0#32 [(3#5, 0x00000000#32)]) (fun _ t => entered t
    0x410#32 0x1000#32 0x800003E0#32 0x800003FB#32) = true := by decide
/-- M38: xmem.bu r5,r6,r7. -/
theorem test_xmemBu_vector_M38 : check 0xF4A60007#32 (withBytes (start 0x800003E0#32 [(5#5, 0xFFFFFF01#32), (6#5,
    0x00003000#32), (7#5, 0x00000003#32)]) 0x3000#32 [0x00#8, 0x00#8, 0x00#8, 0xFF#8]) (fun _ t => regs t [(5#5,
    0x000000FF#32)] && goes t 0x1004#32 0x1008#32 false && bytes t 0x00003003#32 [0x01#8]) = true := by decide
/-- M37: xmem r5,r6,r0. -/
theorem test_xmem_vector_M37 : check 0xF4A60400#32 (withBytes (start 0x800003E0#32 [(5#5, 0x12345678#32), (6#5,
    0x00003000#32)]) 0x3000#32 [0x00#8, 0x00#8, 0x00#8, 0xFF#8]) (fun _ t => regs t [(5#5, 0x000000FF#32)] && goes t
    0x1004#32 0x1008#32 false && bytes t 0x00003000#32 [0x12#8, 0x34#8, 0x56#8, 0x78#8]) = true := by decide
/-- M40: xmem r5,r6,r0. -/
theorem test_xmem_vector_M40 : check 0xF4A60400#32 (start 0x800003E0#32 [(5#5, 0x00000001#32), (6#5, 0x00003002#32)])
    (fun _ t => entered t 0x20#32 0x1000#32 0x800003E0#32 0x800003FB#32) = true := by decide
/-- M17: ld.bu r2,r3[r4]. -/
theorem test_ldBu_vector_M17 : check 0xF4430E04#32 (withBytes (start 0x800003E0#32 [(3#5, 0x00002000#32), (4#5,
    0x00000007#32)]) 0x2000#32 [0x80#8, 0x01#8, 0xFF#8, 0x7F#8, 0x11#8, 0x22#8, 0x33#8, 0x44#8]) (fun _ t => regs t
    [(2#5, 0x00000044#32)] && goes t 0x1004#32 0x1008#32 false) = true := by decide
/-- M16: ld.d r2,r3[r4]. -/
theorem test_ldD_vector_M16 : check 0xF4431204#32 (withBytes (start 0x800003E0#32 [(3#5, 0x00001FF8#32), (4#5,
    0x00000001#32)]) 0x2000#32 [0x80#8, 0x01#8, 0xFF#8, 0x7F#8, 0x11#8, 0x22#8, 0x33#8, 0x44#8]) (fun _ t => regs t
    [(2#5, 0x8001FF7F#32), (3#5, 0x11223344#32)] && goes t 0x1004#32 0x1008#32 false) = true := by decide
/-- M14: ld r2,r3[r4]. -/
theorem test_ld_vector_M14 : check 0xF4431604#32 (withBytes (start 0x800003E0#32 [(3#5, 0x00002000#32), (4#5,
    0x00000001#32)]) 0x2000#32 [0x80#8, 0x01#8, 0xFF#8, 0x7F#8, 0x11#8, 0x22#8, 0x33#8, 0x44#8]) (fun _ t => regs t
    [(2#5, 0x11223344#32)] && goes t 0x1004#32 0x1008#32 false) = true := by decide
/-- M25: ld.usr r2,r3,r0. -/
theorem test_ld_vector_M25 : check 0xF4431500#32 (withBytes (start 0x000003E0#32 [(3#5, 0x00002000#32)]) 0x2000#32
    [0x80#8, 0x01#8, 0xFF#8, 0x7F#8, 0x11#8, 0x22#8, 0x33#8, 0x44#8]) (fun _ t => entered t 0x30#32 0x1000#32
    0x000003E0#32 0x800003FB#32) = true := by decide
/-- M15: ld.h r2,r3[r4]. -/
theorem test_ldH_vector_M15 : check 0xF4431A04#32 (withBytes (start 0x800003E0#32 [(3#5, 0x00002000#32), (4#5,
    0x00000003#32)]) 0x2000#32 [0x80#8, 0x01#8, 0xFF#8, 0x7F#8, 0x11#8, 0x22#8, 0x33#8, 0x44#8]) (fun _ t => regs t
    [(2#5, 0x00003344#32)] && goes t 0x1004#32 0x1008#32 false) = true := by decide
/-- M36: st.wt r2,r3[r4]. -/
theorem test_st_vector_M36 : check 0xF4432684#32 (start 0x800003E0#32 [(2#5, 0x55AA55AA#32), (3#5, 0x00003000#32),
    (4#5, 0x00000002#32)]) (fun _ t => goes t 0x1004#32 0x1008#32 false && bytes t 0x00003008#32 [0x55#8, 0xAA#8,
    0x55#8, 0xAA#8]) = true := by decide
/-- M43: lda.d r1,r2[r3]. -/
theorem test_ldaD_vector_M43 : check 0xF4223203#32 (start 0x800003E0#32 [(2#5, 0x00001000#32), (3#5, 0x00000005#32)])
    (fun _ t => regs t [(1#5, 0x00001028#32)] && goes t 0x1004#32 0x1008#32 false) = true := by decide
/-- M42: lda r1,r2[r3]. -/
theorem test_lda_vector_M42 : check 0xF4223603#32 (start 0x800003E0#32 [(2#5, 0x00001000#32), (3#5, 0x00000005#32)])
    (fun _ t => regs t [(1#5, 0x00001014#32)] && goes t 0x1004#32 0x1008#32 false) = true := by decide
/-- M41: lda.h r1,r2[r3]. -/
theorem test_ldaH_vector_M41 : check 0xF4223A03#32 (start 0x800003E0#32 [(2#5, 0x00001000#32), (3#5, 0x00000005#32)])
    (fun _ t => regs t [(1#5, 0x0000100A#32)] && goes t 0x1004#32 0x1008#32 false) = true := by decide
/-- M44: lda.x r1,r2[r3]. -/
theorem test_ldaX_vector_M44 : check 0xF4223E03#32 (start 0x800003E0#32 [(2#5, 0x00001001#32), (3#5, 0xFFFFFFFF#32)])
    (fun _ t => regs t [(1#5, 0x00000FF1#32)] && goes t 0x1004#32 0x1008#32 false) = true := by decide
/-- L1: and r1,r2,r3. -/
theorem test_andReg_vector_L1 : check 0xF4224003#32 (start 0x800003E0#32 [(2#5, 0xFF00FF00#32), (3#5, 0x0FF00FF0#32)])
    (fun _ t => regs t [(1#5, 0x0F000F00#32)] && goes t 0x1004#32 0x1008#32 false) = true := by decide
/-- L2: and.c r1,r2,r3. -/
theorem test_andReg_vector_L2 : check 0xF4224403#32 (start 0x800003E0#32 [(2#5, 0xFF00FF00#32), (3#5, 0x0FF00FF0#32)])
    (fun _ t => regs t [(1#5, 0xF000F000#32)] && goes t 0x1004#32 0x1008#32 false) = true := by decide
/-- L11: xor r1,r2,r3. -/
theorem test_xorReg_vector_L11 : check 0xF4225003#32 (start 0x800003E0#32 [(2#5, 0xFF00FF00#32), (3#5,
    0x0FF00FF0#32)]) (fun _ t => regs t [(1#5, 0xF0F0F0F0#32)] && goes t 0x1004#32 0x1008#32 false) = true := by
    decide
/-- L12: xor.c r1,r2,r0. -/
theorem test_xorReg_vector_L12 : check 0xF4225400#32 (start 0x800003E0#32 [(2#5, 0x12345678#32)]) (fun _ t => regs t
    [(1#5, 0xEDCBA987#32)] && goes t 0x1004#32 0x1008#32 false) = true := by decide
/-- L6: or r1,r2,r3. -/
theorem test_orReg_vector_L6 : check 0xF4225803#32 (start 0x800003E0#32 [(2#5, 0xFF00FF00#32), (3#5, 0x0FF00FF0#32)])
    (fun _ t => regs t [(1#5, 0xFFF0FFF0#32)] && goes t 0x1004#32 0x1008#32 false) = true := by decide
/-- L7: or.c r1,r2,r3. -/
theorem test_orReg_vector_L7 : check 0xF4225C03#32 (start 0x800003E0#32 [(2#5, 0xFF00FF00#32), (3#5, 0x0FF00FF0#32)])
    (fun _ t => regs t [(1#5, 0xFF0FFF0F#32)] && goes t 0x1004#32 0x1008#32 false) = true := by decide
/-- I13: addu.co r2,r3,r4. -/
theorem test_adduReg_vector_I13 : check 0xF4436104#32 (start 0x800003E0#32 [(3#5, 0xFFFFFFFF#32), (4#5,
    0x00000002#32)]) (fun _ t => regs t [(2#5, 0x00000001#32)] && psrCarry t && goes t 0x1004#32 0x1008#32 false) =
    true := by decide
/-- I14: addu.co r2,r3,r4. -/
theorem test_adduReg_vector_I14 : check 0xF4436104#32 (start 0x900003E0#32 [(3#5, 0x00000001#32), (4#5,
    0x00000002#32)]) (fun _ t => regs t [(2#5, 0x00000003#32)] && !psrCarry t && goes t 0x1004#32 0x1008#32 false) =
    true := by decide
/-- I25: subu r2,r3,r4. -/
theorem test_subuReg_vector_I25 : check 0xF4436404#32 (start 0x800003E0#32 [(3#5, 0x00000000#32), (4#5,
    0x00000001#32)]) (fun _ t => regs t [(2#5, 0xFFFFFFFF#32)] && goes t 0x1004#32 0x1008#32 false) = true := by
    decide
/-- I26: subu.co r2,r3,r4. -/
theorem test_subuReg_vector_I26 : check 0xF4436504#32 (start 0x900003E0#32 [(3#5, 0x00000000#32), (4#5,
    0x00000001#32)]) (fun _ t => regs t [(2#5, 0xFFFFFFFF#32)] && !psrCarry t && goes t 0x1004#32 0x1008#32 false) =
    true := by decide
/-- I1: add r2,r3,r4. -/
theorem test_addReg_vector_I1 : check 0xF4437004#32 (start 0x800003E0#32 [(3#5, 0x7FFFFFFE#32), (4#5, 0x00000001#32)])
    (fun _ t => regs t [(2#5, 0x7FFFFFFF#32)] && goes t 0x1004#32 0x1008#32 false) = true := by decide
/-- I2: add r2,r3,r4. -/
theorem test_addReg_vector_I2 : check 0xF4437004#32 (start 0x800003E0#32 [(2#5, 0xAAAAAAAA#32), (3#5, 0x7FFFFFFF#32),
    (4#5, 0x00000001#32)]) (fun _ t => entered t 0x48#32 0x1000#32 0x800003E0#32 0x800003FB#32) = true := by decide
/-- I18: sub r2,r3,r4. -/
theorem test_subReg_vector_I18 : check 0xF4437404#32 (start 0x800003E0#32 [(3#5, 0x00000005#32), (4#5,
    0x00000007#32)]) (fun _ t => regs t [(2#5, 0xFFFFFFFE#32)] && goes t 0x1004#32 0x1008#32 false) = true := by
    decide
/-- I19: sub r2,r3,r4. -/
theorem test_subReg_vector_I19 : check 0xF4437404#32 (start 0x800003E0#32 [(3#5, 0x7FFFFFFF#32), (4#5,
    0xFFFFFFFF#32)]) (fun _ t => entered t 0x48#32 0x1000#32 0x800003E0#32 0x800003FB#32) = true := by decide
/-- I55: divu r2,r3,r4. -/
theorem test_divuReg_vector_I55 : check 0xF4436804#32 (start 0x800003E0#32 [(3#5, 0xFFFFFFFF#32), (4#5,
    0x00000010#32)]) (fun _ t => regs t [(2#5, 0x0FFFFFFF#32)] && goes t 0x1004#32 0x1008#32 false) = true := by
    decide
/-- X4: divu r2,r3,r0. -/
theorem test_divuReg_vector_X4 : check 0xF4436800#32 ({ start 0x800003E0#32 [(3#5, 0x00000001#32)] with vbr :=
    0xABCDE000#32 }) (fun _ t => entered t 0xABCDE040#32 0x1000#32 0x800003E0#32 0x800003FB#32) = true := by decide
/-- I58: divu.d r8,r4,r6. -/
theorem test_divuD_vector_I58 : check 0xF5046906#32 (start 0x800003E0#32 [(4#5, 0xFFFFFFFF#32), (5#5, 0xFFFFFFFF#32),
    (6#5, 0x00000001#32)]) (fun _ t => regs t [(8#5, 0xFFFFFFFF#32), (9#5, 0xFFFFFFFF#32)] && goes t 0x1004#32
    0x1008#32 false) = true := by decide
/-- I60: divu.d r8,r5,r6. -/
theorem test_divuD_vector_I60 : check 0xF5056906#32 (start 0x800003E0#32 [(6#5, 0x00000001#32)]) (fun _ t => entered t
    0x28#32 0x1000#32 0x800003E0#32 0x800003FB#32) = true := by decide
/-- I38: mulu r2,r3,r4. -/
theorem test_muluReg_vector_I38 : check 0xF4436C04#32 (start 0x800003E0#32 [(3#5, 0x00010001#32), (4#5,
    0x00010001#32)]) (fun _ t => regs t [(2#5, 0x00020001#32)] && goes t 0x1004#32 0x1008#32 false) = true := by
    decide
/-- I39: mulu r2,r3,r4. -/
theorem test_muluReg_vector_I39 : check 0xF4436C04#32 (start 0x800003E0#32 [(3#5, 0xFFFFFFFF#32), (4#5,
    0xFFFFFFFF#32)]) (fun _ t => regs t [(2#5, 0x00000001#32)] && goes t 0x1004#32 0x1008#32 false) = true := by
    decide
/-- I41: mulu.d r6,r3,r4. -/
theorem test_muluD_vector_I41 : check 0xF4C36D04#32 (start 0x800003E0#32 [(3#5, 0x80000000#32), (4#5, 0x00000004#32)])
    (fun _ t => regs t [(6#5, 0x00000002#32), (7#5, 0x00000000#32)] && goes t 0x1004#32 0x1008#32 false) = true := by
    decide
/-- I42: mulu.d r7,r3,r4. -/
theorem test_muluD_vector_I42 : check 0xF4E36D04#32 (start 0x800003E0#32 [(3#5, 0x00000002#32), (4#5, 0x00000003#32)])
    (fun _ t => entered t 0x28#32 0x1000#32 0x800003E0#32 0x800003FB#32) = true := by decide
/-- I44: muls r2,r3,r4. -/
theorem test_muls_vector_I44 : check 0xF4436E04#32 (start 0x800003E0#32 [(3#5, 0xFFFFFFFF#32), (4#5, 0xFFFFFFFF#32)])
    (fun _ t => regs t [(2#5, 0x00000001#32)] && goes t 0x1004#32 0x1008#32 false) = true := by decide
/-- I45: muls r2,r3,r4. -/
theorem test_muls_vector_I45 : check 0xF4436E04#32 (start 0x800003E0#32 [(3#5, 0x80000000#32), (4#5, 0xFFFFFFFF#32)])
    (fun _ t => entered t 0x48#32 0x1000#32 0x800003E0#32 0x800003FB#32) = true := by decide
/-- I48: divs r2,r3,r4. -/
theorem test_divsReg_vector_I48 : check 0xF4437804#32 (start 0x800003E0#32 [(3#5, 0x00000007#32), (4#5,
    0xFFFFFFFE#32)]) (fun _ t => regs t [(2#5, 0xFFFFFFFD#32)] && goes t 0x1004#32 0x1008#32 false) = true := by
    decide
/-- I50: divs r2,r3,r4. -/
theorem test_divsReg_vector_I50 : check 0xF4437804#32 (start 0x800003E0#32 [(3#5, 0x80000000#32), (4#5,
    0xFFFFFFFF#32)]) (fun _ t => entered t 0x48#32 0x1000#32 0x800003E0#32 0x800003FB#32) = true := by decide
/-- I30: cmp r2,r3,r4. -/
theorem test_cmpReg_vector_I30 : check 0xF4437C04#32 (start 0x800003E0#32 [(3#5, 0xFFFFFFFF#32), (4#5,
    0x00000001#32)]) (fun _ t => regs t [(2#5, 0x0000A968#32)] && goes t 0x1004#32 0x1008#32 false) = true := by
    decide
/-- I31: cmp r2,r3,r4. -/
theorem test_cmpReg_vector_I31 : check 0xF4437C04#32 (start 0x800003E0#32 [(3#5, 0x00000001#32), (4#5,
    0xFFFFFFFF#32)]) (fun _ t => regs t [(2#5, 0x0000A698#32)] && goes t 0x1004#32 0x1008#32 false) = true := by
    decide
/-- F6: set r4,r5,r6. -/
theorem test_setReg_vector_F6 : check 0xF4858806#32 (start 0x800003E0#32 [(5#5, 0x00000000#32), (6#5, 0xFFFFFC68#32)])
    (fun _ t => regs t [(4#5, 0x00000700#32)] && goes t 0x1004#32 0x1008#32 false) = true := by decide
/-- F15: extu r4,r5,r6. -/
theorem test_extuReg_vector_F15 : check 0xF4859806#32 (start 0x800003E0#32 [(5#5, 0xABCDEF12#32), (6#5,
    0x0000008C#32)]) (fun _ t => regs t [(4#5, 0x0000000E#32)] && goes t 0x1004#32 0x1008#32 false) = true := by
    decide
/-- F19: mak r4,r5,r6. -/
theorem test_makReg_vector_F19 : check 0xF485A006#32 (start 0x800003E0#32 [(5#5, 0x00000003#32), (6#5,
    0x0000005E#32)]) (fun _ t => regs t [(4#5, 0xC0000000#32)] && goes t 0x1004#32 0x1008#32 false) = true := by
    decide
/-- F22: rot r4,r5,r6. -/
theorem test_rotReg_vector_F22 : check 0xF485A806#32 (start 0x800003E0#32 [(5#5, 0x80000001#32), (6#5,
    0x000003FF#32)]) (fun _ t => regs t [(4#5, 0x00000003#32)] && goes t 0x1004#32 0x1008#32 false) = true := by
    decide
/-- FC41: jmp r1. -/
theorem test_jmp_vector_FC41 : check 0xF400C001#32 (start 0x800003E0#32 [(1#5, 0x00003007#32)]) (fun _ t => goes t
    0x00003004#32 0x00003008#32 false) = true := by decide
/-- FC42: jmp.n r5. -/
theorem test_jmp_vector_FC42 : check 0xF400C405#32 (start 0x800003E0#32 [(5#5, 0x00008000#32)]) (fun _ t => goes t
    0x00001004#32 0x00008000#32 true) = true := by decide
/-- FC43: jsr r5. -/
theorem test_jsr_vector_FC43 : check 0xF400C805#32 (startAt 0x4000#32 (start 0x800003E0#32 [(5#5, 0x00008000#32)]))
    (fun _ t => regs t [(1#5, 0x00004004#32)] && goes t 0x00008000#32 0x00008004#32 false) = true := by decide
/-- FC44: jsr.n r5. -/
theorem test_jsr_vector_FC44 : check 0xF400CC05#32 (startAt 0x4000#32 (start 0x800003E0#32 [(5#5, 0x00008000#32)]))
    (fun _ t => regs t [(1#5, 0x00004008#32)] && goes t 0x00004004#32 0x00008000#32 true) = true := by decide
/-- F23: ff1 r4,r5. -/
theorem test_ff1_vector_F23 : check 0xF480E805#32 (start 0x800003E0#32 [(5#5, 0x00010010#32)]) (fun _ t => regs t
    [(4#5, 0x00000010#32)] && goes t 0x1004#32 0x1008#32 false) = true := by decide
/-- F24: ff1 r4,r5. -/
theorem test_ff1_vector_F24 : check 0xF480E805#32 (start 0x800003E0#32 [(4#5, 0x00000007#32), (5#5, 0x00000000#32)])
    (fun _ t => regs t [(4#5, 0x00000020#32)] && goes t 0x1004#32 0x1008#32 false) = true := by decide
/-- F26: ff0 r4,r5. -/
theorem test_ff0_vector_F26 : check 0xF480EC05#32 (start 0x800003E0#32 [(5#5, 0xFFFEFFEF#32)]) (fun _ t => regs t
    [(4#5, 0x00000010#32)] && goes t 0x1004#32 0x1008#32 false) = true := by decide
/-- F27: ff0 r4,r5. -/
theorem test_ff0_vector_F27 : check 0xF480EC05#32 (start 0x800003E0#32 [(5#5, 0xFFFFFFFF#32)]) (fun _ t => regs t
    [(4#5, 0x00000020#32)] && goes t 0x1004#32 0x1008#32 false) = true := by decide
/-- FC59: tbnd r2,r3. -/
theorem test_tbndReg_vector_FC59 : check 0xF402F803#32 (start 0x800003E0#32 [(2#5, 0x00000005#32), (3#5,
    0xFFFFFFFF#32)]) (fun s t => goes t 0x1004#32 0x1008#32 false && t.gpr == s.gpr) = true := by decide
/-- FC58: tbnd r2,r3. -/
theorem test_tbndReg_vector_FC58 : check 0xF402F803#32 (start 0x800003E0#32 [(2#5, 0xFFFFFFFF#32), (3#5,
    0x7FFFFFFF#32)]) (fun _ t => entered t 0x38#32 0x1000#32 0x800003E0#32 0x800003FB#32) = true := by decide
/-- FC55: tbnd r2,100. -/
theorem test_tbndImm_vector_FC55 : check 0xF8020064#32 (start 0x800003E0#32 [(2#5, 0x00000064#32)]) (fun s t => goes t
    0x1004#32 0x1008#32 false && t.gpr == s.gpr) = true := by decide
/-- FC56: tbnd r2,100. -/
theorem test_tbndImm_vector_FC56 : check 0xF8020064#32 (start 0x800003E0#32 [(2#5, 0x00000065#32)]) (fun _ t =>
    entered t 0x38#32 0x1000#32 0x800003E0#32 0x800003FB#32) = true := by decide
/-- FC60: rte. -/
theorem test_rte_vector_FC60 : check 0xF400FC00#32 ({ start 0x800003E0#32 [] with epsr := 0x3E0#32, exip := 0x2000#32
    }) (fun _ t => t.psr == 0x000003E0#32 && goes t 0x00002000#32 0x00002004#32 false) = true := by decide
/-- FC62: rte. -/
theorem test_rte_vector_FC62 : check 0xF400FC00#32 ({ start 0x000003E0#32 [] with epsr := 0x800003E0#32, exip :=
    0x2000#32 }) (fun _ t => entered t 0x30#32 0x1000#32 0x000003E0#32 0x800003FB#32) = true := by decide
/-- FC63: illop1. -/
theorem test_illop1_vector_FC63 : check 0xF400FC01#32 (startAt 0x5000#32 (start 0x800003E0#32 [])) (fun _ t => entered
    t 0x28#32 0x5000#32 0x800003E0#32 0x800003FB#32) = true := by decide
/-- FC64: illop3. -/
theorem test_illop3_vector_FC64 : check 0xF400FC03#32 (startAt 0x5000#32 (start 0x000003E0#32 [])) (fun _ t => entered
    t 0x28#32 0x5000#32 0x000003E0#32 0x800003FB#32) = true := by decide
/-- FP22: fmul.sss r3,r1,r2. -/
theorem test_fmul_vector_FP22 : check 0x84610002#32 (start 0x800003E0#32 [(1#5, 0xC0000000#32), (2#5, 0x40400000#32)])
    (fun _ t => regs t [(3#5, 0xC0C00000#32)] && goes t 0x1004#32 0x1008#32 false) = true := by decide
/-- FP23: fmul.sss r3,r1,r2. -/
theorem test_fmul_vector_FP23 : check 0x84610002#32 (start 0x800003E0#32 [(1#5, 0x0D800000#32), (2#5, 0x0D800000#32)])
    (fun _ t => entered t 0x390#32 0x1000#32 0x800003E0#32 0x800003FB#32 && t.fpecr == 0x4#32) = true := by decide
/-- FP3: fadd.sss r3,r1,r2. -/
theorem test_fadd_vector_FP3 : check 0x84612802#32 ({ start 0x800003E0#32 [(1#5, 0x3F800000#32), (2#5, 0x33800000#32)]
    with fpcr := 0xC000#32 }) (fun _ t => regs t [(3#5, 0x3F800001#32)] && t.fpsr == 0x00000001#32 && goes t 0x1004#32
    0x1008#32 false) = true := by decide
/-- FP11: fadd.sss r3,r1,r2. -/
theorem test_fadd_vector_FP11 : check 0x84612802#32 (start 0x800003E0#32 [(1#5, 0x00000001#32), (2#5, 0x3F800000#32)])
    (fun _ t => entered t 0x390#32 0x1000#32 0x800003E0#32 0x800003FB#32 && t.fpecr == 0x10#32) = true := by decide
/-- FP17: fsub.sss r3,r1,r1. -/
theorem test_fsub_vector_FP17 : check 0x84613001#32 (start 0x800003E0#32 [(1#5, 0x3F800000#32)]) (fun _ t => regs t
    [(3#5, 0x00000000#32)] && goes t 0x1004#32 0x1008#32 false) = true := by decide
/-- FP19: fsub.sss r3,r1,r2. -/
theorem test_fsub_vector_FP19 : check 0x84613002#32 (start 0x800003E0#32 [(1#5, 0x7F800000#32), (2#5, 0x7F800000#32)])
    (fun _ t => entered t 0x390#32 0x1000#32 0x800003E0#32 0x800003FB#32 && t.fpecr == 0x10#32) = true := by decide
/-- FP29: fdiv.sss r3,r1,r2. -/
theorem test_fdiv_vector_FP29 : check 0x84617002#32 (start 0x800003E0#32 [(1#5, 0x3F800000#32), (2#5, 0x40400000#32)])
    (fun _ t => regs t [(3#5, 0x3EAAAAAB#32)] && t.fpsr == 0x00000001#32 && goes t 0x1004#32 0x1008#32 false) = true
    := by decide
/-- FP30: fdiv.sss r3,r1,r0. -/
theorem test_fdiv_vector_FP30 : check 0x84617000#32 (start 0x800003E0#32 [(1#5, 0x3F800000#32)]) (fun _ t => entered t
    0x390#32 0x1000#32 0x800003E0#32 0x800003FB#32 && t.fpecr == 0x8#32) = true := by decide
/-- FP39: fcvt.sd r2,r4. -/
theorem test_fcvt_vector_FP39 : check 0x84400884#32 (start 0x800003E0#32 [(4#5, 0x3FF00000#32), (5#5, 0x00000000#32)])
    (fun _ t => regs t [(2#5, 0x3F800000#32)] && goes t 0x1004#32 0x1008#32 false) = true := by decide
/-- FP40: fcvt.sd r2,r3. -/
theorem test_fcvt_vector_FP40 : check 0x84400883#32 (start 0x800003E0#32 [(3#5, 0x3FF00000#32), (4#5, 0x00000000#32)])
    (fun _ t => entered t 0x390#32 0x1000#32 0x800003E0#32 0x800003FB#32) = true := by decide
/-- FP36: fsqrt.ss r2,r3. -/
theorem test_fsqrt_vector_FP36 : check 0x84407803#32 (start 0x800003E0#32 [(3#5, 0x40800000#32)]) (fun _ t => entered
    t 0x390#32 0x1000#32 0x800003E0#32 0x800003FB#32) = true := by decide
/-- FP47: flt.ss r2,r3. -/
theorem test_flt_vector_FP47 : check 0x84402003#32 (start 0x800003E0#32 [(3#5, 0x01000001#32)]) (fun _ t => regs t
    [(2#5, 0x4B800000#32)] && t.fpsr == 0x00000001#32 && goes t 0x1004#32 0x1008#32 false) = true := by decide
/-- FP52: flt.ds r3,r4. -/
theorem test_flt_vector_FP52 : check 0x84602024#32 (start 0x800003E0#32 [(4#5, 0x00000001#32)]) (fun _ t => entered t
    0x390#32 0x1000#32 0x800003E0#32 0x800003FB#32) = true := by decide
/-- FP76: fcmp.sss r2,r3,r4. -/
theorem test_fcmp_vector_FP76 : check 0x84433804#32 (start 0x800003E0#32 [(3#5, 0x3F800000#32), (4#5, 0xC0000000#32)])
    (fun _ t => regs t [(2#5, 0x0002609A#32)] && goes t 0x1004#32 0x1008#32 false) = true := by decide
/-- FP77: fcmp.sss r2,r3,r4. -/
theorem test_fcmp_vector_FP77 : check 0x84433804#32 (start 0x800003E0#32 [(3#5, 0xBF800000#32), (4#5, 0x40000000#32)])
    (fun _ t => regs t [(2#5, 0x0001A96A#32)] && goes t 0x1004#32 0x1008#32 false) = true := by decide
/-- FP74: fcmpu.sss r2,r3,r3. -/
theorem test_fcmpu_vector_FP74 : check 0x84433823#32 (start 0x800003E0#32 [(3#5, 0x3F800000#32)]) (fun _ t => regs t
    [(2#5, 0x00029AA6#32)] && goes t 0x1004#32 0x1008#32 false) = true := by decide
/-- FP82: fcmpu.sss r2,r3,r4. -/
theorem test_fcmpu_vector_FP82 : check 0x84433824#32 (start 0x800003E0#32 [(3#5, 0x7FC00000#32), (4#5,
    0x3F800000#32)]) (fun _ t => entered t 0x390#32 0x1000#32 0x800003E0#32 0x800003FB#32 && t.fpecr == 0x10#32) =
    true := by decide
/-- FP54: int.ss r2,r3. -/
theorem test_int_vector_FP54 : check 0x84404803#32 (start 0x800003E0#32 [(3#5, 0x40200000#32)]) (fun _ t => regs t
    [(2#5, 0x00000002#32)] && t.fpsr == 0x00000001#32 && goes t 0x1004#32 0x1008#32 false) = true := by decide
/-- FP57: int.ss r2,r3. -/
theorem test_int_vector_FP57 : check 0x84404803#32 (start 0x800003E0#32 [(3#5, 0x4F32D05E#32)]) (fun _ t => entered t
    0x390#32 0x1000#32 0x800003E0#32 0x800003FB#32 && t.fpecr == 0x80#32) = true := by decide
/-- FP66: nint.ss r2,r3. -/
theorem test_nint_vector_FP66 : check 0x84405003#32 (start 0x800003E0#32 [(3#5, 0x40600000#32)]) (fun _ t => regs t
    [(2#5, 0x00000004#32)] && t.fpsr == 0x00000001#32 && goes t 0x1004#32 0x1008#32 false) = true := by decide
/-- FP67: nint.ss r2,r3. -/
theorem test_nint_vector_FP67 : check 0x84405003#32 ({ start 0x800003E0#32 [(3#5, 0x40200000#32)] with fpcr :=
    0xC000#32 }) (fun _ t => regs t [(2#5, 0x00000002#32)] && t.fpsr == 0x00000001#32 && goes t 0x1004#32 0x1008#32
    false) = true := by decide
/-- FP69: trnc.ss r2,r3. -/
theorem test_trnc_vector_FP69 : check 0x84405803#32 (start 0x800003E0#32 [(3#5, 0xC0600000#32)]) (fun _ t => regs t
    [(2#5, 0xFFFFFFFD#32)] && t.fpsr == 0x00000001#32 && goes t 0x1004#32 0x1008#32 false) = true := by decide
/-- FP71: trnc.ss r2,r3. -/
theorem test_trnc_vector_FP71 : check 0x84405803#32 (start 0x800003E0#32 [(3#5, 0x4F000000#32)]) (fun _ t => entered t
    0x390#32 0x1000#32 0x800003E0#32 0x800003FB#32 && t.fpecr == 0x80#32) = true := by decide
/-- FP83: mov.s r2,x3. -/
theorem test_movToGrf_vector_FP83 : check 0x8440C003#32 (withX (start 0x800003E0#32 []) 3#5 0x3F800000000000000000#80)
    (fun _ t => regs t [(2#5, 0x3F800000#32)] && goes t 0x1004#32 0x1008#32 false) = true := by decide
/-- FP88: mov.d r3,x2. -/
theorem test_movToGrf_vector_FP88 : check 0x8460C082#32 (withX (start 0x800003E0#32 []) 2#5 0x40080000000000000000#80)
    (fun _ t => entered t 0x390#32 0x1000#32 0x800003E0#32 0x800003FB#32) = true := by decide
/-- FP85: mov.d x2,r4. -/
theorem test_movToXrf_vector_FP85 : check 0x84404284#32 (start 0x800003E0#32 [(4#5, 0x40080000#32), (5#5,
    0x00000001#32)]) (fun _ t => t.fpsr == 0x00010000#32 && goes t 0x1004#32 0x1008#32 false) = true := by decide
/-- FP86: mov.s x2,r5. -/
theorem test_movToXrf_vector_FP86 : check 0x84404205#32 (start 0x800003E0#32 [(5#5, 0x7FC00001#32)]) (fun _ t =>
    t.fpsr == 0x00010000#32 && goes t 0x1004#32 0x1008#32 false) = true := by decide
/-- FP87: mov x1,x2. -/
theorem test_movXrf_vector_FP87 : check 0x8420C302#32 (withX (start 0x800003E0#32 []) 2#5 0x3FFF8000000000000000#80)
    (fun _ t => t.fpsr == 0x00010000#32 && goes t 0x1004#32 0x1008#32 false && readX t 1#5 ==
    0x3FFF8000000000000000#80) = true := by decide
/-- FP89: mov x0,x2. -/
theorem test_movXrf_vector_FP89 : check 0x8400C302#32 (withX (start 0x800003E0#32 []) 2#5 0x3FFF8000000000000000#80)
    (fun s t => goes t 0x1004#32 0x1008#32 false && t.gpr == s.gpr) = true := by decide
/-- G20: pmul r2,r5,r6. -/
theorem test_pmul_vector_G20 : check 0x88450006#32 (start 0x800003E0#32 [(5#5, 0x00000080#32), (6#5, 0x00FF0040#32),
    (7#5, 0x00200010#32)]) (fun _ t => regs t [(2#5, 0x7F802000#32), (3#5, 0x10000800#32)] && goes t 0x1004#32
    0x1008#32 false) = true := by decide
/-- G36: pmul r2,r5,r7. -/
theorem test_pmul_vector_G36 : check 0x88450007#32 (start 0x800003E0#32 [(5#5, 0x00000001#32)]) (fun _ t => entered t
    0x3A0#32 0x1000#32 0x800003E0#32 0x800003FB#32) = true := by decide
/-- G1: padd.b r2,r4,r6. -/
theorem test_padd_vector_G1 : check 0x88442026#32 (start 0x800003E0#32 [(4#5, 0x557F80AA#32), (5#5, 0xFF000000#32),
    (6#5, 0x55FF80AA#32), (7#5, 0xFF000000#32)]) (fun _ t => regs t [(2#5, 0xAA7E0054#32), (3#5, 0xFE000000#32)] &&
    goes t 0x1004#32 0x1008#32 false) = true := by decide
/-- G35: padd.b r3,r4,r6. -/
theorem test_padd_vector_G35 : check 0x88642026#32 (start 0x800003E0#32 [(4#5, 0x557F80AA#32), (5#5, 0xFF000000#32),
    (6#5, 0x55FF80AA#32), (7#5, 0xFF000000#32)]) (fun _ t => entered t 0x3A0#32 0x1000#32 0x800003E0#32 0x800003FB#32)
    = true := by decide
/-- G4: padds.u.b r2,r4,r6. -/
theorem test_paddsU_vector_G4 : check 0x884420A6#32 (start 0x800003E0#32 [(4#5, 0x557F80AA#32), (5#5, 0xFF000000#32),
    (6#5, 0x55FF80AA#32), (7#5, 0xFF000000#32)]) (fun _ t => regs t [(2#5, 0xAAFFFFFF#32), (3#5, 0xFF000000#32)] &&
    goes t 0x1004#32 0x1008#32 false) = true := by decide
/-- G8: padds.u r2,r4,r6. -/
theorem test_paddsU_vector_G8 : check 0x884420E6#32 (start 0x800003E0#32 [(4#5, 0xFFFFFFFF#32), (5#5, 0x00000001#32),
    (6#5, 0x00000001#32), (7#5, 0x00000001#32)]) (fun _ t => regs t [(2#5, 0xFFFFFFFF#32), (3#5, 0x00000002#32)] &&
    goes t 0x1004#32 0x1008#32 false) = true := by decide
/-- G6: padds.us.b r2,r4,r6. -/
theorem test_paddsUs_vector_G6 : check 0x88442126#32 (start 0x800003E0#32 [(4#5, 0x557F80AA#32), (5#5, 0xFF000000#32),
    (6#5, 0x55FF80AA#32), (7#5, 0xFF000000#32)]) (fun _ t => regs t [(2#5, 0xAA7E0054#32), (3#5, 0xFE000000#32)] &&
    goes t 0x1004#32 0x1008#32 false) = true := by decide
/-- G9: padds.us.h r2,r4,r6. -/
theorem test_paddsUs_vector_G9 : check 0x88442146#32 (start 0x800003E0#32 [(4#5, 0x0001FFFF#32), (5#5, 0x80000005#32),
    (6#5, 0xFFFE0001#32), (7#5, 0x7FFFFFFB#32)]) (fun _ t => regs t [(2#5, 0x0000FFFF#32), (3#5, 0xFFFF0000#32)] &&
    goes t 0x1004#32 0x1008#32 false) = true := by decide
/-- G5: padds.s.b r2,r4,r6. -/
theorem test_paddsS_vector_G5 : check 0x884421A6#32 (start 0x800003E0#32 [(4#5, 0x557F80AA#32), (5#5, 0xFF000000#32),
    (6#5, 0x55FF80AA#32), (7#5, 0xFF000000#32)]) (fun _ t => regs t [(2#5, 0x7F7E8080#32), (3#5, 0xFE000000#32)] &&
    goes t 0x1004#32 0x1008#32 false) = true := by decide
/-- G7: padds.s.h r2,r4,r6. -/
theorem test_paddsS_vector_G7 : check 0x884421C6#32 (start 0x800003E0#32 [(4#5, 0x7FFF8000#32), (5#5, 0x00017FFF#32),
    (6#5, 0x00018000#32), (7#5, 0xFFFF8001#32)]) (fun _ t => regs t [(2#5, 0x7FFF8000#32), (3#5, 0x00000000#32)] &&
    goes t 0x1004#32 0x1008#32 false) = true := by decide
/-- G10: psub.b r2,r4,r6. -/
theorem test_psub_vector_G10 : check 0x88443026#32 (start 0x800003E0#32 [(4#5, 0x00FF8001#32), (5#5, 0x10203040#32),
    (6#5, 0x0100FF02#32), (7#5, 0x40302010#32)]) (fun _ t => regs t [(2#5, 0xFFFF81FF#32), (3#5, 0xD0F01030#32)] &&
    goes t 0x1004#32 0x1008#32 false) = true := by decide
/-- G11: psubs.u.b r2,r4,r6. -/
theorem test_psubsU_vector_G11 : check 0x884430A6#32 (start 0x800003E0#32 [(4#5, 0x00FF8001#32), (5#5, 0x10203040#32),
    (6#5, 0x0100FF02#32), (7#5, 0x40302010#32)]) (fun _ t => regs t [(2#5, 0x00FF0000#32), (3#5, 0x00001030#32)] &&
    goes t 0x1004#32 0x1008#32 false) = true := by decide
/-- G13: psubs.us.b r2,r4,r6. -/
theorem test_psubsUs_vector_G13 : check 0x88443126#32 (start 0x800003E0#32 [(4#5, 0x00FF8001#32), (5#5,
    0x10F03040#32), (6#5, 0x0180FF02#32), (7#5, 0x40803010#32)]) (fun _ t => regs t [(2#5, 0x00FF8100#32), (3#5,
    0x00FF0030#32)] && goes t 0x1004#32 0x1008#32 false) = true := by decide
/-- G12: psubs.s.b r2,r4,r6. -/
theorem test_psubsS_vector_G12 : check 0x884431A6#32 (start 0x800003E0#32 [(4#5, 0x007F8001#32), (5#5, 0x10203040#32),
    (6#5, 0x01FF7F02#32), (7#5, 0x40302010#32)]) (fun _ t => regs t [(2#5, 0xFF7F80FF#32), (3#5, 0xD0F01030#32)] &&
    goes t 0x1004#32 0x1008#32 false) = true := by decide
/-- G14: psubs.s r2,r4,r6. -/
theorem test_psubsS_vector_G14 : check 0x884431E6#32 (start 0x800003E0#32 [(4#5, 0x7FFFFFFF#32), (5#5, 0x80000000#32),
    (6#5, 0xFFFFFFFF#32), (7#5, 0x00000001#32)]) (fun _ t => regs t [(2#5, 0x7FFFFFFF#32), (3#5, 0x80000000#32)] &&
    goes t 0x1004#32 0x1008#32 false) = true := by decide
/-- G15: pcmp r2,r4,r6. -/
theorem test_pcmp_vector_G15 : check 0x88443866#32 (start 0x800003E0#32 [(4#5, 0x00000005#32), (5#5, 0x00000002#32),
    (6#5, 0x00000003#32), (7#5, 0x00000002#32)]) (fun _ t => regs t [(2#5, 0x00000E10#32)] && goes t 0x1004#32
    0x1008#32 false) = true := by decide
/-- G16: pcmp r2,r4,r6. -/
theorem test_pcmp_vector_G16 : check 0x88443866#32 (start 0x800003E0#32 [(4#5, 0x00000001#32), (5#5, 0x00000001#32),
    (6#5, 0x00000003#32), (7#5, 0x00000002#32)]) (fun _ t => regs t [(2#5, 0x00000D20#32)] && goes t 0x1004#32
    0x1008#32 false) = true := by decide
/-- G25: ppack.32.b r2,r4,r6. -/
theorem test_ppack_vector_G25 : check 0x88446426#32 (start 0x800003E0#32 [(4#5, 0x11223344#32), (5#5, 0x55667788#32),
    (6#5, 0xA1B2C3D4#32), (7#5, 0xE5F60718#32)]) (fun _ t => regs t [(2#5, 0x55667788#32), (3#5, 0xABCDEF01#32)] &&
    goes t 0x1004#32 0x1008#32 false) = true := by decide
/-- G38: ppack.8.b (undefined). -/
theorem test_ppack_vector_G38 : check 0x88446126#32 (start 0x800003E0#32 [(4#5, 0x11223344#32), (5#5, 0x55667788#32),
    (6#5, 0xA1B2C3D4#32), (7#5, 0xE5F60718#32)]) (fun _ t => entered t 0x3A0#32 0x1000#32 0x800003E0#32 0x800003FB#32)
    = true := by decide
/-- G22: punpk.n r2,r5. -/
theorem test_punpk_vector_G22 : check 0x88456800#32 (start 0x800003E0#32 [(5#5, 0x12345678#32)]) (fun _ t => regs t
    [(2#5, 0x01020304#32), (3#5, 0x05060708#32)] && goes t 0x1004#32 0x1008#32 false) = true := by decide
/-- G23: punpk.b r2,r5. -/
theorem test_punpk_vector_G23 : check 0x88456820#32 (start 0x800003E0#32 [(5#5, 0xAABBCCDD#32)]) (fun _ t => regs t
    [(2#5, 0x00AA00BB#32), (3#5, 0x00CC00DD#32)] && goes t 0x1004#32 0x1008#32 false) = true := by decide
/-- G32: prot r2,r4,<16>. -/
theorem test_protImm_vector_G32 : check 0x88447200#32 (start 0x800003E0#32 [(4#5, 0x01234567#32), (5#5,
    0x89ABCDEF#32)]) (fun _ t => regs t [(2#5, 0x456789AB#32), (3#5, 0xCDEF0123#32)] && goes t 0x1004#32 0x1008#32
    false) = true := by decide
/-- G33: prot r2,r4,<0>. -/
theorem test_protImm_vector_G33 : check 0x88447000#32 (start 0x800003E0#32 [(4#5, 0x01234567#32), (5#5,
    0x89ABCDEF#32)]) (fun _ t => regs t [(2#5, 0x01234567#32), (3#5, 0x89ABCDEF#32)] && goes t 0x1004#32 0x1008#32
    false) = true := by decide
/-- G34: prot r2,r4,r6. -/
theorem test_protReg_vector_G34 : check 0x88447806#32 (start 0x800003E0#32 [(4#5, 0x01234567#32), (5#5,
    0x89ABCDEF#32), (6#5, 0xFFFFFFE7#32)]) (fun _ t => regs t [(2#5, 0x9ABCDEF0#32), (3#5, 0x12345678#32)] && goes t
    0x1004#32 0x1008#32 false) = true := by decide
/-- By hand: ld.d x2,r3,0: FPSR.XMOD (R606). -/
theorem test_ldXrfDImm_by_hand : check 0x00430000#32 (withBytes (start 0x800003E0#32 [(3#5, 0x00002000#32)]) 0x2000#32
    [0x80#8, 0x01#8, 0xFF#8, 0x7F#8, 0x11#8, 0x22#8, 0x33#8, 0x44#8, 0x55#8, 0x66#8]) (fun _ t => t.fpsr ==
    0x00010000#32 && goes t 0x1004#32 0x1008#32 false) = true := by decide
/-- By hand: ld x2,r3,4: FPSR.XMOD (R606). -/
theorem test_ldXrfImm_by_hand : check 0x04430004#32 (withBytes (start 0x800003E0#32 [(3#5, 0x00002000#32)]) 0x2000#32
    [0x80#8, 0x01#8, 0xFF#8, 0x7F#8, 0x11#8, 0x22#8, 0x33#8, 0x44#8, 0x55#8, 0x66#8]) (fun _ t => t.fpsr ==
    0x00010000#32 && goes t 0x1004#32 0x1008#32 false) = true := by decide
/-- By hand: ld.x x2,r3,0 (R606). -/
theorem test_ldXrfXImm_by_hand : check 0x3C430000#32 (withBytes (start 0x800003E0#32 [(3#5, 0x00002000#32)]) 0x2000#32
    [0x80#8, 0x01#8, 0xFF#8, 0x7F#8, 0x11#8, 0x22#8, 0x33#8, 0x44#8, 0x55#8, 0x66#8]) (fun _ t => readX t 2#5 ==
    0x8001FF7F112233445566#80 && t.fpsr == 0x00010000#32 && goes t 0x1004#32 0x1008#32 false) = true := by decide
/-- By hand: st.d x2,r3,8 (R607). -/
theorem test_stXrfDImm_by_hand : check 0x30430008#32 (withX (start 0x800003E0#32 [(3#5, 0x00003000#32)]) 2#5
    0x0123456789ABCDEF0011#80) (fun _ t => bytes t 0x3008#32 [0x01#8, 0x23#8, 0x45#8, 0x67#8, 0x89#8, 0xAB#8, 0xCD#8,
    0xEF#8] && goes t 0x1004#32 0x1008#32 false) = true := by decide
/-- By hand: st x2,r3,4 (R607). -/
theorem test_stXrfImm_by_hand : check 0x34430004#32 (withX (start 0x800003E0#32 [(3#5, 0x00003000#32)]) 2#5
    0x0123456789ABCDEF0011#80) (fun _ t => bytes t 0x3004#32 [0x01#8, 0x23#8, 0x45#8, 0x67#8, 0x00#8] && goes t
    0x1004#32 0x1008#32 false) = true := by decide
/-- By hand: st.x x2,r3,16: 48 zero bits below the 80 (R607). -/
theorem test_stXrfXImm_by_hand : check 0x38430010#32 (withX (start 0x800003E0#32 [(3#5, 0x00003000#32)]) 2#5
    0x0123456789ABCDEF0011#80) (fun _ t => bytes t 0x3010#32 [0x01#8, 0x23#8, 0x45#8, 0x67#8, 0x89#8, 0xAB#8, 0xCD#8,
    0xEF#8, 0x00#8, 0x11#8, 0x00#8, 0x00#8, 0x00#8, 0x00#8, 0x00#8, 0x00#8] && goes t 0x1004#32 0x1008#32 false) =
    true := by decide
/-- By hand: ld.d x2,r3[r4]: FPSR.XMOD (R606). -/
theorem test_ldXrfD_by_hand : check 0xF0431204#32 (withBytes (start 0x800003E0#32 [(3#5, 0x00001FF8#32), (4#5,
    0x00000001#32)]) 0x2000#32 [0x80#8, 0x01#8, 0xFF#8, 0x7F#8, 0x11#8, 0x22#8, 0x33#8, 0x44#8, 0x55#8, 0x66#8]) (fun
    _ t => t.fpsr == 0x00010000#32 && goes t 0x1004#32 0x1008#32 false) = true := by decide
/-- By hand: ld x2,r3[r4]: FPSR.XMOD (R606). -/
theorem test_ldXrf_by_hand : check 0xF0431604#32 (withBytes (start 0x800003E0#32 [(3#5, 0x00001FFC#32), (4#5,
    0x00000001#32)]) 0x2000#32 [0x80#8, 0x01#8, 0xFF#8, 0x7F#8, 0x11#8, 0x22#8, 0x33#8, 0x44#8, 0x55#8, 0x66#8]) (fun
    _ t => t.fpsr == 0x00010000#32 && goes t 0x1004#32 0x1008#32 false) = true := by decide
/-- By hand: ld.x x2,r3[r4], scaled by 16 (R606). -/
theorem test_ldXrfX_by_hand : check 0xF0431A04#32 (withBytes (start 0x800003E0#32 [(3#5, 0x00001FF0#32), (4#5,
    0x00000001#32)]) 0x2000#32 [0x80#8, 0x01#8, 0xFF#8, 0x7F#8, 0x11#8, 0x22#8, 0x33#8, 0x44#8, 0x55#8, 0x66#8]) (fun
    _ t => readX t 2#5 == 0x8001FF7F112233445566#80 && t.fpsr == 0x00010000#32 && goes t 0x1004#32 0x1008#32 false) =
    true := by decide
/-- By hand: st.d x2,r3[r4], scaled by 8 (R607). -/
theorem test_stXrfD_by_hand : check 0xF0432204#32 (withX (start 0x800003E0#32 [(3#5, 0x00003000#32), (4#5,
    0x00000001#32)]) 2#5 0x0123456789ABCDEF0011#80) (fun _ t => bytes t 0x3008#32 [0x01#8, 0x23#8, 0x45#8, 0x67#8,
    0x89#8, 0xAB#8, 0xCD#8, 0xEF#8] && goes t 0x1004#32 0x1008#32 false) = true := by decide
/-- By hand: st x2,r3,r4, unscaled (R607). -/
theorem test_stXrf_by_hand : check 0xF0432404#32 (withX (start 0x800003E0#32 [(3#5, 0x00003000#32), (4#5,
    0x00000004#32)]) 2#5 0x0123456789ABCDEF0011#80) (fun _ t => bytes t 0x3004#32 [0x01#8, 0x23#8, 0x45#8, 0x67#8,
    0x00#8] && goes t 0x1004#32 0x1008#32 false) = true := by decide
/-- By hand: st.x x2,r3[r4], scaled by 16 (R607). -/
theorem test_stXrfX_by_hand : check 0xF0432A04#32 (withX (start 0x800003E0#32 [(3#5, 0x00003000#32), (4#5,
    0x00000001#32)]) 2#5 0x0123456789ABCDEF0011#80) (fun _ t => bytes t 0x3010#32 [0x01#8, 0x23#8, 0x45#8, 0x67#8,
    0x89#8, 0xAB#8, 0xCD#8, 0xEF#8, 0x00#8, 0x11#8, 0x00#8, 0x00#8, 0x00#8, 0x00#8, 0x00#8, 0x00#8] && goes t
    0x1004#32 0x1008#32 false) = true := by decide
/-- By hand: ld.hu r2,r3[r4], scaled by 2 (R601). -/
theorem test_ldHu_by_hand : check 0xF4430A04#32 (withBytes (start 0x800003E0#32 [(3#5, 0x00001FFE#32), (4#5,
    0x00000001#32)]) 0x2000#32 [0x80#8, 0x01#8, 0xFF#8, 0x7F#8, 0x11#8, 0x22#8, 0x33#8, 0x44#8, 0x55#8, 0x66#8]) (fun
    _ t => regs t [(2#5, 0x00008001#32)] && goes t 0x1004#32 0x1008#32 false) = true := by decide
/-- By hand: ld.b r2,r3,r4 (R601). -/
theorem test_ldB_by_hand : check 0xF4431C04#32 (withBytes (start 0x800003E0#32 [(3#5, 0x00002000#32), (4#5,
    0x00000002#32)]) 0x2000#32 [0x80#8, 0x01#8, 0xFF#8, 0x7F#8, 0x11#8, 0x22#8, 0x33#8, 0x44#8, 0x55#8, 0x66#8]) (fun
    _ t => regs t [(2#5, 0xFFFFFFFF#32)] && goes t 0x1004#32 0x1008#32 false) = true := by decide
/-- By hand: st.d r4,r3[r6], scaled by 8 (R610). -/
theorem test_stD_by_hand : check 0xF4832206#32 (start 0x800003E0#32 [(3#5, 0x00003000#32), (4#5, 0x01234567#32), (5#5,
    0x89ABCDEF#32), (6#5, 0x00000001#32)]) (fun _ t => bytes t 0x3008#32 [0x01#8, 0x23#8, 0x45#8, 0x67#8, 0x89#8,
    0xAB#8, 0xCD#8, 0xEF#8] && goes t 0x1004#32 0x1008#32 false) = true := by decide
/-- By hand: st.h r2,r3[r4], scaled by 2 (R610). -/
theorem test_stH_by_hand : check 0xF4432A04#32 (start 0x800003E0#32 [(2#5, 0x11223344#32), (3#5, 0x00003000#32), (4#5,
    0x00000001#32)]) (fun _ t => bytes t 0x3001#32 [0x00#8, 0x33#8, 0x44#8, 0x00#8] && goes t 0x1004#32 0x1008#32
    false) = true := by decide
/-- By hand: st.b r2,r3,r4 (R610). -/
theorem test_stB_by_hand : check 0xF4432C04#32 (start 0x800003E0#32 [(2#5, 0x11223344#32), (3#5, 0x00003000#32), (4#5,
    0x00000003#32)]) (fun _ t => bytes t 0x3002#32 [0x00#8, 0x44#8, 0x00#8] && goes t 0x1004#32 0x1008#32 false) =
    true := by decide
/-- By hand: clr r4,r5,r6 (R471). -/
theorem test_clrReg_by_hand : check 0xF4858006#32 (start 0x800003E0#32 [(5#5, 0xFFFFFFFF#32), (6#5, 0x000000B0#32)])
    (fun _ t => regs t [(4#5, 0xFFE0FFFF#32)] && goes t 0x1004#32 0x1008#32 false) = true := by decide
/-- By hand: ext r4,r5,r6 (R473). -/
theorem test_extReg_by_hand : check 0xF4859006#32 (start 0x800003E0#32 [(5#5, 0x0000F500#32), (6#5, 0x00000108#32)])
    (fun _ t => regs t [(4#5, 0xFFFFFFF5#32)] && goes t 0x1004#32 0x1008#32 false) = true := by decide
/-- By hand: illop2 (R688). -/
theorem test_illop2_by_hand : check 0xF400FC02#32 (start 0x800003E0#32 []) (fun _ t => entered t 0x28#32 0x1000#32
    0x800003E0#32 0x800003FB#32) = true := by decide

/-! ### The bus, prefetching and the target instruction cache -/

/-- fstcr r1,fcr62 with another second source field: the unimplemented opcode (30_encoding.md R364, R369). -/
theorem test_fstcr_unequal_sources : check 0x80018FC0#32 (start 0x800003E0#32 [])
    (fun _ t => entered t 0x28#32 0x1000#32 0x800003E0#32 0x800003FB#32) = true := by decide

/-- An fldcr word with a nonzero first source field is no instruction of SFU1 (R364). -/
theorem test_decode_reserved_fldcr : decodeWord 0x80014FC0#32 = .error (.reserved .base) := by decide

/-- A prefetched word runs as it was fetched, whatever memory holds by now (20_memory.md R197). -/
theorem test_prefetched_word_runs :
    (match step { start 0x800003E0#32 [(1#5, 7#32)] with prefetched := [⟨0x1000#32, 0xF4415801#32⟩] } with
      | .next t => regs t [(2#5, 7#32)] && goes t 0x1004#32 0x1008#32 false && t.prefetched == []
      | _ => false) = true := by decide

/-- A serializing instruction leaves no prefetched word (R197). -/
theorem test_serializing_drops_prefetched :
    (issue (.ldcr 2#5 0#6) { start 0x800003E0#32 [] with prefetched := [⟨0x1004#32, 0#32⟩] }).prefetched = [] := by decide

/-- A fetch that faults at the error vector with PSR.EFRZ 1 leaves the machine waiting for RST (60_exceptions.md R751). -/
theorem test_error_vector_fault_is_stuck :
    (match step { startAt 0x50#32 (start 0x800003E1#32 []) with
        env := { Env.default with regions := [⟨0, 0x1000, .any, .busError⟩] } } with
      | .next t => t.stuck && goes t 0x50#32 0x54#32 false
      | _ => false) = true := by decide

/-- A modified line at 0x2000 in a data cache that snoops. -/
def snooping : State :=
  let s := setDLine (start 0x800003E0#32 []) 0x2000#32 false ⟨0x00002#20, .exclusiveModified, Vector.replicate 32 0x5A#8⟩
  { s with dmu := { s.dmu with ctl := 0x00000045#32 } }

/-- Another master's global read of the line copies it back and shares it (80_bus_platform.md R892). -/
theorem test_snoop_copies_back :
    let t := otherMaster ⟨0x2008#32, true, true, false, true, [], none, none⟩ snooping
    (dLine t 0x2000#32 false).state = .sharedUnmodified ∧ readByte t 0x2008#32 = 0x5A#8
      ∧ readByte t 0x201F#32 = 0x5A#8 := by decide

/-- A snoop copyback that a retry ends after one beat is not done again, and the line stays modified (R896). -/
theorem test_retried_snoop_copyback :
    let t := otherMaster ⟨0x2008#32, true, true, false, true, [], some 1, none⟩ snooping
    (dLine t 0x2000#32 false).state = .exclusiveModified ∧ readByte t 0x2008#32 = 0x5A#8
      ∧ readByte t 0x2010#32 = 0#8 := by decide

/-- RST during a copyback leaves a line partly written (R908). -/
theorem test_reset_abandons_copyback :
    let e : BusEnd := { BusEnd.plain with cut := some ⟨2, true⟩ }
    let r := replaceCopyback { snooping with script := { Script.idle with ends := [e] } } 0x2000#32 false
    r.1 = false ∧ (r.2.halted.map Halt.reset) = some true ∧ readByte r.2 0x200F#32 = 0x5A#8 ∧ readByte r.2 0x2010#32 = 0#8 := by decide

/-- SHD is the level of the fill it comes with (R894). -/
theorem test_shd_of_each_fill :
    let e : BusEnd := { BusEnd.plain with shd := true }
    let s := { start 0x800003E0#32 [] with script := { Script.idle with ends := [e] } }
    let r := burstRead s (plainTxn 0x3000#32 (tcData true))
    r.1.shd = true ∧ (burstRead r.2 (plainTxn 0x3020#32 (tcData true))).1.shd = false := by decide

/-- A new TIC entry takes the first invalid place behind the pointer, or the oldest entry's (46_flow_control.md R690). -/
theorem test_tic_slot :
    let full := Vector.replicate 32 (⟨true, 0#31, 0#32, 0#32⟩ : TicEntry)
    let s := { start 0x800003E0#32 [] with ticFifo := 5 }
    ticSlot s = 5 ∧ ticSlot { s with tic := full } = 5
      ∧ ticSlot { s with tic := full.set 3 ⟨false, 0#31, 0#32, 0#32⟩ } = 3 := by decide

/-- TEA and a retry of the same beat are an error (R878, R910). -/
theorem test_error_outranks_retry :
    let s := { start 0x800003E0#32 [] with
      env := { Env.default with regions := [⟨0x3008, 8, .any, .busError⟩] }
      script := { Script.idle with ends := [{ BusEnd.plain with retry := some 1 }] } }
    let r := burstRead s (plainTxn 0x3000#32 (tcData true))
    r.1.good = 1 ∧ (r.2.busLog.map BusTxn.error) = [true] := by decide

/-- RST while the next word is prefetched: the store at XIP does not reach memory (R908). -/
theorem test_reset_during_prefetch :
    (match step { (start 0x800003E0#32 [(2#5, 0x77#32), (3#5, 0x2000#32)]).withFetchWord 32 0x24430000 with
        script := { Script.idle with ahead := [1], ends := [BusEnd.plain, { BusEnd.plain with cut := some ⟨0, true⟩ }] } } with
      | .next t => t.psr == 0xA20003FF#32 && goes t 0#32 4#32 false && readByte t 0x2003#32 == 0#8 && t.halted == none
      | _ => false) = true := by decide

/-- A fetch that nothing ends: the machine waits, its registers as they were (R910, 93_implementation_defined.md P33). -/
theorem test_transaction_never_ends :
    (match step { start 0x800003E0#32 [(2#5, 0x77#32)] with
        script := { Script.idle with ends := [{ BusEnd.plain with cut := some ⟨0, false⟩ }] } } with
      | .next t => t.stuck && goes t 0x1000#32 0x1004#32 false && regs t [(2#5, 0x77#32)]
      | _ => false) = true := by decide

/-- A global burst write snooped while its line is flushed: the line stays invalid (22_caches.md R316, R317). -/
theorem test_snoop_during_flush :
    let e : BusEnd := { BusEnd.plain with during := [⟨0x2000#32, true, false, true, true, [], none, none⟩] }
    let r := flushAll false { snooping with script := { Script.idle with ends := [e] } }
    (match r with | .ok _ t => (dLine t 0x2000#32 false).state == .invalid | .fail _ _ => false) = true := by decide

/-- A snoop copyback interrupts a descriptor fetch, which is made again (80_bus_platform.md R888). -/
theorem test_descriptor_is_read_again :
    let e : BusEnd := { BusEnd.plain with during := [⟨0x2008#32, true, true, false, true, [], none, none⟩] }
    (readDescriptor .data 0#2 0x2008#32 { snooping with script := { Script.idle with ends := [e] } }).1
      = some 0x5A5A5A5A#32 := by decide

/-- Another master reads the line between the halves of a quad word: memory then has the first half only (20_memory.md
R186). -/
theorem test_quad_store_is_two_accesses :
    let s := { snooping with
      script := { Script.idle with between := [[], [⟨0x2000#32, true, true, false, true, [], none, none⟩]] } }
    (match writeOperand (identity s.dmu true 0x2000#32) true false 16 (List.replicate 16 0x11#8) s with
      | .ok _ t => bytes t 0x2007#32 [0x11#8, 0x5A#8] && lineBytes (dLine t 0x2000#32 false).data 8 1 == [0x11#8]
      | .fail _ _ => false) = true := by decide

/-- A serializing instruction in the delay slot: the branch fills no TIC entry (46_flow_control.md R690). -/
theorem test_serializing_slot_fills_nothing :
    (issue (.ldcr 2#5 0#6) { start 0x800003E0#32 [] with ticFill := some ⟨0#31, 0#32, false⟩ }).ticFill = none := by decide

/-- The words that the TIC holds of a wrongly predicted path are not fetched (R668). -/
theorem test_wrong_path_from_the_tic :
    let s := { start 0x800003E0#32 [] with
      imu := { Mmu.reset with ctl := 0x00004004#32 }
      tic := (Vector.replicate 32 ⟨false, 0#31, 0#32, 0#32⟩).set 7 ⟨true, 0x40000400#31, 1#32, 2#32⟩
      script := { Script.idle with guesses := [[⟨false, 0#32⟩, ⟨false, 0#32⟩]] } }
    (wrongPath true false false 0x3000#32 s).busLog = []
      ∧ (wrongPath true false false 0x3000#32 { s with xip := 0x1004#32 }).busLog.length = 2 := by decide

/-- An unconditional branch on a wrongly predicted path is followed: br 4 words on at 0x3000, then the word there (R668,
R808). -/
theorem test_wrong_path_follows_a_branch :
    let s := { withBytes (start 0x800003E0#32 []) 0x3000#32 [0xC0#8, 0#8, 0#8, 4#8] with
      imu := { Mmu.reset with ctl := 0x00004000#32 }
      script := { Script.idle with guesses := [[⟨false, 0#32⟩, ⟨false, 0#32⟩]] } }
    (wrongPath true false false 0x3000#32 s).busLog.map BusTxn.addr = [0x3010#32, 0x3000#32] := by decide

/-- DCTL.FWT makes a store write-through and does not assert WT; the store-through option does (12_cache_mmu_state.md R95,
80_bus_platform.md R889). -/
theorem test_forced_write_through_pin :
    let s := { start 0x800003E0#32 [] with dmu := { Mmu.reset with ctl := 0x00002001#32 } }
    let x := identity s.dmu true 0x2000#32
    let pin := fun wt => match dataWrite false (dataReq x true 1 wt) [7#8] s with
      | .ok _ t => (t.busLog.map BusTxn.wt, readByte t 0x2000#32)
      | .fail _ _ => ([], 0#8)
    pin false = ([false], 7#8) ∧ pin true = ([true], 7#8) := by decide

/-- An addition that overflows, with a word load behind it: the load has read the bus and no register has its value; the
log is that load's read above the fetch. With PSR.SRM 1, and behind a trap, nothing has read (60_exceptions.md R713,
20_memory.md R192, R194). -/
theorem test_load_behind_an_exception_has_read :
    let run := fun (psr w : Word) =>
      let s := { start psr [(2#5, 0x7FFFFFFF#32), (3#5, 1#32)] with
        script := { Script.idle with waived := [[⟨.operand 2, 0x2000#32, false⟩]] } }
      match step (s.withFetchWord 32 w.toNat) with
      | .next t => (t.xip, readReg t 4#5, t.busLog.map BusTxn.addr)
      | _ => (0#32, 0#32, [])
    run 0x800003E0#32 0xF4827003#32 = (0x48#32, 0#32, [0x2000#32, 0x1000#32])
      ∧ run 0x820003E0#32 0xF4827003#32 = (0x48#32, 0#32, [0x1000#32])
      ∧ run 0x800003E0#32 0xF000D080#32 = (0x400#32, 0#32, [0x1000#32]) := by decide

/-- fcvt.sd of the double just below 2^-126 and of one just above the largest single number: the range is tested on the
rounded result, which is in it (43_floating_point.md R499, by hand). -/
theorem test_range_is_tested_after_rounding :
    let run := fun hi lo : Word => match exec (.fcvt 4#5 false .double .single 2#5) (start 0x800003E0#32 [(2#5, hi), (3#5, lo)]) with
      | .next t => (readReg t 4#5, t.fpsr, t.lastExc)
      | _ => (0#32, 0#32, none)
    run 0x380FFFFF#32 0xFFFFFFFF#32 = (0x00800000#32, 1#32, none)
      ∧ run 0x47EFFFFF#32 0xE8000000#32 = (0x7F7FFFFF#32, 1#32, none) := by decide

/-- A branch predicted not taken that was the first of two words from the TIC: the second is not fetched, the word behind
it is (46_flow_control.md R668). -/
theorem test_wrong_path_behind_a_tic_word :
    let s := { start 0x800003E0#32 [] with
      imu := { Mmu.reset with ctl := 0x00004004#32 }
      ticSupply := [some 0xF4005800#32]
      script := { Script.idle with guesses := [[⟨false, 0#32⟩, ⟨false, 0#32⟩]] } }
    (wrongPath false true false 0x3000#32 s).busLog.map BusTxn.addr = [0x1008#32]
      ∧ (wrongPath false true true 0x3000#32 s).busLog.map BusTxn.addr = [0x100C#32, 0x1008#32] := by decide

/-! ### The statements' hypotheses can be met

For each statement with hypotheses a state and operands that meet them, one for each clause, at the ends of a clause's
range where it has one. -/

/-- Supervisor mode with some general registers. -/
def sup (rs : List (RegNum × Word)) : State := start 0x800003E0#32 rs

/-- User mode with some general registers. -/
def user (rs : List (RegNum × Word)) : State := start 0x000003E0#32 rs

theorem witness_EncodeUndoesDecode : decodeWord 0xF400FC00#32 = .ok .rte := by decide

/-- The first and the last major opcode of each clause, and the SFU field of major opcode 32, for SFU 1 with both kinds of
operation field. -/
theorem witness_ReservedWordsRaiseTheExceptionOfTheirSpace :
    decodeWord 0xA0000000#32 = .error (.reserved .base) ∧ decodeWord 0x84001000#32 = .error (.reserved .sfu1)
      ∧ decodeWord 0x80000800#32 = .error (.reserved .sfu1) ∧ decodeWord 0x88000800#32 = .error (.reserved .sfu2)
      ∧ decodeWord 0x9C000000#32 = .error (.reserved .sfu7) ∧ decodeWord 0x80003800#32 = .error (.reserved .sfu7)
      ∧ decodeWord 0x80000000#32 = .error (.reserved .base) ∧ decodeWord 0x80014800#32 = .error (.reserved .base) := by decide

/-- The word of rte in memory at XIP. -/
def atRte : State := (sup []).withFetchWord 32 0xF400FC00

theorem witness_StepRunsTheInstructionAtXip_by_fetch :
    (boundary atRte).1 = false ∧ (boundary atRte).2.stuck = false ∧ pendingInterrupt (boundary atRte).2 = none
      ∧ (∃ s', fetch (boundary atRte).2 = .ok 0xF400FC00#32 s' ∧ s'.script.ahead = [] ∧ (lookAhead s').halted = none)
      ∧ decodeWord 0xF400FC00#32 = .ok .rte :=
  ⟨by decide, by decide, by decide, ⟨_, rfl, by decide, by decide⟩, by decide⟩

/-- As before, and RST while the next word is prefetched. -/
theorem witness_StepRunsTheInstructionAtXip_cut_short :
    let s := { atRte with
      script := { Script.idle with ahead := [1], ends := [BusEnd.plain, { BusEnd.plain with cut := some ⟨0, true⟩ }] } }
    (boundary s).1 = false ∧ (boundary s).2.stuck = false ∧ pendingInterrupt (boundary s).2 = none
      ∧ (∃ s', fetch (boundary s).2 = .ok 0xF400FC00#32 s' ∧ (lookAhead s').halted ≠ none) :=
  ⟨by decide, by decide, by decide, ⟨_, rfl, by decide⟩⟩

theorem witness_StepRunsTheInstructionAtXip_from_memory :
    atRte.inputs = [] ∧ atRte.halted = none ∧ atRte.snoopFault = none ∧ atRte.stuck = false
      ∧ pendingInterrupt atRte = none ∧ atRte.ticSupply = [] ∧ atRte.ticFill = none ∧ atRte.prefetched = []
      ∧ atRte.modeWindow = 0 ∧ atRte.script = Script.idle ∧ ctlMen atRte.imu.ctl = false
      ∧ ctlCen atRte.imu.ctl = false ∧ plainAt atRte atRte.xip = true ∧ atRte.xip &&& 3#32 = 0#32
      ∧ decode [readByte atRte atRte.xip, readByte atRte (atRte.xip + 1#32), readByte atRte (atRte.xip + 2#32),
          readByte atRte (atRte.xip + 3#32)] = .ok (.rte, []) := by decide

/-- XIP at the error vector with PSR.EFRZ 1, or elsewhere, and a bus error there; then the machine is stuck. -/
theorem witness_StepRunsTheInstructionAtXip_faults :
    let board : Env := { Env.default with regions := [⟨0, 0x1000, .any, .busError⟩] }
    let s := { start 0x800003E1#32 [] with xip := 0x50#32, nip := 0x54#32, env := board }
    let u := { sup [] with xip := 0x10#32, nip := 0x14#32, env := board }
    (∃ s', fetch (boundary s).2 = .trap .instrAccess s' ∧ psrEfrz s' = true
        ∧ s'.xip = s'.vbr.extractLsb' 12 20 ++ 10#9 ++ 0#3)
      ∧ (∃ u', fetch (boundary u).2 = .trap .instrAccess u' ∧ psrEfrz u' = false)
      ∧ ({ s with stuck := true } : State).inputs = [] :=
  ⟨⟨_, rfl, by decide, by decide⟩, ⟨_, rfl, by decide⟩, by decide⟩

/-- The largest and the smallest result, and the first beyond each. -/
theorem witness_SignedAddAndSubtract :
    let s := sup [(1#5, 0x7FFFFFFF#32), (2#5, 0x80000000#32), (3#5, 1#32)]
    (readReg s 1#5).toInt + (readReg s 0#5).toInt = 2147483647
      ∧ (readReg s 1#5).toInt + (readReg s 3#5).toInt = 2147483648
      ∧ (readReg s 2#5).toInt - (readReg s 0#5).toInt = -2147483648
      ∧ (readReg s 2#5).toInt - (readReg s 3#5).toInt = -2147483649
      ∧ (readReg s 1#5).toInt + ((1#16 : BitVec 16).toNat : Int) = 2147483648
      ∧ (readReg s 2#5).toInt - ((1#16 : BitVec 16).toNat : Int) = -2147483649 := by decide

/-- An even and an odd pair; the most negative product, and the first too large. -/
theorem witness_IntegerMultiply :
    let s := sup [(1#5, 0x80000000#32), (2#5, 0xFFFFFFFF#32)]
    (30#5 : RegNum).toNat % 2 = 0 ∧ (31#5 : RegNum).toNat % 2 ≠ 0
      ∧ (readReg s 1#5).toInt * (readReg s 0#5).toInt = 0
      ∧ (readReg s 1#5).toInt * (readReg s 2#5).toInt = 2147483648 := by decide

/-- A zero divisor, the one quotient that overflows, the immediate -1 with PSR.SGN 1, and a divisor of 1. -/
theorem witness_IntegerDivide :
    let s := start 0x840003E0#32 [(1#5, 0x80000000#32), (2#5, 0xFFFFFFFF#32), (3#5, 1#32)]
    (readReg s 0#5).toNat = 0 ∧ (readReg s 3#5).toNat = 1 ∧ (readReg s 1#5).toInt = -2147483648
      ∧ (readReg s 2#5).toInt = -1 ∧ psrSgn s = true ∧ (0xFFFF#16 : BitVec 16).toInt = -1
      ∧ (4#5 : RegNum).toNat % 2 ≠ 1 ∧ (5#5 : RegNum).toNat % 2 = 1 := by decide

theorem witness_UnconditionalBranches : (sup []).ds = false := by decide

/-- The four classes of a word, and a clear and a set bit. -/
theorem witness_ConditionalBranches :
    let s := sup [(1#5, 0x80000000#32), (2#5, 0xFFFFFFFF#32), (3#5, 1#32)]
    s.ds = false ∧ (readReg s 1#5).toInt = -2147483648 ∧ (readReg s 2#5).toInt < 0 ∧ (readReg s 0#5).toInt = 0
      ∧ 0 < (readReg s 3#5).toInt ∧ (readReg s 1#5).getLsbD 31 = true ∧ (readReg s 1#5).getLsbD 30 = false := by decide

/-- The last privileged vector and the first free one, in both modes; a bound that is reached, and one exceeded. -/
theorem witness_TrapInstructions :
    (user []).ds = false ∧ psrMode (user []) = false ∧ (127#9 : BitVec 9).toNat < 128
      ∧ ¬ (128#9 : BitVec 9).toNat < 128 ∧ (sup []).ds = false ∧ psrMode (sup []) = true
      ∧ ¬ (5#16 : BitVec 16).toNat < (readReg (sup [(1#5, 5#32)]) 1#5).toNat
      ∧ (5#16 : BitVec 16).toNat < (readReg (sup [(1#5, 6#32)]) 1#5).toNat := by decide

theorem witness_ReturnFromException :
    (sup []).ds = false ∧ psrMode (sup []) = true ∧ (user []).ds = false ∧ psrMode (user []) = false := by decide

theorem witness_ConditionalBranches_guessed :
    let s := { sup [] with imu := { Mmu.reset with ctl := 0x00004040#32 } }
    ctlPren s.imu.ctl = true ∧ s.script.guesses = [] ∧ ctlPren (sup []).imu.ctl = false := by decide

/-- The first and the last register of the clause, and the two without storage. -/
theorem witness_ControlRegisterRead :
    psrMode (sup []) = true ∧ controlWord (sup []) (0#6 : BitVec 6).toNat = some 0x00000101#32
      ∧ controlWord (sup []) (51#6 : BitVec 6).toNat = some 0#32 ∧ (14#6 : BitVec 6).toNat = 14
      ∧ (15#6 : BitVec 6).toNat = 15 := by decide

/-- PSR, the last register, a status register with PSR.EFRZ 0, and those that ignore a store. -/
theorem witness_ControlRegisterWriteAndExchange :
    psrMode (sup []) = true ∧ controlWord (sup []) (1#6 : BitVec 6).toNat = some 0x800003E0#32
      ∧ writableBits (sup []) (1#6 : BitVec 6).toNat = some (0xF600001F#32, 0x000003E0#32)
      ∧ controlWord (sup []) (51#6 : BitVec 6).toNat = some 0#32
      ∧ writableBits (sup []) (51#6 : BitVec 6).toNat = some (0xFFFFFFFF#32, 0#32)
      ∧ controlWord (sup []) (34#6 : BitVec 6).toNat = some 0#32
      ∧ writableBits (sup []) (34#6 : BitVec 6).toNat = some (0x003C0C81#32, 0#32)
      ∧ (0#6 : BitVec 6).toNat = 0 ∧ (14#6 : BitVec 6).toNat = 14 ∧ (15#6 : BitVec 6).toNat = 15 := by decide

/-- Every end of the ranges of the unimplemented numbers. -/
theorem witness_ControlRegisterTraps :
    psrMode (user []) = false ∧ psrMode (sup []) = true
      ∧ (∀ n ∈ [3#6, 6#6, 8#6, 13#6, 21#6, 24#6, 37#6, 39#6, 52#6, 63#6],
        (n : BitVec 6).toNat ∈ [3, 6] ∨ (8 ≤ n.toNat ∧ n.toNat ≤ 13) ∨ (21 ≤ n.toNat ∧ n.toNat ≤ 24)
          ∨ (37 ≤ n.toNat ∧ n.toNat ≤ 39) ∨ 52 ≤ n.toNat)
      ∧ (1#5 : RegNum) ≠ 2#5 := by decide

theorem witness_FpControlRegisterAccess :
    psrSfd1 (sup []) = false ∧ (0#6 : BitVec 6).toNat = 0 ∧ psrMode (sup []) = true ∧ psrSfd1 (user []) = false
      ∧ (62#6 : BitVec 6).toNat = 62 ∧ (63#6 : BitVec 6).toNat = 63 := by decide

theorem witness_FpControlRegisterTraps :
    psrSfd1 (start 0x000003E8#32 []) = true ∧ psrSfd1 (user []) = false ∧ psrMode (user []) = false
      ∧ psrSfd1 (sup []) = false ∧ psrMode (sup []) = true ∧ 1 ≤ (1#6 : BitVec 6).toNat
      ∧ (61#6 : BitVec 6).toNat ≤ 61 := by decide

/-- Index registers that name the last block, the last page, the two breakpoints and the first entry that does not
exist, on both sides. -/
theorem witness_TranslationCachePorts :
    let indexed := fun v : Word => { sup [] with dmu := { Mmu.reset with ir := v }, imu := { Mmu.reset with ir := v } }
    let page := fun (side : Side) (v : Word) => ((mmuOf side (indexed v)).ir.extractLsb' 12 6).toNat
    psrMode (indexed 0x0000#32) = true ∧ ((mmuOf .instr (indexed 0x0700#32)).ir.extractLsb' 8 3).toNat = 7
      ∧ page .instr 0x1F000#32 = 31 ∧ page .data 0x1F000#32 = 31 ∧ page .data 0x20000#32 = 32
      ∧ page .data 0x21000#32 = 33 ∧ 32 ≤ page .instr 0x20000#32 ∧ 34 ≤ page .data 0x22000#32 := by decide

/-- The four commands' words, and the smallest and the largest size mask. -/
theorem witness_TranslationCacheCommands :
    let s := sup [(1#5, 8#32), (2#5, 9#32), (3#5, 10#32), (4#5, 11#32)]
    psrMode s = true ∧ readReg s 1#5 = 8#32 ∧ readReg s 2#5 = 9#32 ∧ readReg s 3#5 = 10#32 ∧ readReg s 4#5 = 11#32
      ∧ (ctlMask s.imu.ctl).toNat = 2 ^ 0 - 1 ∧ (ctlMask 0x007F0000#32).toNat = 2 ^ 7 - 1 := by decide

theorem witness_CacheInvalidateCommands :
    let s := sup [(1#5, 1#32), (2#5, 2#32), (5#5, 5#32)]
    let u := setILine s 0x2FE0#32 true ⟨0x00002#20, true, Vector.replicate 32 0#8⟩
    let v := setDLine s 0x2FE0#32 false ⟨0x00002#20, .exclusiveModified, Vector.replicate 32 0#8⟩
    psrMode s = true ∧ readReg s 1#5 = 1#32 ∧ readReg s 2#5 = 2#32 ∧ readReg s 5#5 = 5#32
      ∧ iHit s s.imu.sar = none ∧ dHit s s.dmu.sar = none ∧ iHit u 0x2FFF#32 = some true
      ∧ dHit v 0x2FFF#32 = some false := by decide

/-- One modified line, the last of the cache, taken by every flush command. -/
theorem witness_CacheFlushCommands :
    let t := sup [(2#5, 2#32), (3#5, 3#32), (4#5, 4#32), (6#5, 6#32), (7#5, 7#32)]
    let u := setDLine t 0x2FE0#32 true ⟨0x00002#20, .exclusiveModified, Vector.replicate 32 0x5A#8⟩
    let s := { u with dmu := { Mmu.reset with sar := 0x00002FE0#32 } }
    psrMode s = true ∧ s.script = Script.idle ∧ s.env.regions = [] ∧ Memory.wf s.mem = true
      ∧ readReg s 0#5 = 0#32 ∧ readReg s 2#5 = 2#32 ∧ readReg s 3#5 = 3#32 ∧ readReg s 4#5 = 4#32
      ∧ readReg s 6#5 = 6#32 ∧ readReg s 7#5 = 7#32 ∧ s.dcache[255].state = .exclusiveModified
      ∧ s.dcache[255].tag = s.dmu.sar.extractLsb' 12 20 ∧ 255 / 2 = (s.dmu.sar.extractLsb' 5 7).toNat
      ∧ s.dcache[254].state = .invalid := by decide

/-! #### Floating point -/

/-- Single-precision numbers: 1.0, 2.0, the smallest and the largest normalized number, one half, infinity, and a NaN.
-/
def floats : State :=
  sup [(1#5, 0x3F800000#32), (2#5, 0x40000000#32), (3#5, 0x00800000#32), (4#5, 0x7F7FFFFF#32), (5#5, 0x3F000000#32),
    (6#5, 0x7F800000#32), (7#5, 0x7FC00000#32), (8#5, 0x7F000000#32), (9#5, 0xCF000000#32), (10#5, 0x4F000000#32)]

theorem floats_one : fpSource floats false .single 1#5 = .num false 8388608 (-23) := by decide
theorem floats_two : fpSource floats false .single 2#5 = .num false 8388608 (-22) := by decide
theorem floats_least : fpSource floats false .single 3#5 = .num false 8388608 (-149) := by decide
theorem floats_greatest : fpSource floats false .single 4#5 = .num false 16777215 104 := by decide
theorem floats_half : fpSource floats false .single 5#5 = .num false 8388608 (-24) := by decide
theorem floats_zero : fpSource floats false .single 0#5 = .zero false := by decide
theorem floats_large : fpSource floats false .single 8#5 = .num false 8388608 104 := by decide
theorem floats_int_min : fpSource floats false .single 9#5 = .num true 8388608 8 := by decide
theorem floats_int_over : fpSource floats false .single 10#5 = .num false 8388608 8 := by decide

/-- The unit is enabled and every single register is usable. -/
theorem floats_usable :
    psrSfd1 floats = false ∧ InexactAllowed floats = true ∧ (∀ r : RegNum, fpUsable false .single r = true) := by decide

theorem floats_finite :
    (fpSource floats false .single 3#5).isFinite = true ∧ (fpSource floats false .single 4#5).isFinite = true
      ∧ (fpSource floats false .single 0#5).isFinite = true := by decide

/-- The largest number of the range and the smallest, each as a sum with zero; a sum of zero; an infinity. -/
theorem witness_FloatingAddAndSubtractRoundCorrectly :
    InRange .single (fpRat (fpSource floats false .single 4#5) + fpRat (fpSource floats false .single 0#5))
      ∧ InRange .single (fpRat (fpSource floats false .single 3#5) + fpRat (fpSource floats false .single 0#5))
      ∧ fpRat (fpSource floats false .single 3#5) + fpRat (fpSource floats false .single 3#5).negate = 0
      ∧ fpSource floats false .single 6#5 = .inf false := by
  refine ⟨?_, ?_, ?_, by decide⟩ <;> simp only [floats_greatest, floats_least, floats_zero] <;>
    norm_num [InRange, fpRat, fpBias, fpPrec, FpVal.negate]

/-- A product of two numbers with odd significands in the range, inexact, where the exception is asked for. -/
theorem witness_Rounds_traps :
    let s : State := { floats with fpcr := 0x00000001#32 }
    InexactAllowed s = false ∧ InRange .single (1 + (2 : ℚ) ^ (-24 : Int)) ∧ ¬ IsNormal .single (1 + (2 : ℚ) ^ (-24 : Int)) := by
  refine ⟨by decide, by norm_num [InRange, fpBias, fpPrec], ?_⟩
  rintro ⟨neg, m, e, h1, h2, -, -, h5⟩
  norm_num [fpPrec] at h1 h2
  cases neg
  · rcases lt_or_ge e (-23) with he | he
    · have : (m : ℚ) * 2 ^ e < 1 := by
        have h3 : (2 : ℚ) ^ e ≤ 2 ^ (-24 : Int) := zpow_le_zpow_right₀ (by norm_num) (by omega)
        have h4 : (m : ℚ) < 16777216 := by exact_mod_cast h2
        calc (m : ℚ) * 2 ^ e ≤ m * 2 ^ (-24 : Int) := by gcongr
          _ < 16777216 * 2 ^ (-24 : Int) := by gcongr
          _ = 1 := by norm_num
      norm_num at h5
      linarith
    · obtain ⟨k, rfl⟩ : ∃ k : ℕ, e = -23 + k := ⟨(e + 23).toNat, by omega⟩
      rw [zpow_add₀ (by norm_num), zpow_natCast] at h5
      norm_num at h5
      have h6 : (16777217 : ℚ) = 2 * (m * 2 ^ k : ℕ) := by push_cast; linarith
      have h7 : (16777217 : ℕ) = 2 * (m * 2 ^ k) := by exact_mod_cast h6
      omega
  · have : (0 : ℚ) ≤ (m : ℚ) * 2 ^ e := by positivity
    norm_num at h5
    linarith

theorem witness_FloatingMultiplyAndDivideRoundCorrectly :
    (fpSource floats false .single 3#5).isNum = true ∧ (fpSource floats false .single 4#5).isNum = true
      ∧ (fpSource floats false .single 1#5).isNum = true ∧ (fpSource floats false .single 0#5).isZero = true
      ∧ (fpSource floats false .single 6#5).isInf = true
      ∧ fpcrTcfp ({ floats with fpcr := 0x00200000#32 } : State).fpcr = true
      ∧ InRange .single (fpRat (fpSource floats false .single 4#5) * fpRat (fpSource floats false .single 1#5))
      ∧ InRange .single (fpRat (fpSource floats false .single 3#5) / fpRat (fpSource floats false .single 1#5)) := by
  refine ⟨by decide, by decide, by decide, by decide, by decide, by decide, ?_⟩
  rw [floats_greatest, floats_least, floats_one]
  constructor <;> norm_num [InRange, fpRat, fpBias, fpPrec]

theorem witness_FloatingConversionsRoundCorrectly :
    (fpSource floats false .single 4#5).isNum = true ∧ (fpSource floats false .single 0#5).isZero = true
      ∧ (fpSource floats false .single 6#5).isInf = true ∧ InRange .single (fpRat (fpSource floats false .single 4#5))
      ∧ (readReg floats 1#5).toInt ≠ 0 ∧ (readReg floats 0#5).toInt = 0 := by
  refine ⟨by decide, by decide, by decide, ?_, by decide, by decide⟩
  rw [floats_greatest]
  norm_num [InRange, fpRat, fpBias, fpPrec]

/-- The most negative integer fits, the number above the largest does not; 0.5 rounds to 0 to nearest and toward
zero. -/
theorem witness_FloatingToIntegerConversions :
    (fpSource floats false .single 9#5).isFinite = true ∧ (fpSource floats false .single 6#5).isInf = true
      ∧ InexactAllowed ({ floats with fpcr := 0x00000001#32 } : State) = false
      ∧ RoundsToInt 1#2 (fpRat (fpSource floats false .single 9#5)) (-2147483648)
      ∧ RoundsToInt 0#2 (fpRat (fpSource floats false .single 10#5)) 2147483648
      ∧ RoundsToInt (fpcrRm floats.fpcr) (fpRat (fpSource floats false .single 5#5)) 0
      ∧ fpcrTcfp floats.fpcr = false := by
  have rm : fpcrRm floats.fpcr = 0#2 := by decide
  rw [floats_int_min, floats_int_over, floats_half, rm]
  refine ⟨by decide, by decide, by decide, ⟨?_, ?_, ?_, ?_⟩, ⟨?_, ?_, ?_, ?_⟩, ⟨?_, ?_, ?_, ?_⟩, by decide⟩ <;>
    (norm_num [fpRat]; try decide)

theorem witness_FloatingCompare :
    psrSfd1 floats = false ∧ fpUsable false .single 3#5 = true ∧ fpUsable false .single 6#5 = true
      ∧ (fpSource floats false .single 3#5).reserved = false ∧ (fpSource floats false .single 6#5).reserved = false := by
  decide

theorem witness_ExtendedRegisterMoves : psrSfd1 (sup []) = false ∧ (2#5 : RegNum).toNat % 2 = 0 := by decide

/-- The unit disabled, an odd register for a double, and .ext in the general file; mov.d with an odd register. -/
theorem witness_FloatingUnimplementedCases :
    psrSfd1 (start 0x800003E8#32 []) = true ∧ (1#5 : RegNum).toNat % 2 = 1 := by decide

/-- A NaN, a denormalized number, infinities of equal and of different signs, zeros, and a number; FPCR.TCFP 0 and 1. -/
theorem witness_ReservedOperandsAndInvalidOperations :
    let s := sup [(1#5, 0x7FC00000#32), (2#5, 0x7F800000#32), (3#5, 0xFF800000#32), (4#5, 0x3F800000#32),
      (5#5, 0x80000001#32)]
    psrSfd1 s = false ∧ fpcrTcfp s.fpcr = false ∧ fpcrTcfp 0x00200000#32 = true
      ∧ (∀ r : RegNum, fpUsable false .single r = true)
      ∧ (fpSource s false .single 1#5).reserved = true ∧ fpSource s false .single 1#5 = .nan false
      ∧ fpSource s false .single 5#5 = .denorm true ∧ fpSource s false .single 2#5 = .inf false
      ∧ fpSource s false .single 3#5 = .inf true ∧ (fpSource s false .single 2#5).isInf = true
      ∧ (fpSource s false .single 0#5).isZero = true ∧ (fpSource s false .single 4#5).isNum = true := by decide

/-- A number with the precision of a format rounds to itself. -/
theorem roundsUnbounded_exact {td : FpSize} {v : ℚ} (rm : BitVec 2) (h : HasPrecision td v) (hv : v ≠ 0) :
    RoundsUnbounded rm td v v where
  precise := h
  nearest _ y _ := by simp
  even _ y _ _ _ _ hy he _ := by
    rw [sub_self, abs_zero, abs_eq_zero, sub_eq_zero] at he
    exact absurd he hy
  towardZero _ := ⟨le_refl _, mul_self_pos.mpr hv, fun _ _ h => h⟩
  down _ := ⟨le_refl _, fun _ _ h => h⟩
  up _ := ⟨le_refl _, fun _ _ h => h⟩

/-- Above the largest single number, 2^128 - 2^75 rounds toward zero to that number: in range although v is not. -/
theorem roundsUnbounded_above_largest :
    let v : ℚ := 2 ^ 128 - 2 ^ 75
    let r : ℚ := (2 ^ 24 - 1) * 2 ^ 104
    RoundsUnbounded 1#2 .single v r ∧ ¬ InRange .single v
      ∧ (2 : ℚ) ^ (1 - (fpBias .single : Int)) ≤ |r|
      ∧ |r| ≤ (2 ^ fpPrec .single - 1) * (2 : ℚ) ^ ((fpBias .single : Int) - (fpPrec .single : Int) + 1) := by
  refine ⟨⟨⟨false, 2 ^ 24 - 1, 104, ?_⟩, (absurd · (by decide)), (absurd · (by decide)),
    fun _ => ⟨by norm_num, by norm_num, ?_⟩, (absurd · (by decide)), (absurd · (by decide))⟩, by norm_num [InRange, fpBias, fpPrec],
    by norm_num [fpBias], by norm_num [fpBias, fpPrec]⟩
  · norm_num [HasPrecisionAs, fpPrec]
  · rintro y ⟨neg, m, e, h1, h2, rfl⟩ h
    norm_num [fpPrec] at h1 h2
    have hm : |(if neg = true then (-1 : ℚ) else 1) * (m : ℚ) * 2 ^ e| = (m : ℚ) * 2 ^ e := by
      cases neg <;> simp [abs_mul, abs_of_nonneg, abs_zpow]
    rw [hm] at h ⊢
    rw [abs_of_nonneg (by norm_num)] at h ⊢
    rcases le_or_gt e 104 with he | he
    · have h3 : (2 : ℚ) ^ e ≤ 2 ^ (104 : Int) := zpow_le_zpow_right₀ (by norm_num) he
      have h4 : (m : ℚ) ≤ 2 ^ 24 - 1 := by
        have : (m : ℚ) ≤ (16777215 : ℕ) := by exact_mod_cast (by omega : m ≤ 16777215)
        norm_num at this ⊢
        exact this
      calc (m : ℚ) * 2 ^ e ≤ (2 ^ 24 - 1) * 2 ^ (104 : Int) := by gcongr
        _ = (2 ^ 24 - 1) * 2 ^ 104 := by norm_num
    · have h3 : (2 : ℚ) ^ (105 : Int) ≤ 2 ^ e := zpow_le_zpow_right₀ (by norm_num) (by omega)
      have h4 : (8388608 : ℚ) ≤ m := by exact_mod_cast h1
      have h5 : (8388608 : ℚ) * 2 ^ (105 : Int) ≤ (m : ℚ) * 2 ^ e := by gcongr
      norm_num at h5 h
      linarith

/-- Exactly 2^128 and exactly 2^-127, a product that overflows and one that underflows in every rounding mode; the sum of
the greatest number and itself, and a sum of a number and zero. -/
theorem witness_FloatingOverflowAndUnderflow :
    (fpSource floats false .single 8#5).isNum = true ∧ (fpSource floats false .single 2#5).isNum = true
      ∧ (fpSource floats false .single 3#5).isNum = true ∧ (fpSource floats false .single 5#5).isNum = true
      ∧ (fpSource floats false .single 0#5).isFinite = true
      ∧ (∀ rm, ∃ r, RoundsUnbounded rm .single
            (fpRat (fpSource floats false .single 8#5) * fpRat (fpSource floats false .single 2#5)) r
          ∧ (2 ^ fpPrec .single - 1) * (2 : ℚ) ^ ((fpBias .single : Int) - (fpPrec .single : Int) + 1) < |r|)
      ∧ ∀ rm, ∃ r, RoundsUnbounded rm .single
            (fpRat (fpSource floats false .single 3#5) * fpRat (fpSource floats false .single 5#5)) r
          ∧ |r| < (2 : ℚ) ^ (1 - (fpBias .single : Int)) := by
  refine ⟨by decide, by decide, by decide, by decide, by decide, ?_⟩
  rw [floats_large, floats_two, floats_least, floats_half]
  refine ⟨fun rm => ⟨_, roundsUnbounded_exact rm ⟨false, 2 ^ 23, 105, ?_⟩ ?_, ?_⟩,
    fun rm => ⟨_, roundsUnbounded_exact rm ⟨false, 2 ^ 23, -150, ?_⟩ ?_, ?_⟩⟩ <;>
    norm_num [fpRat, fpBias, fpPrec, HasPrecisionAs]

/-! #### Graphics -/

theorem witness_PixelAddAndSubtract : psrSfd2 (sup []) = false ∧ (2#5 : RegNum).toNat % 2 = 0 := by decide

theorem witness_PixelCompareAndMultiply : psrSfd2 (sup []) = false ∧ (30#5 : RegNum).toNat % 2 = 0 := by decide

theorem witness_PixelUnpackPackAndRotate : psrSfd2 (sup []) = false ∧ (30#5 : RegNum).toNat % 2 = 0 := by decide

theorem witness_GraphicsExceptions :
    psrSfd2 (start 0x800003F0#32 []) = true ∧ (1#5 : RegNum).toNat % 2 = 1
      ∧ (PackSize.half, 2#4) ∉ [(PackSize.byte, 8#4), (.half, 4#4), (.half, 8#4), (.word, 2#4), (.word, 4#4), (.word, 8#4)] := by
  decide

/-! #### Loads and stores -/

theorem witness_EffectiveAddressAndAlignment : 4 ≤ 4 ∧ (0x1001#32 : Word).toNat % 2 ^ 4 ≠ 0
    ∧ (0x1010#32 : Word).toNat % 2 ^ 4 = 0 := by decide

/-- r3 names sixteen bytes of plain memory. -/
def loaded : State :=
  withBytes (sup [(3#5, 0x2000#32)]) 0x2000#32
    [0x80#8, 0x01#8, 0xFF#8, 0x7F#8, 0x11#8, 0x22#8, 0x33#8, 0x44#8, 0x55#8, 0x66#8, 0x77#8, 0x88#8, 0x99#8, 0xAA#8,
      0xBB#8, 0xCC#8]

theorem loaded_plain : PlainData loaded 0x2000#32 ∧ PlainData loaded (0x2000#32 + 8#32) :=
  ⟨⟨by decide, by decide, by decide, by decide, by decide, by decide⟩,
    ⟨by decide, by decide, by decide, by decide, by decide, by decide⟩⟩

/-- Every size of operand at the address, with an immediate and with a register index. -/
theorem witness_GeneralRegisterLoads :
    psrMode loaded = true ∧ PlainData loaded 0x2000#32 ∧ HeldAt loaded 0x2000#32 1 0x80
      ∧ HeldAt loaded 0x2000#32 2 0x8001 ∧ HeldAt loaded 0x2000#32 4 0x8001FF7F
      ∧ HeldAt loaded 0x2000#32 8 0x8001FF7F11223344 ∧ alignAddr loaded 1 (eaImm loaded 3#5 0#16) = some 0x2000#32
      ∧ alignAddr loaded 2 (eaReg loaded 3#5 0#5 true 1) = some 0x2000#32
      ∧ alignAddr loaded 4 (eaReg loaded 3#5 0#5 true 2) = some 0x2000#32
      ∧ alignAddr loaded 8 (eaReg loaded 3#5 0#5 true 3) = some 0x2000#32 :=
  ⟨by decide, loaded_plain.1, ⟨by decide, by decide⟩, ⟨by decide, by decide⟩, ⟨by decide, by decide⟩,
    ⟨by decide, by decide⟩, by decide, by decide, by decide, by decide⟩

theorem witness_ExtendedRegisterLoads :
    PlainData loaded 0x2000#32 ∧ PlainData loaded (0x2000#32 + 8#32)
      ∧ HeldAt loaded 0x2000#32 16 0x8001FF7F112233445566778899AABBCC
      ∧ alignAddr loaded 16 (eaImm loaded 3#5 0#16) = some 0x2000#32
      ∧ alignAddr loaded 16 (eaReg loaded 3#5 0#5 true 4) = some 0x2000#32 :=
  ⟨loaded_plain.1, loaded_plain.2, ⟨by decide, by decide⟩, by decide, by decide⟩

theorem witness_GeneralRegisterStores :
    psrMode loaded = true ∧ Memory.wf loaded.mem = true ∧ PlainData loaded 0x2000#32
      ∧ alignAddr loaded 8 (eaImm loaded 3#5 0#16) = some 0x2000#32
      ∧ alignAddr loaded 4 (eaReg loaded 3#5 0#5 true 2) = some 0x2000#32 :=
  ⟨by decide, by decide, loaded_plain.1, by decide, by decide⟩

theorem witness_ExtendedRegisterStores :
    psrMode loaded = true ∧ Memory.wf loaded.mem = true ∧ PlainData loaded 0x2000#32
      ∧ PlainData loaded (0x2000#32 + 8#32) ∧ alignAddr loaded 16 (eaImm loaded 3#5 0#16) = some 0x2000#32
      ∧ alignAddr loaded 16 (eaReg loaded 3#5 0#5 true 4) = some 0x2000#32 :=
  ⟨by decide, by decide, loaded_plain.1, loaded_plain.2, by decide, by decide⟩

/-- With DCTL.XMEM 0 and with DCTL.XMEM 1. -/
theorem witness_ExchangeRegisterWithMemory :
    psrMode loaded = true ∧ Memory.wf loaded.mem = true ∧ PlainData loaded 0x2000#32
      ∧ HeldAt loaded 0x2000#32 1 0x80 ∧ HeldAt loaded 0x2000#32 4 0x8001FF7F
      ∧ alignAddr loaded 4 (eaReg loaded 3#5 0#5 false 2) = some 0x2000#32
      ∧ alignAddr loaded 1 (eaReg loaded 3#5 0#5 false 0) = some 0x2000#32
      ∧ PlainData { loaded with dmu := { loaded.dmu with ctl := 0x00008040#32 } } 0x2000#32
      ∧ ctlXmem 0x00008040#32 = true :=
  ⟨by decide, by decide, loaded_plain.1, ⟨by decide, by decide⟩, ⟨by decide, by decide⟩, by decide, by decide,
    ⟨by decide, by decide, by decide, by decide, by decide, by decide⟩, by decide⟩

theorem witness_TouchAndAllocateLoadsNeverTrap :
    psrMode loaded = true ∧ Memory.wf loaded.mem = true ∧ loaded.script = Script.idle := by decide

/-- The data cache on, and a modified line for the address 0x2000. -/
def cached : State :=
  let s := setDLine loaded 0x2000#32 true ⟨0x00002#20, .exclusiveModified, Vector.replicate 32 0x5A#8⟩
  { s with dmu := { s.dmu with ctl := 0x00000041#32 } }

theorem witness_FlushLoadCopiesTheLineBack :
    psrMode loaded = true ∧ PlainData loaded 0x2000#32 ∧ alignAddr loaded 4 (eaImm loaded 3#5 0#16) = some 0x2000#32
      ∧ psrMode cached = true ∧ Memory.wf cached.mem = true
      ∧ alignAddr cached 4 (eaImm cached 3#5 0#16) = some 0x2000#32
      ∧ alignAddr cached 4 (eaReg cached 3#5 0#5 false 2) = some 0x2000#32
      ∧ ctlMen cached.dmu.ctl = false ∧ ctlBpen0 cached.dmu.ctl = false ∧ ctlBpen1 cached.dmu.ctl = false
      ∧ ctlCen cached.dmu.ctl = true ∧ cached.env.dbug = false ∧ cached.env.regions = []
      ∧ cached.script = Script.idle
      ∧ dHit cached 0x2000#32 = some true ∧ (dLine cached 0x2000#32 true).state = .exclusiveModified :=
  ⟨by decide, loaded_plain.1, by decide, by decide, by decide, by decide, by decide, by decide, by decide, by decide,
    by decide, by decide, by decide, by decide, by decide, by decide⟩

/-- .usr in user mode; an odd pair; an address one byte off for every size, unless PSR.MXM is 1. -/
theorem witness_MemoryInstructionChecks :
    psrMode (user []) = false ∧ (3#5 : RegNum).toNat % 2 ≠ 0
      ∧ (∀ n ∈ [2, 4, 8, 16], alignAddr (sup [(3#5, 0x2000#32)]) n (eaImm (sup [(3#5, 0x2000#32)]) 3#5 1#16) = none)
      ∧ alignAddr (sup [(3#5, 0x2001#32)]) 2 (eaReg (sup [(3#5, 0x2001#32)]) 3#5 0#5 false 1) = none := by decide

/-! #### Caches, translation, breakpoints -/

/-- Every size of operand in the modified line: the loads' values, the stores' write policies. -/
theorem witness_CacheHitsAndMisses_hits :
    CachedData cached (psrMode cached) ∧ dHit cached 0x2000#32 = some true
      ∧ (∀ k ∈ [0, 1, 2, 3, 4], alignAddr cached (2 ^ k) (eaReg cached 3#5 0#5 false k) = some 0x2000#32)
      ∧ alignAddr cached 16 (eaImm cached 3#5 0#16) = some 0x2000#32
      ∧ (∀ k, k < 4 → 0x5A5A5A5A / 256 ^ bytePlace cached 4 k % 256
          = (lineByte cached 0x2000#32 true ((0x2000#32 : Word).toNat % 32 + k)).toNat)
      ∧ Memory.wf cached.mem = true ∧ plainAt cached 0x2000#32 = true ∧ plainAt cached (0x2000#32 + 8#32) = true
      ∧ (areaOf cached.dmu true).getLsbD 9 = false ∧ ctlFwt cached.dmu.ctl = false ∧ ctlFwt 0x00002041#32 = true
      ∧ (dLine cached 0x2000#32 true).state ≠ .sharedUnmodified :=
  ⟨⟨by decide, by decide, by decide, by decide, by decide, by decide, by decide⟩, by decide, by decide, by decide,
    by decide, by decide, by decide, by decide, by decide, by decide, by decide, by decide⟩

/-- A shared line of a global area, under write-back. -/
theorem witness_CacheHitsAndMisses_announced :
    let s := setDLine { loaded with dmu := { loaded.dmu with ctl := 0x00000041#32, sap := 0x00000080#32 } } 0x2000#32 false
      ⟨0x00002#20, .sharedUnmodified, Vector.replicate 32 0x5A#8⟩
    CachedData s true ∧ psrMode s = true ∧ dHit s 0x2000#32 = some false
      ∧ (dLine s 0x2000#32 false).state = .sharedUnmodified ∧ (areaOf s.dmu true).getLsbD 7 = true
      ∧ (areaOf s.dmu true).getLsbD 9 = false ∧ ctlFwt s.dmu.ctl = false
      ∧ alignAddr s 4 (eaImm s 3#5 0#16) = some 0x2000#32 ∧ Memory.wf s.mem = true ∧ plainAt s 0x2000#32 = true :=
  ⟨⟨by decide, by decide, by decide, by decide, by decide, by decide, by decide⟩, by decide, by decide, by decide,
    by decide, by decide, by decide, by decide, by decide, by decide⟩

/-- The data cache on, with line 0 of the set of 0x2000 modified and line 1 valid, both of other addresses. -/
def missing : State :=
  let s := setDLine (setDLine loaded 0x2000#32 false ⟨0x00003#20, .exclusiveModified, Vector.replicate 32 0x5A#8⟩)
    0x2000#32 true ⟨0x00004#20, .exclusiveUnmodified, Vector.replicate 32 0x5A#8⟩
  { s with dmu := { s.dmu with ctl := 0x00000041#32 } }

/-- A modified victim, an invalid one in an empty cache, and the line of the bank that is not frozen. -/
theorem witness_CacheHitsAndMisses_misses :
    CachedData missing true ∧ psrMode missing = true ∧ dHit missing 0x2000#32 = none ∧ Replaces missing 0x2000#32 false
      ∧ (dLine missing 0x2000#32 false).state = .exclusiveModified ∧ Memory.wf missing.mem = true
      ∧ missing.env.regions = [] ∧ HeldAt missing 0x2000#32 4 0x8001FF7F
      ∧ alignAddr missing 4 (eaImm missing 3#5 0#16) = some 0x2000#32
      ∧ Replaces { missing with dcache := loaded.dcache } 0x2000#32 false
      ∧ (dLine loaded 0x2000#32 false).state = .invalid
      ∧ Replaces { missing with dmu := { missing.dmu with ctl := 0x00000141#32 } } 0x2000#32 true
      ∧ Replaces { missing with dmu := { missing.dmu with ctl := 0x000000C1#32 } } 0x2000#32 false
      ∧ (areaOf missing.dmu true).getLsbD 9 = false ∧ ctlFwt missing.dmu.ctl = false :=
  ⟨⟨by decide, by decide, by decide, by decide, by decide, by decide, by decide⟩, by decide, by decide,
    Or.inl ⟨by decide, by decide, by decide⟩, by decide, by decide, by decide, ⟨by decide, by decide⟩, by decide,
    Or.inl ⟨by decide, by decide, by decide⟩, by decide, Or.inr (Or.inl ⟨by decide, by decide, by decide⟩),
    Or.inr (Or.inr ⟨by decide, by decide, by decide⟩), by decide, by decide⟩

/-- The data unit with translation enabled, its block 7 for the supervisor's lowest 512 Kbytes, its page 31 for the
supervisor's page 0x00080. -/
def mapped : State :=
  let s := sup []
  { s with dmu := { Mmu.reset with
      ctl := 0x00000020#32
      sap := 0x00000001#32
      batc := Mmu.reset.batc.set 7 ⟨0x00000021#32, 0#2⟩
      patc := Mmu.reset.patc.set 31 ⟨0x00080040#32, 0x00300001#32⟩ } }

/-- Whether a block descriptor of mapped covers an address: the statement's condition at k = 0. -/
def blockHits (la : Word) (e : BatcEntry) : Bool :=
  e.port.getLsbD 0 && e.port.getLsbD 5 == true && decide (e.port.toNat / 2 ^ (19 + 0) = la.toNat / 2 ^ (19 + 0))

/-- Whether a page descriptor of mapped covers an address. -/
def pageHits (la : Word) (e : PatcEntry) : Bool :=
  e.lower.getLsbD 0 && e.upper.getLsbD 6 == true && decide (e.upper.toNat / 4096 = la.toNat / 4096)

/-- Translation disabled; enabled with no block hit and no page translation; the one block that hits, at its last byte;
the one page that hits, at its first; a page that misses. -/
theorem witness_TranslationModes :
    ctlMen (sup []).dmu.ctl = false
      ∧ mapped.env.dbug = false ∧ ctlMen mapped.dmu.ctl = true ∧ (ctlMask mapped.dmu.ctl).toNat = 2 ^ 0 - 1
      ∧ (∀ i : Fin 8, blockHits 0x0007FFFF#32 mapped.dmu.batc[i] = true ↔ i = 7)
      ∧ (∀ i : Fin 8, blockHits 0x00080000#32 mapped.dmu.batc[i] = false)
      ∧ areaTe (areaOf mapped.dmu true) = true ∧ areaTe (areaOf mapped.dmu false) = false
      ∧ (∀ i : Fin 32, pageHits 0x00080000#32 mapped.dmu.patc[i] = true ↔ i = 31)
      ∧ (∀ i : Fin 32, pageHits 0x00081000#32 mapped.dmu.patc[i] = false) ∧ ctlHten mapped.dmu.ctl = false := by decide

/-- A segment descriptor at 0x1000 and a page descriptor at 0x2004, both in plain memory. -/
def tables : State :=
  let s := withBytes (withBytes (sup []) 0x5000#32 [0x00#8, 0x00#8, 0x60#8, 0x01#8]) 0x6004#32
    [0x00#8, 0x07#8, 0x00#8, 0x01#8]
  { s with dmu := { s.dmu with sap := 0x00005001#32, uap := 0x00005001#32 } }

theorem witness_TableSearchLoadsThePage :
    let sda := (areaOf tables.dmu false).extractLsb' 12 20 ++ (0x00001234#32 : Word).extractLsb' 22 10 ++ 0#2
    let sd := readWordBE tables sda
    let pda := sd.extractLsb' 12 20 ++ (0x00001234#32 : Word).extractLsb' 12 10 ++ 0#2
    let pd := readWordBE tables pda
    plainAt tables sda = true ∧ plainAt tables pda = true ∧ tables.script = Script.idle ∧ sd.getLsbD 0 = true
      ∧ pd.extractLsb' 0 2 = 1#2 ∧ sd.getLsbD 8 = false ∧ pd.getLsbD 8 = false := by decide

/-- Breakpoint 0 on loads and breakpoint 1 on stores at 0x2000 in supervisor mode, with the status registers open or
frozen. -/
def armed (psr : Word) : State :=
  let s := start psr [(3#5, 0x2000#32)]
  { s with
    dmu := { s.dmu with ctl := 0x00001840#32 }, bp0 := ⟨0x2000#32, 0x0000A000#32⟩, bp1 := ⟨0x2000#32, 0x00008000#32⟩ }

theorem witness_BreakpointStopsTheAccess_open :
    let s := armed 0x800003E0#32
    s.env.dbug = false ∧ ctlBpen0 s.dmu.ctl = true ∧ ctlBpen1 s.dmu.ctl = true ∧ psrMode s = true
      ∧ s.bp0.control.getLsbD 15 = true ∧ s.bp0.control.getLsbD 13 = !false
      ∧ s.bp1.control.getLsbD 15 = true ∧ s.bp1.control.getLsbD 13 = !true := by decide

theorem witness_BreakpointStopsTheAccess_frozen :
    let s := armed 0x800003E1#32
    s.env.dbug = false ∧ ctlBpen0 s.dmu.ctl = true ∧ ctlBpen1 s.dmu.ctl = true ∧ psrMode s = true
      ∧ s.bp0.control.getLsbD 15 = true ∧ s.bp0.control.getLsbD 13 = !false
      ∧ s.bp1.control.getLsbD 15 = true ∧ s.bp1.control.getLsbD 13 = !true := by decide

theorem witness_BreakpointStopsTheAccess_addresses :
    let s := armed 0x800003E0#32
    alignAddr s 16 (eaImm s 3#5 0#16) = some s.bp0.lba ∧ alignAddr s 4 (eaReg s 3#5 0#5 true 2) = some s.bp1.lba := by
  decide

/-! #### Exceptions, interrupts, reset, the whole machine -/

theorem witness_ExceptionEntrySavesTheContext :
    psrEfrz (sup []) = false ∧ psrEfrz (start 0x800003E1#32 []) = true ∧ (start 0x820003E0#32 []).psr.getLsbD 25 = true
      ∧ (sup []).script.waived = [] ∧ (sup []).halted = none ∧ Memory.wf (sup []).mem = true := by decide

/-- NMI, INT alone, and neither; the instruction is no operation. -/
theorem witness_InterruptsAreTakenBetweenInstructions :
    (∀ s ∈ [{ sup [] with nmiPending := true }, { sup [] with intPin := true }, sup []],
      s.inputs = [] ∧ s.snoopFault = none ∧ s.stuck = false ∧ s.script.waived = [] ∧ s.halted = none
        ∧ tookDataAccess (runInstruction { s with lastExc := none }) = false)
      ∧ psrEfrz (sup []) = false ∧ psrInd (sup []) = false := by decide

theorem witness_ResetState :
    ({ sup [] with inputs := [[.reset], []] } : State).inputs = [.reset] :: [[]]
      ∧ (sup []).halted = none
      ∧ ∀ r, (abandon ⟨1, r⟩ (plainTxn 0#32 0#4) (sup [])).halted.map Halt.reset = some r := by decide

/-- A legal state that is not the one after reset, and a step from it. -/
theorem witness_StepKeepsLegal : Legal atRte ∧ ∃ t, step atRte = .next t :=
  ⟨⟨⟨by decide, by decide, by decide, by decide, by decide, by decide, by decide, by decide⟩, ⟨by decide, by decide⟩,
    by decide, ⟨by decide, by decide, by decide, by decide, by decide⟩, ⟨by decide, by decide, by decide, by decide, by decide⟩,
    by decide, by decide⟩, ⟨_, rfl⟩⟩

/-- An addition completes in user mode, and a trap leaves it. -/
theorem witness_UserModeIsIsolated :
    psrMode (user []) = false ∧ (user []).lastExc = none
      ∧ (∃ t, exec (.adduReg 1#5 2#5 false false 3#5) (user []) = .next t ∧ t.lastExc = none)
      ∧ ∃ t, exec (.tb0 0#5 0#5 128#9) (user []) = .next t ∧ psrMode t = true :=
  ⟨by decide, by decide, ⟨_, rfl, by decide⟩, ⟨_, rfl, by decide⟩⟩

theorem witness_CarryChangesOnlyWhereStated :
    ∃ t, exec (.adduReg 1#5 2#5 false true 2#5) (sup [(2#5, 0x80000000#32)]) = .next t
      ∧ psrCarry t ≠ psrCarry (sup [(2#5, 0x80000000#32)]) := ⟨_, rfl, by decide⟩

end Sys2Proof.Tests
end

/-! ## Legality inside a step -/

namespace Sys2Proof.Machine

/-! ### Masks and alignment -/

theorem within_or {m v c : Word} (hv : v &&& m = v) (hc : c &&& m = c) : (v ||| c) &&& m = v ||| c := by
  rw [BitVec.and_or_distrib_right, hv, hc]

theorem within_and_mask (v m : Word) : v &&& m &&& m = v &&& m := by rw [BitVec.and_assoc, BitVec.and_self]

theorem within_and_lit {m c : Word} (v : Word) (hc : c &&& m = c) : v &&& c &&& m = v &&& c := by
  rw [BitVec.and_assoc, hc]

theorem within_and_left {m v : Word} (hv : v &&& m = v) (c : Word) : v &&& c &&& m = v &&& c := by
  rw [BitVec.and_assoc, BitVec.and_comm c m, ← BitVec.and_assoc, hv]

theorem aligned_iff (a : Word) : a &&& 3#32 = 0#32 ↔ a.toNat % 4 = 0 := by
  rw [← BitVec.toNat_inj, BitVec.toNat_and]
  exact Eq.congr_left (Nat.and_two_pow_sub_one_eq_mod a.toNat 2)

theorem aligned_add {a b : Word} (ha : a &&& 3#32 = 0#32) (hb : b &&& 3#32 = 0#32) : (a + b) &&& 3#32 = 0#32 := by
  rw [aligned_iff] at *
  rw [BitVec.toNat_add]
  omega

theorem aligned_shiftLeft (a : Word) (k : Nat) : (a <<< (k + 2)) &&& 3#32 = 0#32 := by
  rw [aligned_iff, BitVec.toNat_shiftLeft, Nat.shiftLeft_eq, pow_add, ← mul_assoc]
  omega

theorem aligned_and_lit (a : Word) {c : Word} (hc : c &&& 3#32 = 0#32) : (a &&& c) &&& 3#32 = 0#32 := by
  rw [BitVec.and_assoc, hc, BitVec.and_zero]

theorem aligned_within {a : Word} (ha : a &&& 3#32 = 0#32) : a &&& 0xFFFFFFFC#32 = a := by
  have h : a &&& (0xFFFFFFFC#32 ||| 3#32) = a := BitVec.and_allOnes
  rwa [BitVec.and_or_distrib_left, ha, BitVec.or_zero] at h

/-- Every vector's address names a word. -/
theorem vectorAddress_aligned (s : State) (n : BitVec 9) : vectorAddress s n &&& 3#32 = 0#32 := by
  rw [vectorAddress, BitVec.and_or_distrib_right, aligned_and_lit _ (by decide), aligned_shiftLeft _ 1, BitVec.or_zero]

theorem target16_aligned {a : Word} (ha : a &&& 3#32 = 0#32) (disp : BitVec 16) : target16 a disp &&& 3#32 = 0#32 :=
  aligned_add ha (aligned_shiftLeft _ 0)

theorem target26_aligned {a : Word} (ha : a &&& 3#32 = 0#32) (disp : BitVec 26) : target26 a disp &&& 3#32 = 0#32 :=
  aligned_add ha (aligned_shiftLeft _ 0)

theorem targetReg_aligned (v : Word) : targetReg v &&& 3#32 = 0#32 := aligned_and_lit v (by decide)

/-! ### The processor status register -/

theorem psrLegal_psrLegal (v : Word) : psrLegal (psrLegal v) = psrLegal v := by
  have disjoint : 0x000003E0#32 &&& 0xF600001F#32 = 0#32 := by decide
  rw [psrLegal, psrLegal, BitVec.and_or_distrib_right, within_and_mask, disjoint, BitVec.or_zero]

/-- The bits that PSR holds as written (10_state.md R33). -/
def psrFree : List Nat := [31, 30, 29, 28, 26, 25, 4, 3, 2, 1, 0]

/-- A word that differs from a legal PSR only in bits that PSR holds as written is a legal PSR. -/
theorem psrLegal_of_bits {v w : Word} (hv : psrLegal v = v)
    (h : ∀ i, i < 32 → i ∉ psrFree → w.getLsbD i = v.getLsbD i) : psrLegal w = w := by
  refine BitVec.eq_of_getLsbD_eq fun i hi => ?_
  rw [psrLegal_bit _ _ hi]
  by_cases free : i ∈ psrFree
  · have disjoint : ∀ j ∈ psrFree, j ∉ [9, 8, 7, 6, 5] := by decide
    rw [decide_eq_true (show i ∈ [31, 30, 29, 28, 26, 25, 4, 3, 2, 1, 0] from free), decide_eq_false (disjoint i free),
      Bool.true_and, Bool.or_false]
  · have fixed := psrLegal_bit v i hi
    rw [hv, decide_eq_false (show i ∉ [31, 30, 29, 28, 26, 25, 4, 3, 2, 1, 0] from free), Bool.false_and] at fixed
    rw [h i hi free, fixed, decide_eq_false (show i ∉ [31, 30, 29, 28, 26, 25, 4, 3, 2, 1, 0] from free), Bool.false_and]

/-! ### Legal states inside a step -/

/-- What Legal says of a state inside a step, where a transaction may have been cut short: the memory is canonical, and
so is the memory that the cut kept. -/
structure LegalInside (s : State) : Prop where
  control : ControlLegal s
  pointers : PointersAligned s
  sequence : s.ds = false → s.nip = s.xip + 4#32
  imu : MmuLegal .instr s.imu
  dmu : MmuLegal .data s.dmu
  canonical : Canonical s

theorem legal_iff (s : State) : Legal s ↔ LegalInside s ∧ s.halted = none := by
  constructor
  · rintro ⟨control, pointers, sequence, imu, dmu, memory, between⟩
    exact ⟨⟨control, pointers, sequence, imu, dmu, memory, by rw [between]; rintro h ⟨⟩⟩, between⟩
  · rintro ⟨⟨control, pointers, sequence, imu, dmu, canonical⟩, between⟩
    exact ⟨control, pointers, sequence, imu, dmu, canonical.1, between⟩

/-- Of the whole state only what legality does not speak of, or speaks of as Canonical, may differ. -/
def LegalFrame (s t : State) : Prop :=
  t = { s with
    gpr := t.gpr, xrf := t.xrf, sr0 := t.sr0, sr1 := t.sr1, sr2 := t.sr2, sr3 := t.sr3, sr4 := t.sr4,
    imu := { s.imu with
      sar := t.imu.sar, ppu := t.imu.ppu, ppl := t.imu.ppl, lar := t.imu.lar, par := t.imu.par, batc := t.imu.batc,
      patc := t.imu.patc, fifo := t.imu.fifo }
    dmu := { s.dmu with
      sar := t.dmu.sar, ppu := t.dmu.ppu, ppl := t.dmu.ppl, lar := t.dmu.lar, par := t.dmu.par, batc := t.dmu.batc,
      patc := t.dmu.patc, fifo := t.dmu.fifo }
    bp0 := t.bp0, bp1 := t.bp1, icache := t.icache, dcache := t.dcache, ibias := t.ibias, dbias := t.dbias, tic := t.tic,
    ticFifo := t.ticFifo, ticSupply := t.ticSupply, ticFill := t.ticFill, intPin := t.intPin, nmiPin := t.nmiPin,
    nmiPending := t.nmiPending, prefetched := t.prefetched, modeWindow := t.modeWindow, stuck := t.stuck, mem := t.mem,
    env := t.env, draws := t.draws, lastExc := t.lastExc, busLog := t.busLog, inputs := t.inputs, script := t.script,
    halted := t.halted, snoopFault := t.snoopFault }

theorem LegalInside.of_frame {s t : State} (h : LegalInside s) (frame : LegalFrame s t) (canonical : Canonical t) :
    LegalInside t := by
  obtain ⟨⟨psr, epsr, exip, enip, vbr, fpecr, fpsr, fpcr⟩, ⟨xip, nip⟩, sequence, ⟨ictl, isap, iuap, iir, istatus⟩,
    ⟨dctl, dsap, duap, dir, dstatus⟩, -⟩ := h
  have c : Canonical t := canonical
  unfold LegalFrame at frame
  rw [frame] at c ⊢
  exact ⟨⟨psr, epsr, exip, enip, vbr, fpecr, fpsr, fpcr⟩, ⟨xip, nip⟩, sequence, ⟨ictl, isap, iuap, iir, istatus⟩,
    ⟨dctl, dsap, duap, dir, dstatus⟩, c⟩

theorem BusKeeps.legalInside {s t : State} (k : BusKeeps s t) (h : LegalInside s) : LegalInside t :=
  h.of_frame (by have f := k.frame; unfold BusFrame at f; unfold LegalFrame; rw [f]) (k.canonical h.canonical)

theorem CacheKeeps.legalInside {s t : State} (k : CacheKeeps s t) (h : LegalInside s) : LegalInside t :=
  h.of_frame (by unfold LegalFrame; rw [k.frame]) (k.canonical h.canonical)

theorem TranslateKeeps.legalInside {side : Side} {s t : State} (k : TranslateKeeps side s t) (h : LegalInside s) :
    LegalInside t :=
  h.of_frame (by unfold LegalFrame; rw [k.frame]; cases side <;> rfl) (k.canonical h.canonical)

theorem WaivedKeeps.legalInside {s t : State} (k : WaivedKeeps s t) (h : LegalInside s) : LegalInside t :=
  h.of_frame (by unfold LegalFrame; rw [k.frame]; rfl) (k.canonical h.canonical)

/-! ### Ends of an instruction -/

theorem LegalInside.branchTo {s : State} (h : LegalInside s) (n : Bool) {t : Word} (ht : t &&& 3#32 = 0#32) :
    LegalInside (branchTo s n t) := by
  obtain ⟨⟨psr, epsr, exip, enip, vbr, fpecr, fpsr, fpcr⟩, ⟨xip, nip⟩, -, imu, dmu, canonical⟩ := h
  cases n
  · exact ⟨⟨psr, epsr, exip, enip, vbr, fpecr, fpsr, fpcr⟩, ⟨ht, aligned_add ht (by decide)⟩, fun _ => rfl, imu, dmu,
      canonical⟩
  · exact ⟨⟨psr, epsr, exip, enip, vbr, fpecr, fpsr, fpcr⟩, ⟨nip, ht⟩, nofun, imu, dmu, canonical⟩

theorem LegalInside.branchNotTaken {s : State} (h : LegalInside s) (n : Bool) : LegalInside (branchNotTaken s n) := by
  obtain ⟨⟨psr, epsr, exip, enip, vbr, fpecr, fpsr, fpcr⟩, ⟨xip, nip⟩, -, imu, dmu, canonical⟩ := h
  exact ⟨⟨psr, epsr, exip, enip, vbr, fpecr, fpsr, fpcr⟩, ⟨nip, aligned_add nip (by decide)⟩, fun _ => rfl, imu, dmu,
    canonical⟩

theorem LegalInside.advance {s : State} (h : LegalInside s) : LegalInside (advance s) := h.branchNotTaken false

theorem exipOf_within (s : State) : exipOf s &&& 0xFFFFFFFD#32 = exipOf s :=
  within_or (within_and_lit _ (by decide)) (by cases s.ds <;> decide)

theorem LegalInside.takeException {s : State} (h : LegalInside s) (e : Exc) : LegalInside (takeException e s) := by
  obtain ⟨⟨psr, epsr, exip, enip, vbr, fpecr, fpsr, fpcr⟩, ⟨xip, nip⟩, -, imu, dmu, canonical⟩ := h
  have entered : ∀ i ∈ [31, 4, 3, 1, 0], i ∈ psrFree := by decide
  have psr' : psrLegal (Machine.takeException e s).psr = (Machine.takeException e s).psr :=
    psrLegal_of_bits psr fun i hi hn => by
      rw [takeException_psr_bit _ _ _ hi, decide_eq_false (mt (entered i) hn), Bool.false_or]
  refine ⟨⟨psr', ?_, ?_, ?_, vbr, fpecr, fpsr, fpcr⟩, ⟨?_, ?_⟩, fun _ => rfl, imu, dmu, canonical⟩
  · simp only [Machine.takeException]; split
    · exact epsr
    · exact psr
  · simp only [Machine.takeException]; split
    · exact exip
    · exact exipOf_within s
  · simp only [Machine.takeException]; split
    · exact enip
    · split
      · exact aligned_within nip
      · exact enip
  · exact vectorAddress_aligned _ _
  · exact aligned_add (vectorAddress_aligned _ _) (by decide)

theorem LegalInside.returnFromException {s : State} (h : LegalInside s) : LegalInside (returnFromException s) := by
  obtain ⟨⟨psr, epsr, exip, enip, vbr, fpecr, fpsr, fpcr⟩, -, -, imu, dmu, canonical⟩ := h
  have target : s.exip &&& 0xFFFFFFFC#32 &&& 3#32 = 0#32 := aligned_and_lit _ (by decide)
  refine ⟨⟨psrLegal_psrLegal _, epsr, exip, enip, vbr, fpecr, fpsr, fpcr⟩, ⟨target, ?_⟩, fun hd => ?_, imu, dmu,
    canonical⟩
  · simp only [Machine.returnFromException]; split
    · exact aligned_and_lit _ (by decide)
    · exact aligned_add target (by decide)
  · have hd : exipD s = false := hd
    simp only [Machine.returnFromException, hd, Bool.false_eq_true, if_false]

end Sys2Proof.Machine


/-! ## What an instruction can do -/

namespace Sys2Proof.Machine

/-! ### Which faults a memory unit can record -/

/-- The status bits of a fault are bits that ISR or DSR has (12_cache_mmu_state.md R106, R107). -/
def MRes.FaultLegal {α : Type} (side : Side) : MRes α → Prop
  | .ok _ _ => True
  | .fail f _ => f.bits &&& statusLegal side = f.bits

@[simp] theorem faultLegal_ok {α : Type} (side : Side) (a : α) (s : State) : (MRes.ok a s).FaultLegal side := trivial

theorem statusBits_legal (side : Side) :
    ∀ b ∈ [bitTbe, bitSi, bitPi, bitSp, bitBe], b &&& statusLegal side = b := by
  cases side <;> simp [statusLegal, bitTbe, bitSi, bitPi, bitSp, bitBe]

theorem dataStatusBits_legal : ∀ b ∈ [bitWe, bitBpe, bitCp, bitWa], b &&& statusLegal .data = b := by
  simp [statusLegal, bitWe, bitBpe, bitCp, bitWa]

theorem faultLegal_searchFault {α : Type} (side : Side) (write : Bool) {bits : Word} (a : Word) (s : State)
    (h : bits ∈ [bitTbe, bitSi, bitPi, bitSp, bitBe]) :
    (MRes.fail (searchFault side write bits a) s : MRes α).FaultLegal side := statusBits_legal side bits h

theorem faultLegal_searchLoad (side : Side) (su write : Bool) (la : Word) (acc : Attr) (pd pda : Word) (s : State) :
    (searchLoad side su write la acc pd pda s).FaultLegal side := by
  simp only [searchLoad]; split
  · exact faultLegal_searchFault _ _ _ _ (by simp)
  · trivial

theorem faultLegal_searchPage (side : Side) (su write : Bool) (la : Word) (user : BitVec 2) (acc : Attr) (pda : Word)
    (s : State) : (searchPage side su write la user acc pda s).FaultLegal side := by
  simp only [searchPage]; split
  · exact faultLegal_searchFault _ _ _ _ (by simp)
  · split
    · exact faultLegal_searchFault _ _ _ _ (by simp)
    · split
      · exact faultLegal_searchLoad ..
      · split
        · exact faultLegal_searchFault _ _ _ _ (by simp)
        · split
          · exact faultLegal_searchLoad ..
          · exact faultLegal_searchFault _ _ _ _ (by simp)

theorem faultLegal_tableSearch (side : Side) (su write : Bool) (la : Word) (s : State) :
    (tableSearch side su write la s).FaultLegal side := by
  simp only [tableSearch]; split
  · exact faultLegal_searchFault _ _ _ _ (by simp)
  · split
    · exact faultLegal_searchFault _ _ _ _ (by simp)
    · split
      · exact faultLegal_searchFault _ _ _ _ (by simp)
      · exact faultLegal_searchPage ..

/-- Write protection is a fault of the data side alone: no fetch writes. -/
theorem faultLegal_applyHit {side : Side} {write : Bool} (h : side = .instr → write = false) (x : Xlate) (s : State) :
    (applyHit write x s).FaultLegal side := by
  unfold applyHit; split
  · next hw =>
    cases side
    · simp [h rfl] at hw
    · exact dataStatusBits_legal bitWe (by simp)
  · trivial

theorem faultLegal_translate {side : Side} {write : Bool} (h : side = .instr → write = false) (su : Bool) (la : Word)
    (s : State) : (translate side su write la s).FaultLegal side := by
  have miss : ∀ u, (translateMiss side su write la u).FaultLegal side := by
    intro u
    have k := faultLegal_tableSearch side su write la u
    unfold translateMiss; split
    · split
      · exact faultLegal_applyHit h _ _
      · next hs => rw [hs] at k; exact k
    · exact BitVec.zero_and
  have page : ∀ u, (translatePage side su write la u).FaultLegal side := by
    intro u
    simp only [translatePage]; split
    · exact faultLegal_applyHit h _ _
    · exact miss _
  simp only [translate]; split
  · trivial
  · split
    · exact faultLegal_applyHit h _ _
    · split
      · exact page _
      · trivial

theorem faultLegal_dataAddress (su write : Bool) (la : Word) (s : State) :
    (dataAddress su write la s).FaultLegal .data := by
  unfold dataAddress; split
  · exact dataStatusBits_legal bitBpe (by simp)
  · exact faultLegal_translate (side := .data) nofun su la s

theorem faultLegal_busFault {α : Type} (side : Side) (write : Bool) (a : Word) (s : State) :
    (MRes.fail (busFault side write a) s : MRes α).FaultLegal side :=
  statusBits_legal side bitBe (by simp)

theorem faultLegal_copybackFault {α : Type} (known write : Bool) (a : Word) (s : State) :
    (MRes.fail (copybackFault known write a) s : MRes α).FaultLegal .data :=
  dataStatusBits_legal bitCp (by simp)

theorem faultLegal_makeRoom (s : State) (a : Word) (way write : Bool) : (makeRoom s a way write).FaultLegal .data := by
  have h : (saveVictim s a way write).FaultLegal .data := by
    simp only [saveVictim]; split
    · split
      · trivial
      · exact faultLegal_copybackFault ..
    · trivial
  unfold makeRoom; split
  · trivial
  · next hs => rw [hs] at h; exact h

theorem faultLegal_evictHit (s : State) (a : Word) (write : Bool) : (evictHit s a write).FaultLegal .data := by
  unfold evictHit; split
  · split
    · exact faultLegal_makeRoom ..
    · trivial
  · trivial

theorem faultLegal_dataRead (q : Req) (n : Nat) (s : State) : (dataRead q n s).FaultLegal .data := by
  have single : ∀ u, (readSingle q n u).FaultLegal .data := by
    intro u
    simp only [readSingle]; split
    · trivial
    · exact faultLegal_busFault ..
  have fill : ∀ way u, (readFill q n way u).FaultLegal .data := by
    intro way u
    have h := faultLegal_makeRoom u q.x.pa way false
    unfold readFill; split
    · next hs => rw [hs] at h; exact h
    · simp only; split
      · exact faultLegal_busFault ..
      · trivial
  have h := faultLegal_evictHit (arbitrate s) q.x.pa false
  simp only [dataRead, readLookup]; split
  · split
    · next hs => rw [hs] at h; exact h
    · exact single _
  · split
    · trivial
    · split
      · exact fill _ _
      · exact single _

theorem faultLegal_dataWrite (first : Bool) (q : Req) (bs : List Byte) (s : State) :
    (dataWrite first q bs s).FaultLegal .data := by
  have single : ∀ r u, (writeSingle first r bs u).FaultLegal .data := by
    intro r u
    simp only [writeSingle]; split
    · trivial
    · exact faultLegal_busFault ..
  have back : ∀ way u, (writeBackHit q bs way u).FaultLegal .data := by
    intro way u
    simp only [writeBackHit]; split
    · split
      · trivial
      · exact faultLegal_busFault ..
    · trivial
  have alloc : ∀ way u, (writeAllocate q bs way u).FaultLegal .data := by
    intro way u
    have h := faultLegal_makeRoom u q.x.pa way true
    unfold writeAllocate; split
    · next hs => rw [hs] at h; exact h
    · simp only; split
      · trivial
      · exact dataStatusBits_legal bitWa (by simp)
  have h := faultLegal_evictHit (arbitrate s) q.x.pa true
  simp only [dataWrite, writeLookup]; split
  · split
    · next hs => rw [hs] at h; exact h
    · exact single _ _
  · split
    · split <;> exact single _ _
    · split
      · exact back _ _
      · split
        · exact alloc _ _
        · exact single _ _

theorem faultLegal_exchange (q : Req) (n : Nat) (bs : List Byte) (s : State) :
    (exchange q n bs s).FaultLegal .data := by
  have h := faultLegal_evictHit (arbitrate s) q.x.pa true
  unfold exchange; split
  · next hs => rw [hs] at h; exact h
  · simp only; split
    · split
      · split
        · exact faultLegal_busFault ..
        · trivial
      · exact faultLegal_busFault ..
    · split
      · exact faultLegal_busFault ..
      · split
        · trivial
        · exact faultLegal_busFault ..

theorem faultLegal_flushLine (q : Req) (s : State) : (flushLine q s).FaultLegal .data := by
  simp only [flushLine, flushLookup]; split
  · split
    · split
      · split
        · trivial
        · exact faultLegal_copybackFault ..
      · trivial
    · trivial
  · trivial

theorem faultLegal_flushSets (inv : Bool) (sel : DLine → Bool) (ns : List Nat) (s : State) :
    (flushSets inv sel ns s).FaultLegal .data := by
  have one : ∀ a w u, (flushOne inv a w u).FaultLegal .data := by
    intro a w u
    simp only [flushOne]; split
    · trivial
    · split
      · trivial
      · exact faultLegal_copybackFault ..
    · trivial
    · trivial
  have way : ∀ a w u, (flushWay inv sel a w u).FaultLegal .data := by
    intro a w u
    simp only [flushWay]; split
    · exact one _ _ _
    · trivial
  induction ns generalizing s with
  | nil => trivial
  | cons n ns ih =>
    have h0 := way (BitVec.ofNat 32 (32 * n)) false s
    simp only [flushSets]; split
    · next hs => rw [hs] at h0; exact h0
    · next s1 _ =>
      have h1 := way (BitVec.ofNat 32 (32 * n)) true s1
      split
      · next hs => rw [hs] at h1; exact h1
      · exact ih _

theorem faultLegal_fetchWord (x : Xlate) (su : Bool) (s : State) : (fetchWord x su s).FaultLegal .instr := by
  have single : ∀ u, (fetchSingle x su u).FaultLegal .instr := by
    intro u
    simp only [fetchSingle]; split
    · exact faultLegal_busFault ..
    · trivial
  simp only [fetchWord, fetchLookup]; split
  · exact single _
  · split
    · trivial
    · split
      · simp only [fetchFill]; split
        · exact faultLegal_busFault ..
        · trivial
      · exact single _

/-- A status register that holds a legal word holds a legal word after a fault. -/
theorem statusAfter_within {side : Side} {f : MemFault} {old : Word} (hf : f.bits &&& statusLegal side = f.bits)
    (ho : old &&& statusLegal side = old) (su : Bool) :
    statusAfter side su f old &&& statusLegal side = statusAfter side su f old := by
  have su' : ∀ v, v &&& statusLegal side = v →
      (if su then old ||| 0x00000080#32 else old &&& 0xFFFFFF7F#32) &&& statusLegal side
        = if su then old ||| 0x00000080#32 else old &&& 0xFFFFFF7F#32 := by
    intro v hv
    split
    · exact within_or ho (by cases side <;> decide)
    · exact within_and_left ho _
  cases side
  · exact within_or (su' _ ho) hf
  · simp only [statusAfter]; split
    · exact su' _ ho
    · refine within_or ?_ hf
      split
      · exact within_and_left (su' _ ho) _
      · exact within_or (su' _ ho) (by decide)

theorem recordFault_status {side : Side} {s : State} {f : MemFault}
    (hf : f.bits &&& statusLegal side = f.bits)
    (ho : (mmuOf side s).status &&& statusLegal side = (mmuOf side s).status) (su : Bool) (la : Word) :
    (mmuOf side (recordFault side su la f s)).status &&& statusLegal side
      = (mmuOf side (recordFault side su la f s)).status := by
  have port : ∀ u, (mmuOf side (preloadPort side su la u)).status = (mmuOf side u).status := by
    intro u; cases side <;> rfl
  have draw : ∀ n (u : State), mmuOf side { u with draws := n } = mmuOf side u := by
    intro n u; cases side <;> rfl
  simp only [recordFault]; split
  · exact ho
  · simp only [mmuOf_setMmu]
    refine statusAfter_within hf ?_ su
    split
    · rw [port]; exact ho
    · exact ho

/-- Recording a legal fault keeps a legal state legal. -/
theorem LegalInside.recordFault {side : Side} {s : State} {f : MemFault} (h : LegalInside s)
    (hf : f.bits &&& statusLegal side = f.bits) (su : Bool) (la : Word) :
    LegalInside (recordFault side su la f s) := by
  have frame := recordFault_frame side su la f s
  have canonical := canonical_recordFault side su la f h.canonical
  obtain ⟨⟨psr, epsr, exip, enip, vbr, fpecr, fpsr, fpcr⟩, ⟨xip, nip⟩, sequence, ⟨ictl, isap, iuap, iir, istatus⟩,
    ⟨dctl, dsap, duap, dir, dstatus⟩, -⟩ := h
  have status := recordFault_status (side := side) (s := s) hf (by cases side; exacts [istatus, dstatus]) su la
  simp only at frame
  rw [frame] at canonical status ⊢
  cases side
  · exact ⟨⟨psr, epsr, exip, enip, vbr, fpecr, fpsr, fpcr⟩, ⟨xip, nip⟩, sequence, ⟨ictl, isap, iuap, iir, status⟩,
      ⟨dctl, dsap, duap, dir, dstatus⟩, canonical⟩
  · exact ⟨⟨psr, epsr, exip, enip, vbr, fpecr, fpsr, fpcr⟩, ⟨xip, nip⟩, sequence, ⟨ictl, isap, iuap, iir, istatus⟩,
      ⟨dctl, dsap, duap, dir, status⟩, canonical⟩

end Sys2Proof.Machine


/-! ## How every instruction ends -/

namespace Sys2Proof.Machine

/-! ### Data accesses -/

/-- What a data access, finished or not, can change before a fault of it is recorded: the caches, the data PATC with its
port words, and what the bus writes. -/
structure AccessKeeps (s t : State) : Prop where
  frame : t = { s with
    icache := t.icache, dcache := t.dcache, ibias := t.ibias, dbias := t.dbias, mem := t.mem, busLog := t.busLog,
    script := t.script, draws := t.draws, halted := t.halted, snoopFault := t.snoopFault,
    dmu := { s.dmu with patc := t.dmu.patc, fifo := t.dmu.fifo, ppu := t.dmu.ppu, ppl := t.dmu.ppl } }
  canonical : Canonical s → Canonical t

theorem AccessKeeps.refl (s : State) : AccessKeeps s s := ⟨rfl, id⟩

theorem AccessKeeps.trans {s t u : State} (h : AccessKeeps s t) (k : AccessKeeps t u) : AccessKeeps s u :=
  ⟨by rw [k.frame, h.frame], fun w => k.canonical (h.canonical w)⟩

theorem CacheKeeps.access {s t : State} (h : CacheKeeps s t) : AccessKeeps s t := ⟨by rw [h.frame], h.canonical⟩

theorem TranslateKeeps.access {s t : State} (h : TranslateKeeps .data s t) : AccessKeeps s t :=
  ⟨by rw [h.frame]; rfl, h.canonical⟩

theorem accessKeeps_dataAddress (su write : Bool) (la : Word) (s : State) :
    AccessKeeps s (dataAddress su write la s).last := (translateKeeps_dataAddress su write la s).access

/-- An access is a translation and then what the caches and the bus do. -/
theorem accessKeeps_translated {α : Type} {su write : Bool} {la : Word} {s : State} {k : Xlate → State → MRes α}
    (h : ∀ x u, AccessKeeps u (k x u).last) :
    AccessKeeps s (match dataAddress su write la s with
      | .fail f s' => MRes.fail f s'
      | .ok x s' => k x s').last := by
  have address := accessKeeps_dataAddress su write la s
  split
  · next hs => rw [hs] at address; exact address
  · next hs => rw [hs] at address; exact address.trans (h _ _)

theorem faultLegal_translated {α : Type} {su write : Bool} {la : Word} {s : State} {k : Xlate → State → MRes α}
    (h : ∀ x u, (k x u).FaultLegal .data) :
    (match dataAddress su write la s with
      | .fail f s' => MRes.fail f s'
      | .ok x s' => k x s').FaultLegal .data := by
  have address := faultLegal_dataAddress su write la s
  split
  · next hs => rw [hs] at address; exact address
  · exact h _ _

theorem accessKeeps_readOperand (x : Xlate) (su : Bool) (n : Nat) (s : State) :
    AccessKeeps s (readOperand x su n s).last := by
  unfold readOperand; split
  · have h := (cacheKeeps_dataRead (dataReq x su 8 false) 8 s).access
    split
    · next hs => rw [hs] at h; exact h
    · next s1 hs =>
      rw [hs] at h
      have k := (cacheKeeps_dataRead (dataReq ⟨x.pa + 8#32, x.attr⟩ su 8 false) 8 s1).access
      split <;> next ht => rw [ht] at k; exact h.trans k
  · exact (cacheKeeps_dataRead _ _ _).access

theorem faultLegal_readOperand (x : Xlate) (su : Bool) (n : Nat) (s : State) :
    (readOperand x su n s).FaultLegal .data := by
  unfold readOperand; split
  · have h := faultLegal_dataRead (dataReq x su 8 false) 8 s
    split
    · next hs => rw [hs] at h; exact h
    · next s1 _ =>
      have k := faultLegal_dataRead (dataReq ⟨x.pa + 8#32, x.attr⟩ su 8 false) 8 s1
      split
      · next hs => rw [hs] at k; exact k
      · trivial
  · exact faultLegal_dataRead _ _ _

theorem faultLegal_writeOperand (x : Xlate) (su wt : Bool) (n : Nat) (bs : List Byte) (s : State) :
    (writeOperand x su wt n bs s).FaultLegal .data := by
  unfold writeOperand; split
  · have h := faultLegal_dataWrite true (dataReq x su 8 wt) (bs.take 8) s
    split
    · next hs => rw [hs] at h; exact h
    · exact faultLegal_dataWrite _ _ _ _
  · exact faultLegal_dataWrite _ _ _ _

/-! ### Work and faults -/

/-- What an instruction that completes may have changed beside the sequence: the registers, PSR.C, the floating-point
status and control registers, the target instruction cache's bookkeeping, and what a data access changes. -/
structure Works (s u : State) : Prop where
  frame : u = { s with
    gpr := u.gpr, xrf := u.xrf, psr := u.psr, fpsr := u.fpsr, fpcr := u.fpcr, ticSupply := u.ticSupply,
    ticFill := u.ticFill, icache := u.icache, dcache := u.dcache, ibias := u.ibias, dbias := u.dbias, mem := u.mem,
    busLog := u.busLog, script := u.script, draws := u.draws, halted := u.halted, snoopFault := u.snoopFault,
    dmu := { s.dmu with patc := u.dmu.patc, fifo := u.dmu.fifo, ppu := u.dmu.ppu, ppl := u.dmu.ppl } }
  psr : ∀ i, i < 32 → i ≠ 28 → u.psr.getLsbD i = s.psr.getLsbD i
  fpsr : s.fpsr &&& 0x0001001F#32 = s.fpsr → u.fpsr &&& 0x0001001F#32 = u.fpsr
  fpcr : s.fpcr &&& 0x0026C01F#32 = s.fpcr → u.fpcr &&& 0x0026C01F#32 = u.fpcr
  canonical : Canonical s → Canonical u

theorem Works.refl (s : State) : Works s s := ⟨rfl, fun _ _ _ => rfl, id, id, id⟩

theorem Works.trans {s t u : State} (h : Works s t) (k : Works t u) : Works s u where
  frame := by rw [k.frame, h.frame]
  psr i hi hn := (k.psr i hi hn).trans (h.psr i hi hn)
  fpsr w := k.fpsr (h.fpsr w)
  fpcr w := k.fpcr (h.fpcr w)
  canonical w := k.canonical (h.canonical w)

theorem AccessKeeps.works {s t : State} (h : AccessKeeps s t) : Works s t where
  frame := by rw [h.frame]
  psr _ _ _ := by rw [h.frame]
  fpsr w := by rw [h.frame]; exact w
  fpcr w := by rw [h.frame]; exact w
  canonical := h.canonical

theorem Works.legalInside {s u : State} (k : Works s u) (h : LegalInside s) : LegalInside u := by
  obtain ⟨⟨psr, epsr, exip, enip, vbr, fpecr, fpsr, fpcr⟩, ⟨xip, nip⟩, sequence, imu, ⟨dctl, dsap, duap, dir, dstatus⟩,
    canonical⟩ := h
  have psr' := psrLegal_of_bits psr fun i hi hn => k.psr i hi fun e => hn (by rw [e]; decide)
  have fpsr' := k.fpsr fpsr
  have fpcr' := k.fpcr fpcr
  have canonical' := k.canonical canonical
  rw [k.frame] at psr' fpsr' fpcr' canonical' ⊢
  exact ⟨⟨psr', epsr, exip, enip, vbr, fpecr, fpsr', fpcr'⟩, ⟨xip, nip⟩, sequence, imu, ⟨dctl, dsap, duap, dir, dstatus⟩,
    canonical'⟩

/-- What an instruction may have changed when it raises an exception: FPECR, the data unit's status and address
registers, and what a data access changes; no register (60_exceptions.md R720). -/
structure Faults (s u : State) : Prop where
  frame : u = { s with
    fpecr := u.fpecr, icache := u.icache, dcache := u.dcache, ibias := u.ibias, dbias := u.dbias, mem := u.mem,
    busLog := u.busLog, script := u.script, draws := u.draws, halted := u.halted, snoopFault := u.snoopFault,
    dmu := { s.dmu with
      patc := u.dmu.patc, fifo := u.dmu.fifo, ppu := u.dmu.ppu, ppl := u.dmu.ppl, status := u.dmu.status,
      lar := u.dmu.lar, par := u.dmu.par } }
  keeps : LegalInside s → LegalInside u

theorem Faults.refl (s : State) : Faults s s := ⟨rfl, id⟩

theorem AccessKeeps.faults {s t : State} (h : AccessKeeps s t) {f : MemFault}
    (hf : f.bits &&& statusLegal .data = f.bits) (su : Bool) (la : Word) : Faults s (recordFault .data su la f t) where
  frame := by rw [recordFault_frame .data su la f t, h.frame]; rfl
  keeps w := (h.works.legalInside w).recordFault hf su la

theorem LegalInside.withFpecr {s : State} (h : LegalInside s) {v : Word} (hv : v &&& 0x000000FF#32 = v) (n : Nat) :
    LegalInside { s with fpecr := v, draws := n } := by
  obtain ⟨⟨psr, epsr, exip, enip, vbr, -, fpsr, fpcr⟩, pointers, sequence, imu, dmu, canonical⟩ := h
  exact ⟨⟨psr, epsr, exip, enip, vbr, hv, fpsr, fpcr⟩, ⟨pointers.xip, pointers.nip⟩, sequence, imu, dmu, canonical⟩

theorem faults_setFpecr (s : State) (causes : Word) : Faults s (setFpecr s causes) :=
  ⟨rfl, fun h => h.withFpecr (within_and_mask _ _) _⟩

theorem faults_setFunimp (s : State) : Faults s (setFunimp s) :=
  ⟨rfl, fun h => h.withFpecr (within_or (by decide) (within_and_lit _ (by decide))) _⟩

/-! ### Register writes and bookkeeping -/

theorem works_writeReg (s : State) (d : RegNum) (v : Word) : Works s (writeReg s d v) where
  frame := by rw [writeReg_frame]
  psr _ _ _ := by rw [writeReg_psr]
  fpsr w := by rw [writeReg_fpsr]; exact w
  fpcr w := by rw [writeReg_fpcr]; exact w
  canonical w := by rw [writeReg_frame]; exact w

theorem works_writePair (s : State) (d : RegNum) (v : DWord) : Works s (writePair s d v) :=
  (works_writeReg _ _ _).trans (works_writeReg _ _ _)

theorem works_setFpsrBits (s : State) {bits : Word} (h : bits &&& 0x0001001F#32 = bits) :
    Works s { s with fpsr := s.fpsr ||| bits } :=
  ⟨rfl, fun _ _ _ => rfl, fun w => within_or w h, id, id⟩

theorem works_writeX (s : State) (d : RegNum) (v : XWord) : Works s (writeX s d v) := by
  unfold writeX; split
  · exact .refl s
  · exact (works_setFpsrBits s (bits := 0x00010000#32) (by decide)).trans ⟨rfl, fun _ _ _ => rfl, id, id, id⟩

theorem works_drawn (s : State) : Works s (drawn s) := ⟨rfl, fun _ _ _ => rfl, id, id, id⟩

theorem works_writeXNarrow (s : State) (d : RegNum) (low v : XWord) : Works s (writeXNarrow s d low v) := by
  unfold writeXNarrow; split
  · exact .refl s
  · exact (works_drawn s).trans (works_writeX _ _ _)

theorem works_setAfinx (s : State) (b : Bool) : Works s (setAfinx s b) := by
  unfold setAfinx; split
  · exact works_setFpsrBits s (by decide)
  · exact .refl s

theorem works_fpWrite (s : State) (x : Bool) (t : FpSize) (d : RegNum) (v : XWord) : Works s (fpWrite s x t d v) := by
  unfold fpWrite; split
  · cases t
    · exact works_writeXNarrow ..
    · exact works_writeXNarrow ..
    · exact works_writeX ..
    · exact works_writeX ..
  · cases t
    · exact works_writeReg ..
    · exact works_writePair ..
    · exact .refl s
    · exact .refl s

theorem works_carryOut (s : State) (co c : Bool) : Works s (carryOut s co c) := by
  cases co
  · exact .refl s
  · exact ⟨rfl, fun i hi hn => by rw [carryOut, if_pos rfl, setCarry_psr_bit _ _ _ hi, if_neg hn], id, id, id⟩

theorem works_ticSkip (n : Bool) (s : State) : Works s (ticSkip n s) := ⟨rfl, fun _ _ _ => rfl, id, id, id⟩

theorem works_ticTaken (n : Bool) (t : Word) (s : State) : Works s (ticTaken n t s) := by
  unfold ticTaken; split
  · split <;> exact ⟨rfl, fun _ _ _ => rfl, id, id, id⟩
  · exact works_ticSkip n s

theorem works_wrongPath (predicted taken n : Bool) (t : Word) (s : State) : Works s (wrongPath predicted taken n t s) :=
  (cacheKeeps_wrongPath predicted taken n t s).access.works

/-! ### The ends -/

/-- Every way an instruction can end (46_flow_control.md R661, 60_exceptions.md R720): it completes, branches, does not
take a conditional branch, raises an exception with no register written, or stops; in supervisor mode it may also return
from an exception, or have read or written a control register, which keeps a legal state legal. -/
inductive Ends (s : State) : Host.Outcome State Fault Refusal → Prop
  | completes {u : State} : Works s u → Ends s (.next (advance u))
  | branches {u : State} (n : Bool) {t : Word} : Works s u → (s.xip &&& 3#32 = 0#32 → t &&& 3#32 = 0#32) →
      Ends s (.next (branchTo u n t))
  | passes {u : State} (n : Bool) : Works s u → Ends s (.next (branchNotTaken u n))
  | raises {u : State} (e : Exc) : Faults s u → Ends s (.next (takeException e u))
  | returns : psrMode s = true → Ends s (.next (returnFromException s))
  | controls {u : State} : psrMode s = true → (LegalInside s → LegalInside u) → Ends s (.next (advance u))
  | refuses {u : State} (e : Exc) : psrMode s = true → (LegalInside s → LegalInside u) →
      Ends s (.next (takeException e u))
  | stops (f : Fault) : Ends s (.fault f)

/-- An outcome that leads to a legal state, if it leads to one. -/
def LegalOutcome : Host.Outcome State Fault Refusal → Prop
  | .next t => LegalInside t
  | .fault _ => True
  | .refused _ => True

/-- A legal state stays legal however an instruction ends. -/
theorem Ends.legalOutcome {s : State} {o : Host.Outcome State Fault Refusal} (k : Ends s o) (h : LegalInside s) :
    LegalOutcome o := by
  cases k with
  | completes w => exact (w.legalInside h).advance
  | branches n w ht => exact (w.legalInside h).branchTo n (ht h.pointers.xip)
  | passes n w => exact (w.legalInside h).branchNotTaken n
  | raises e f => exact (f.keeps h).takeException e
  | returns _ => exact h.returnFromException
  | controls _ w => exact (w h).advance
  | refuses e _ w => exact (w h).takeException e
  | stops f => trivial

theorem ends_done {s u : State} (h : Works s u) : Ends s (done u) := .completes h

theorem ends_result (d : RegNum) (v : Word) {s u : State} (h : Works s u) : Ends s (result d v u) :=
  .completes (h.trans (works_writeReg u d v))

theorem ends_raise (e : Exc) (s : State) : Ends s (raise e s) := .raises e (.refl s)

theorem ends_raiseFunimp (s : State) : Ends s (raiseFunimp s) := .raises .sfu1 (faults_setFunimp s)

theorem ends_raiseReserved (space : OpcodeSpace) (s : State) : Ends s (raiseReserved space s) := by
  cases space
  case sfu1 => exact ends_raiseFunimp s
  all_goals exact ends_raise _ s

/-- The end of a part of an instruction that may trap but does not stop. -/
def Res.Works {α : Type} (s : State) : Res α → Prop
  | .ok _ u => Machine.Works s u
  | .trap _ u => Faults s u
  | .stop _ => False

theorem ends_finish {s : State} {r : Res Unit} (h : r.Works s) : Ends s (finish r) := by
  cases r with
  | ok _ u => exact .completes h
  | trap e u => exact .raises e h
  | stop f => exact h.elim

/-! ### Integer, flow-control, floating-point and graphics instructions -/

theorem ends_addTrapping (d : RegNum) (a b : Word) (c co : Bool) (s : State) : Ends s (addTrapping d a b c co s) := by
  unfold addTrapping; split
  · exact ends_raise _ s
  · exact ends_result _ _ (works_carryOut ..)

theorem ends_subTrapping (d : RegNum) (a b : Word) (c co : Bool) (s : State) : Ends s (subTrapping d a b c co s) := by
  unfold subTrapping; split
  · exact ends_raise _ s
  · exact ends_result _ _ (works_carryOut ..)

theorem ends_divUnsigned (d : RegNum) (a b : Word) (s : State) : Ends s (divUnsigned d a b s) := by
  unfold divUnsigned; split
  · exact ends_raise _ s
  · exact ends_result _ _ (.refl s)

theorem ends_divSigned (d : RegNum) (a b : Word) (s : State) : Ends s (divSigned d a b s) := by
  unfold divSigned; split
  · exact ends_raise _ s
  · split
    · exact ends_raise _ s
    · exact ends_result _ _ (.refl s)

theorem ends_execDivuD (d s1 s2 : RegNum) (s : State) : Ends s (execDivuD d s1 s2 s) := by
  unfold execDivuD; split
  · exact ends_raise _ s
  · split
    · exact ends_raise _ s
    · exact ends_done (works_writePair ..)

theorem ends_execMuluD (d s1 s2 : RegNum) (s : State) : Ends s (execMuluD d s1 s2 s) := by
  unfold execMuluD; split
  · exact ends_raise _ s
  · exact ends_done (works_writePair ..)

theorem ends_execMuls (d s1 s2 : RegNum) (s : State) : Ends s (execMuls d s1 s2 s) := by
  simp only [execMuls]; split
  · exact ends_raise _ s
  · exact ends_result _ _ (.refl s)

theorem ends_takeBranch (n : Bool) {t : Word} {s u : State} (h : Works s u)
    (ht : s.xip &&& 3#32 = 0#32 → t &&& 3#32 = 0#32) : Ends s (takeBranch n t u) :=
  .branches n (h.trans (works_ticTaken n t u)) ht

theorem ends_branchIf (predicted c n : Bool) {t : Word} {s : State} (ht : s.xip &&& 3#32 = 0#32 → t &&& 3#32 = 0#32) :
    Ends s (branchIf predicted c n t s) := by
  simp only [branchIf]; split
  · exact ends_takeBranch n (works_wrongPath ..) ht
  · exact .passes n (works_wrongPath ..)

theorem ends_takeJump (n : Bool) (v : Word) {s u : State} (h : Works s u) : Ends s (takeJump n (targetReg v) u) :=
  .branches n (h.trans (works_ticSkip n u)) fun _ => targetReg_aligned v

theorem ends_trapIf (c : Bool) (vec : BitVec 9) (s : State) : Ends s (trapIf c vec s) := by
  unfold trapIf; split
  · exact ends_raise _ s
  · split
    · exact ends_raise _ s
    · exact ends_done (.refl s)

theorem ends_boundsCheck (a bound : Word) (s : State) : Ends s (boundsCheck a bound s) := by
  unfold boundsCheck; split
  · exact ends_raise _ s
  · exact ends_done (.refl s)

theorem ends_execRte (s : State) : Ends s (execRte s) := by
  unfold execRte; split
  · next h => exact .returns h
  · exact ends_raise _ s

theorem ends_fpChecked (usable : Bool) {s : State} {k : State → Host.Outcome State Fault Refusal} (h : Ends s (k s)) :
    Ends s (fpChecked usable s k) := by
  unfold fpChecked; split
  · exact ends_raiseFunimp s
  · exact h

theorem ends_fpFinish (x : Bool) (t : FpSize) (d : RegNum) (r : FpOut) (s : State) : Ends s (fpFinish x t d r s) := by
  cases r with
  | value v a => exact ends_done ((works_setAfinx s a).trans (works_fpWrite ..))
  | trap c => exact .raises .sfu1 (faults_setFpecr s c)

theorem ends_intFinish (d : RegNum) (r : IntOut) (s : State) : Ends s (intFinish d r s) := by
  cases r with
  | value v a => exact ends_result d v (works_setAfinx s a)
  | trap c => exact .raises .sfu1 (faults_setFpecr s c)

theorem ends_gfxChecked (usable : Bool) {s : State} {k : State → Host.Outcome State Fault Refusal} (h : Ends s (k s)) :
    Ends s (gfxChecked usable s k) := by
  unfold gfxChecked; split
  · exact ends_raise _ s
  · exact h

theorem ends_pixelOp (f : Nat → Nat → Nat → Nat) (d s1 : RegNum) (t : PackSize) (s2 : RegNum) (s : State) :
    Ends s (pixelOp f d s1 t s2 s) := ends_gfxChecked _ (ends_done (works_writePair ..))

/-! ### Loads and stores -/

/-- The end of a data access whose fault is recorded: finished, or an exception with its detail registers. -/
def Res.Accesses {α : Type} (s : State) : Res α → Prop
  | .ok _ u => AccessKeeps s u
  | .trap _ u => Faults s u
  | .stop _ => False

theorem Res.Accesses.works {α : Type} {s : State} {r : Res α} (h : r.Accesses s) : r.Works s := by
  cases r with
  | ok _ u => exact AccessKeeps.works h
  | trap e u => exact h
  | stop f => exact h

theorem accesses_settle {α : Type} (su : Bool) (la : Word) {s : State} {r : MRes α} (h : AccessKeeps s r.last)
    (hf : r.FaultLegal .data) : (settle su la r).Accesses s := by
  cases r with
  | ok _ u => exact h
  | fail f u => exact h.faults hf su la

theorem accesses_loadValue (usr : Bool) (n : Nat) (ea : Word) (s : State) : (loadValue usr n ea s).Accesses s := by
  unfold loadValue; split
  · exact Faults.refl s
  · split
    · exact Faults.refl s
    · next a _ =>
      have h := accesses_settle (spaceOf s usr) a (r := readAt (spaceOf s usr) n a s)
        (accessKeeps_translated fun x => accessKeeps_readOperand x _ n)
        (faultLegal_translated fun x => faultLegal_readOperand x _ n)
      split <;> next hs => rw [hs] at h; exact h

theorem accesses_storeValue (usr wt : Bool) (n : Nat) (ea : Word) (v : Nat) (s : State) :
    (storeValue usr wt n ea v s).Accesses s := by
  unfold storeValue; split
  · exact Faults.refl s
  · split
    · exact Faults.refl s
    · exact accesses_settle _ _ (accessKeeps_translated fun x u => (cacheKeeps_writeOperand x _ wt n _ u).access)
        (faultLegal_translated fun x => faultLegal_writeOperand x _ wt n _)

theorem accesses_exchangeAt (usr : Bool) (n : Nat) (ea : Word) (v : Nat) (s : State) :
    (exchangeAt usr n ea v s).Accesses s := by
  unfold exchangeAt; split
  · exact Faults.refl s
  · split
    · exact Faults.refl s
    · next a _ =>
      have h := accesses_settle (spaceOf s usr) a
        (accessKeeps_translated (su := spaceOf s usr) (write := true) (la := a) (s := s) fun x u =>
          (cacheKeeps_exchange (dataReq x (spaceOf s usr) n false) n (operandBytes s n v) u).access)
        (faultLegal_translated fun x u => faultLegal_exchange _ _ _ u)
      split <;> next hs => exact (congrArg (Res.Accesses s) hs).mp h

theorem works_loadInto (usr : Bool) (n : Nat) (ea : Word) {put : State → Nat → State} (hp : ∀ t v, Works t (put t v))
    (s : State) : (loadInto usr n ea put s).Works s := by
  have h := accesses_loadValue usr n ea s
  unfold loadInto; split
  · next hs => rw [hs] at h; exact (AccessKeeps.works h).trans (hp _ _)
  · next hs => rw [hs] at h; exact h
  · next hs => rw [hs] at h; exact h

theorem works_touchLoad (usr : Bool) (ea : Word) (s : State) : (touchLoad usr ea s).Works s := by
  unfold touchLoad; split
  · exact Faults.refl s
  · have h := accessKeeps_dataAddress (spaceOf s usr) false ea s
    split
    · next hs => rw [hs] at h; exact h.works
    · next hs => rw [hs] at h; exact (h.trans (cacheKeeps_touch _ _).access).works

theorem works_flushLoad (usr : Bool) (ea : Word) (s : State) : (flushLoad usr ea s).Works s := by
  unfold flushLoad; split
  · exact Faults.refl s
  · split
    · exact Faults.refl s
    · exact (accesses_settle _ _ (accessKeeps_translated fun x u => (cacheKeeps_flushLine _ u).access)
        (faultLegal_translated fun x u => faultLegal_flushLine _ u)).works

theorem works_allocateLoad (usr : Bool) (ea : Word) (s : State) : (allocateLoad usr ea s).Works s := by
  unfold allocateLoad; split
  · exact Faults.refl s
  · split
    · exact Works.refl s
    · next a _ =>
      have h := accessKeeps_dataAddress (spaceOf s usr) false a s
      split
      · next hs => rw [hs] at h; exact h.works
      · next hs => rw [hs] at h; exact (h.trans (cacheKeeps_allocate _ _).access).works

theorem works_loadB (d : RegNum) (usr : Bool) (ea : Word) (s : State) : (loadB d usr ea s).Works s := by
  unfold loadB; split
  · exact works_touchLoad ..
  · exact works_loadInto _ _ _ (fun _ _ => works_writeReg ..) s

theorem works_loadBu (d : RegNum) (usr : Bool) (ea : Word) (s : State) : (loadBu d usr ea s).Works s :=
  works_loadInto _ _ _ (fun _ _ => works_writeReg ..) s

theorem works_loadH (d : RegNum) (usr : Bool) (ea : Word) (s : State) : (loadH d usr ea s).Works s := by
  unfold loadH; split
  · exact works_allocateLoad ..
  · exact works_loadInto _ _ _ (fun _ _ => works_writeReg ..) s

theorem works_loadHu (d : RegNum) (usr : Bool) (ea : Word) (s : State) : (loadHu d usr ea s).Works s :=
  works_loadInto _ _ _ (fun _ _ => works_writeReg ..) s

theorem works_loadW (d : RegNum) (usr : Bool) (ea : Word) (s : State) : (loadW d usr ea s).Works s := by
  unfold loadW; split
  · exact works_flushLoad ..
  · exact works_loadInto _ _ _ (fun _ _ => works_writeReg ..) s

theorem works_loadD (d : RegNum) (usr : Bool) (ea : Word) (s : State) : (loadD d usr ea s).Works s := by
  unfold loadD; split
  · exact Faults.refl s
  · split
    · exact Faults.refl s
    · exact works_loadInto _ _ _ (fun _ _ => works_writePair ..) s

theorem works_loadXSingle (d : RegNum) (usr : Bool) (ea : Word) (s : State) : (loadXSingle d usr ea s).Works s :=
  works_loadInto _ _ _ (fun _ _ => works_writeXNarrow ..) s

theorem works_loadXDouble (d : RegNum) (usr : Bool) (ea : Word) (s : State) : (loadXDouble d usr ea s).Works s :=
  works_loadInto _ _ _ (fun _ _ => works_writeXNarrow ..) s

theorem works_loadXExt (d : RegNum) (usr : Bool) (ea : Word) (s : State) : (loadXExt d usr ea s).Works s :=
  works_loadInto _ _ _ (fun _ _ => works_writeX ..) s

theorem works_storeValue (usr wt : Bool) (n : Nat) (ea : Word) (v : Nat) (s : State) :
    (storeValue usr wt n ea v s).Works s := (accesses_storeValue usr wt n ea v s).works

theorem works_storeD (d : RegNum) (usr wt : Bool) (ea : Word) (s : State) : (storeD d usr wt ea s).Works s := by
  unfold storeD; split
  · exact Faults.refl s
  · split
    · exact Faults.refl s
    · exact works_storeValue ..

theorem works_exchangeReg (d : RegNum) (usr : Bool) (n : Nat) (ea : Word) (s : State) :
    (exchangeReg d usr n ea s).Works s := by
  have h := accesses_exchangeAt usr n ea (readReg s d).toNat s
  unfold exchangeReg; split
  · next hs => rw [hs] at h; exact (AccessKeeps.works h).trans (works_writeReg ..)
  · next hs => rw [hs] at h; exact h
  · next hs => rw [hs] at h; exact h

end Sys2Proof.Machine


namespace Sys2Proof.Machine

/-! ### Control registers keep a legal state legal -/

theorem LegalInside.mmu {s : State} (h : LegalInside s) (side : Side) : MmuLegal side (mmuOf side s) := by
  cases side
  · exact h.imu
  · exact h.dmu

theorem LegalInside.setMmu {s : State} (h : LegalInside s) {side : Side} {m : Mmu} (hm : MmuLegal side m) :
    LegalInside (setMmu side s m) := by
  obtain ⟨⟨psr, epsr, exip, enip, vbr, fpecr, fpsr, fpcr⟩, ⟨xip, nip⟩, sequence, imu, dmu, canonical⟩ := h
  cases side
  · exact ⟨⟨psr, epsr, exip, enip, vbr, fpecr, fpsr, fpcr⟩, ⟨xip, nip⟩, sequence, hm, dmu, canonical⟩
  · exact ⟨⟨psr, epsr, exip, enip, vbr, fpecr, fpsr, fpcr⟩, ⟨xip, nip⟩, sequence, imu, hm, canonical⟩

/-- The state a part of an instruction ends in is legal, whether it traps or not. -/
def Res.LegalEnd {α : Type} : Res α → Prop
  | .ok _ u => LegalInside u
  | .trap _ u => LegalInside u
  | .stop _ => True

@[simp] theorem legalEnd_ok {α : Type} (a : α) (s : State) : (Res.ok a s).LegalEnd ↔ LegalInside s := Iff.rfl

theorem Res.Accesses.legalEnd {α : Type} {s : State} {r : Res α} (k : r.Accesses s) (h : LegalInside s) : r.LegalEnd := by
  cases r with
  | ok _ u => exact (AccessKeeps.works k).legalInside h
  | trap e u => exact Faults.keeps k h
  | stop f => trivial

section
variable {s : State} (h : LegalInside s)
include h

theorem legalEnd_readMmuReg (side : Side) (k : Nat) : (readMmuReg side k s).LegalEnd := by
  obtain ⟨ctl, sap, uap, ir, status⟩ := h.mmu side
  simp only [readMmuReg]; split
  case h_6 =>
    have user : ∀ b : BitVec 2, b.setWidth 32 &&& 0x0003F703#32 = b.setWidth 32 := by decide
    exact h.setMmu ⟨ctl, sap, uap, within_or (within_and_left ir _) (user _), status⟩
  case h_7 =>
    unfold readPatcUpper; split
    · trivial
    · exact h.setMmu ⟨ctl, sap, uap, ir, status⟩
  all_goals exact h

theorem legalEnd_writePatcLower (side : Side) (v : Word) : (writePatcLower side v s).LegalEnd := by
  obtain ⟨ctl, sap, uap, ir, status⟩ := h.mmu side
  simp only [writePatcLower]; split
  · exact h.setMmu ⟨ctl, sap, uap, ir, status⟩
  · cases side
    · trivial
    · simp only; split
      · exact h.of_frame rfl h.canonical
      · split
        · exact h.of_frame rfl h.canonical
        · trivial

theorem legalEnd_writeMmuReg (side : Side) (k : Nat) (v : Word) : (writeMmuReg side k v s).LegalEnd := by
  obtain ⟨ctl, sap, uap, ir, status⟩ := h.mmu side
  simp only [writeMmuReg]; split
  case h_1 => exact h.setMmu ⟨within_and_mask _ _, sap, uap, ir, status⟩
  case h_3 => exact h.setMmu ⟨ctl, within_and_mask _ _, uap, ir, status⟩
  case h_4 => exact h.setMmu ⟨ctl, sap, within_and_mask _ _, ir, status⟩
  case h_5 => exact h.setMmu ⟨ctl, sap, uap, within_and_mask _ _, status⟩
  case h_8 => exact legalEnd_writePatcLower h side v
  case h_9 =>
    rw [legalEnd_ok]; split
    · exact h
    · exact h.setMmu ⟨ctl, sap, uap, ir, within_and_mask _ _⟩
  all_goals exact h.setMmu ⟨ctl, sap, uap, ir, status⟩

theorem LegalInside.probe (side : Side) (su : Bool) : LegalInside (probe side su s) := by
  obtain ⟨ctl, sap, uap, ir, status⟩ := h.mmu side
  have index : ∀ free p b, probeIndex (mmuOf side s).ir free p b &&& 0x0003F703#32 = probeIndex (mmuOf side s).ir free p b := by
    have page : ∀ i : Fin 32, BitVec.ofNat 32 i.val <<< 12 &&& 0x0003F703#32 = BitVec.ofNat 32 i.val <<< 12 := by decide
    have block : ∀ j : Fin 8, BitVec.ofNat 32 j.val <<< 8 &&& 0x0003F703#32 = BitVec.ofNat 32 j.val <<< 8 := by decide
    intro free p b
    unfold probeIndex; split
    · exact within_or (within_and_left ir _) (within_and_lit _ (by decide))
    · exact within_or (within_and_left ir _) (page _)
    · exact within_or (within_and_left ir _) (block _)
    · exact within_or (within_or (within_and_left ir _) (page _)) (block _)
  have found : ∀ ph bh, probeStatus (mmuOf side s).status ph bh &&& statusLegal side
      = probeStatus (mmuOf side s).status ph bh := by
    intro ph bh
    refine within_or (within_or (within_and_left status _) ?_) ?_
    · cases ph <;> cases side <;> decide
    · cases bh <;> cases side <;> decide
  have p := translateKeeps_pickOne side (patcMatches (mmuOf side s) su (mmuOf side s).sar) s
  have b := p.trans (translateKeeps_pickOne side (batcMatches (mmuOf side s) su (mmuOf side s).sar) _)
  refine (translateKeeps_setPort side _ _).legalInside (LegalInside.setMmu ?_ ⟨ctl, sap, uap, index _ _ _, ?_⟩)
  · exact (b.legalInside h).of_frame rfl (b.canonical h.canonical)
  · simp only; split
    · exact status
    · exact found _ _

theorem LegalInside.invalidatePatc (side : Side) (su : Bool) : LegalInside (invalidatePatc side su s) := by
  obtain ⟨ctl, sap, uap, ir, status⟩ := h.mmu side
  exact h.setMmu ⟨ctl, sap, uap, ir, status⟩

theorem legalEnd_instrCommand (v : Word) : (instrCommand v s).LegalEnd := by
  unfold instrCommand; split
  · exact h.of_frame rfl h.canonical
  · exact h.of_frame rfl h.canonical
  · rw [legalEnd_ok, invalidateILine]; split
    · exact (cacheKeeps_setILine _ _ _ _).legalInside h
    · exact h
  · exact h.probe _ _
  · exact h.probe _ _
  · exact h.invalidatePatc _ _
  · exact h.invalidatePatc _ _
  · exact h

theorem legalEnd_flushSets (inv : Bool) (sel : DLine → Bool) (ns : List Nat) :
    (flushed (flushSets inv sel ns s)).LegalEnd := by
  have keeps := cacheKeeps_flushSets inv sel ns s
  have legal := faultLegal_flushSets inv sel ns s
  generalize flushSets inv sel ns s = r at keeps legal
  cases r with
  | ok _ u => exact keeps.legalInside h
  | fail f u => exact (keeps.legalInside h).recordFault legal _ _

theorem legalEnd_dataCommand (v : Word) : (dataCommand v s).LegalEnd := by
  unfold dataCommand; split
  case h_2 => exact h.of_frame rfl h.canonical
  case h_6 =>
    rw [legalEnd_ok, invalidateDLine]; split
    · exact (cacheKeeps_setDLine _ _ _ _).legalInside h
    · exact h
  case h_9 => exact h.probe _ _
  case h_10 => exact h.probe _ _
  case h_11 => exact h.invalidatePatc _ _
  case h_12 => exact h.invalidatePatc _ _
  case h_13 => exact h
  all_goals exact legalEnd_flushSets h _ _ _

theorem legalEnd_readCr (n : BitVec 6) : (readCr n s).LegalEnd := by
  unfold readCr; split
  · exact h
  · split
    case h_7 => exact (busKeeps_drawn s).legalInside h
    case h_8 => exact (busKeeps_drawn s).legalInside h
    case h_16 =>
      split
      · exact legalEnd_readMmuReg h _ _
      · exact legalEnd_readMmuReg h _ _
    all_goals exact h

theorem legalEnd_writeCr (n : BitVec 6) (v : Word) : (writeCr n v s).LegalEnd := by
  unfold writeCr; split
  · exact h
  · split
    case h_2 | h_3 =>
      obtain ⟨⟨psr, epsr, exip, enip, vbr, fpecr, fpsr, fpcr⟩, ⟨xip, nip⟩, sequence, imu, dmu, canonical⟩ := h
      refine ⟨⟨?_, ?_, exip, enip, vbr, fpecr, fpsr, fpcr⟩, ⟨xip, nip⟩, sequence, imu, dmu, canonical⟩
      any_goals assumption
      exact psrLegal_psrLegal _
    case h_4 | h_5 | h_6 =>
      obtain ⟨⟨psr, epsr, exip, enip, vbr, fpecr, fpsr, fpcr⟩, ⟨xip, nip⟩, sequence, imu, dmu, canonical⟩ := h
      refine ⟨⟨psr, epsr, ?_, ?_, ?_, fpecr, fpsr, fpcr⟩, ⟨xip, nip⟩, sequence, imu, dmu, canonical⟩
      any_goals assumption
      exact within_and_mask _ _
    case h_9 | h_10 | h_11 | h_12 | h_13 => exact h.of_frame rfl h.canonical
    case h_14 => exact legalEnd_instrCommand h v
    case h_15 => exact legalEnd_dataCommand h v
    case h_16 =>
      split
      · exact legalEnd_writeMmuReg h _ _ _
      · exact legalEnd_writeMmuReg h _ _ _
    all_goals exact h

theorem legalEnd_writeCrFrom (n : BitVec 6) (v : Word) : (writeCrFrom n v s).LegalEnd := by
  have k := legalEnd_writeCr h n v
  unfold writeCrFrom; split
  · next hs => rw [hs] at k; exact LegalInside.of_frame k rfl k.canonical
  · next hs => rw [hs] at k; exact k
  · trivial

theorem legalEnd_readCrInto (d : RegNum) (n : BitVec 6) : (readCrInto d n s).LegalEnd := by
  have k := legalEnd_readCr h n
  unfold readCrInto; split
  · next hs => rw [hs] at k; exact (works_writeReg ..).legalInside k
  · next hs => rw [hs] at k; exact k
  · trivial

theorem legalEnd_exchangeCr (d : RegNum) (n : BitVec 6) (v : Word) : (exchangeCr d n v s).LegalEnd := by
  have k := legalEnd_readCr h n
  unfold exchangeCr; split
  · next old u hs =>
    rw [hs] at k
    have l := legalEnd_writeCrFrom k n v
    split
    · next ht => rw [ht] at l; exact (works_writeReg ..).legalInside l
    · next ht => rw [ht] at l; exact l
    · trivial
  · next hs => rw [hs] at k; exact k
  · trivial

end

theorem ends_privileged {s : State} {k : State → Res Unit} (h : LegalInside s → (k s).LegalEnd) :
    Ends s (finish (privileged s k)) := by
  unfold privileged; split
  · next mode =>
    generalize k s = r at h
    cases r with
    | ok _ u => exact .controls mode h
    | trap e u => exact .refuses e mode h
    | stop f => exact .stops f
  · exact ends_raise _ s

theorem ends_execStcr (s1 : RegNum) (n : BitVec 6) (s2 : RegNum) (s : State) : Ends s (execStcr s1 n s2 s) := by
  unfold execStcr; split
  · exact ends_privileged fun h => legalEnd_writeCrFrom h _ _
  · exact ends_raiseReserved _ s

theorem ends_execXcr (d s1 : RegNum) (n : BitVec 6) (s2 : RegNum) (s : State) : Ends s (execXcr d s1 n s2 s) := by
  unfold execXcr; split
  · exact ends_privileged fun h => legalEnd_exchangeCr h _ _ _
  · exact ends_raiseReserved _ s

/-- The checks of fldcr, fstcr and fxcr change FPECR at most. -/
theorem faults_fcrFault {n : BitVec 6} {s u : State} (h : fcrFault n s = some u) : Faults s u := by
  unfold fcrFault at h
  split at h
  · cases h; exact faults_setFunimp s
  · split at h
    · cases h; exact faults_setFpecr s _
    · split at h
      · cases h; exact faults_setFunimp s
      · cases h

/-- fstcr and fxcr reach FPECR in supervisor mode only (45_load_store.md R638). -/
theorem fcrFault_none {n : BitVec 6} {s : State} (h : fcrFault n s = none) :
    n = 62#6 ∨ n = 63#6 ∨ psrMode s = true := by
  by_cases mode : psrMode s = true
  · exact .inr (.inr mode)
  · have high : ¬ n.toNat ≤ 61 := by
      intro low
      simp only [fcrFault, mode, low] at h
      split at h <;> simp at h
    have split : ∀ m : BitVec 6, ¬ m.toNat ≤ 61 → m = 62#6 ∨ m = 63#6 := by decide
    exact (split n high).imp_right .inl

/-- A write of fcr0, fcr62 or fcr63 behind the checks completes, whatever general register it also writes. -/
theorem ends_writeFcr {n : BitVec 6} {s : State} (h : fcrFault n s = none) (v : Word) {k : State → State}
    (hk : ∀ u, Works u (k u)) : Ends s (done (k (writeFcr n v s))) := by
  have user62 : Works s { s with fpsr := v &&& 0x0001001F#32 } :=
    ⟨rfl, fun _ _ _ => rfl, fun _ => within_and_mask _ _, id, id⟩
  have user63 : Works s { s with fpcr := v &&& 0x0026C01F#32 } :=
    ⟨rfl, fun _ _ _ => rfl, id, fun _ => within_and_mask _ _, id⟩
  unfold writeFcr; split
  · exact ends_done (user62.trans (hk _))
  · split
    · exact ends_done (user63.trans (hk _))
    · next n62 n63 =>
      have mode := ((fcrFault_none h).resolve_left n62).resolve_left n63
      exact .controls mode fun l => (hk _).legalInside (l.withFpecr (within_and_mask _ _) _)

theorem ends_execFldcr (d : RegNum) (n : BitVec 6) (s : State) : Ends s (execFldcr d n s) := by
  unfold execFldcr; split
  · next h => exact .raises .sfu1 (faults_fcrFault h)
  · exact ends_result _ _ (.refl s)

theorem ends_execFstcr (s1 : RegNum) (n : BitVec 6) (s2 : RegNum) (s : State) : Ends s (execFstcr s1 n s2 s) := by
  unfold execFstcr; split
  · split
    · next h => exact .raises .sfu1 (faults_fcrFault h)
    · next h => exact ends_writeFcr h _ (k := id) .refl
  · exact ends_raiseReserved _ s

theorem ends_execFxcr (d s1 : RegNum) (n : BitVec 6) (s2 : RegNum) (s : State) : Ends s (execFxcr d s1 n s2 s) := by
  unfold execFxcr; split
  · split
    · next h => exact .raises .sfu1 (faults_fcrFault h)
    · next h => exact ends_writeFcr h _ fun u => works_writeReg u d _
  · exact ends_raiseReserved _ s

theorem ends_execMovToGrf (d : RegNum) (dbl : Bool) (s2 : RegNum) (s : State) : Ends s (execMovToGrf d dbl s2 s) :=
  ends_fpChecked _ (ends_done (works_fpWrite ..))

theorem ends_execMovToXrf (d : RegNum) (dbl : Bool) (s2 : RegNum) (s : State) : Ends s (execMovToXrf d dbl s2 s) :=
  ends_fpChecked _ (ends_done (works_fpWrite ..))

theorem ends_execMovXrf (d s2 : RegNum) (s : State) : Ends s (execMovXrf d s2 s) :=
  ends_fpChecked _ (ends_done (works_writeX ..))

theorem ends_execPmul (d s1 s2 : RegNum) (s : State) : Ends s (execPmul d s1 s2 s) :=
  ends_gfxChecked _ (ends_done (works_writePair ..))

theorem ends_execPpack (d s1 : RegNum) (r : BitVec 4) (t : PackSize) (s2 : RegNum) (s : State) :
    Ends s (execPpack d s1 r t s2 s) := ends_gfxChecked _ (ends_done (works_writePair ..))

theorem ends_execPunpk (d s1 : RegNum) (t : PackSize) (s : State) : Ends s (execPunpk d s1 t s) :=
  ends_gfxChecked _ (ends_done (works_writePair ..))

theorem ends_execProtImm (d s1 : RegNum) (r : BitVec 4) (s : State) : Ends s (execProtImm d s1 r s) :=
  ends_gfxChecked _ (ends_done (works_writePair ..))

theorem ends_execProtReg (d s1 s2 : RegNum) (s : State) : Ends s (execProtReg d s1 s2 s) :=
  ends_gfxChecked _ (ends_done (works_writePair ..))

theorem ends_execPcmp (d s1 s2 : RegNum) (s : State) : Ends s (execPcmp d s1 s2 s) :=
  ends_gfxChecked _ (ends_result _ _ (.refl s))

/-! ### Every instruction -/

/-- However an instruction ends, it is one of the ways of Ends. -/
theorem exec_ends (i : Instr) (s : State) : Ends s (exec i s) := by
  cases i with
  | ldXrfDImm | ldXrfD => exact ends_finish (works_loadXDouble ..)
  | ldXrfImm | ldXrf => exact ends_finish (works_loadXSingle ..)
  | ldXrfXImm | ldXrfX => exact ends_finish (works_loadXExt ..)
  | ldHuImm | ldHu => exact ends_finish (works_loadHu ..)
  | ldBuImm | ldBu => exact ends_finish (works_loadBu ..)
  | ldDImm | ldD => exact ends_finish (works_loadD ..)
  | ldImm | ld => exact ends_finish (works_loadW ..)
  | ldHImm | ldH => exact ends_finish (works_loadH ..)
  | ldBImm | ldB => exact ends_finish (works_loadB ..)
  | stDImm | stD => exact ends_finish (works_storeD ..)
  | stImm | st | stHImm | stH | stBImm | stB | stXrfDImm | stXrfD | stXrfImm | stXrf | stXrfXImm | stXrfX =>
    exact ends_finish (works_storeValue ..)
  | xmemBu | xmem => exact ends_finish (works_exchangeReg ..)
  | ldcr => exact ends_privileged fun h => legalEnd_readCrInto h _ _
  | stcr => exact ends_execStcr ..
  | xcr => exact ends_execXcr ..
  | fldcr => exact ends_execFldcr ..
  | fstcr => exact ends_execFstcr ..
  | fxcr => exact ends_execFxcr ..
  | addImm | addReg => exact ends_addTrapping ..
  | subImm | subReg => exact ends_subTrapping ..
  | adduImm | subuImm | adduReg | subuReg => exact ends_result _ _ (works_carryOut ..)
  | divuImm | divuReg => exact ends_divUnsigned ..
  | divsImm | divsReg => exact ends_divSigned ..
  | divuD => exact ends_execDivuD ..
  | muluD => exact ends_execMuluD ..
  | muls => exact ends_execMuls ..
  | br => exact ends_takeBranch _ (.refl s) fun h => target26_aligned h _
  | bsr => exact ends_takeBranch _ (works_writeReg ..) fun h => target26_aligned h _
  | bb0 | bb1 | bcnd => exact ends_branchIf _ _ _ fun h => target16_aligned h _
  | jmp => exact ends_takeJump _ _ (.refl s)
  | jsr => exact ends_takeJump _ _ (works_writeReg ..)
  | tb0 | tb1 | tcnd => exact ends_trapIf ..
  | tbndReg | tbndImm => exact ends_boundsCheck ..
  | rte => exact ends_execRte s
  | illop1 | illop2 | illop3 => exact ends_raise _ s
  | fmul | fadd | fsub | fdiv | fcvt | flt => exact ends_fpChecked _ (ends_fpFinish ..)
  | fsqrt => exact ends_raiseFunimp s
  | fcmp | fcmpu | int | nint | trnc => exact ends_fpChecked _ (ends_intFinish ..)
  | movToGrf => exact ends_execMovToGrf ..
  | movToXrf => exact ends_execMovToXrf ..
  | movXrf => exact ends_execMovXrf ..
  | padd | paddsU | paddsUs | paddsS | psub | psubsU | psubsUs | psubsS => exact ends_pixelOp ..
  | pcmp => exact ends_execPcmp ..
  | pmul => exact ends_execPmul ..
  | ppack => exact ends_execPpack ..
  | punpk => exact ends_execPunpk ..
  | protImm => exact ends_execProtImm ..
  | protReg => exact ends_execProtReg ..
  | andImm | andUImm | maskImm | maskUImm | xorImm | xorUImm | orImm | orUImm | andReg | xorReg | orReg | muluImm
    | muluReg | cmpImm | cmpReg | clrImm | setImm | extImm | extuImm | makImm | rotImm | clrReg | setReg | extReg
    | extuReg | makReg | rotReg | ff1 | ff0 | ldaD | lda | ldaH | ldaX => exact ends_result _ _ (.refl s)

end Sys2Proof.Machine


/-! ## Every step keeps a legal state legal -/

namespace Sys2Proof.Machine

/-! ### Fetching -/

section
variable {s : State} (h : LegalInside s)
include h

theorem LegalInside.ticSee (a : Word) (f : Fetched) : LegalInside (ticSee a f s) := by
  unfold Machine.ticSee; split
  · exact h
  · split
    · exact h.of_frame rfl h.canonical
    · split
      · exact h.of_frame rfl h.canonical
      · split
        · split <;> exact h.of_frame rfl h.canonical
        · exact h.of_frame rfl h.canonical

theorem LegalInside.fetchSpace (k : Nat) : LegalInside (fetchSpace k s).2 := by
  unfold Machine.fetchSpace; split
  · exact h
  · exact (busKeeps_drawn s).legalInside h

theorem legalEnd_fetchMemory (su : Bool) (la a : Word) : (settleFetch su la (fetchMemory su a s)).LegalEnd := by
  have keeps := translateKeeps_translate .instr su false a s
  have legal := faultLegal_translate (side := .instr) (write := false) (fun _ => rfl) su a s
  unfold fetchMemory; split
  · next ht => rw [ht] at keeps legal; exact (keeps.legalInside h).recordFault legal su la
  · next x u ht =>
    rw [ht] at keeps
    have word := (cacheKeeps_fetchWord x su u).legalInside (keeps.legalInside h)
    have wordLegal := faultLegal_fetchWord x su u
    generalize fetchWord x su u = r at word wordLegal
    cases r with
    | ok f t => exact word
    | fail f t => exact LegalInside.recordFault word wordLegal su la

theorem legalEnd_fetchNew : (fetchNew s).LegalEnd := by
  have space := h.fetchSpace 0
  have window : LegalInside (countWindow (fetchSpace 0 s).2) := space.of_frame rfl space.canonical
  have word := legalEnd_fetchMemory window (fetchSpace 0 s).1 s.xip s.xip
  simp only [fetchNew]; split
  · next hs => rw [hs] at word; exact LegalInside.ticSee word _ _
  · next hs => rw [hs] at word; exact word
  · trivial

theorem legalEnd_fetch : (fetch s).LegalEnd := by
  have ahead : ∀ {u : State}, LegalInside u → (fetchAhead u).LegalEnd := by
    intro u hu
    unfold fetchAhead; split
    · exact legalEnd_fetchNew hu
    · split
      · refine LegalInside.ticSee ?_ _ _
        exact hu.of_frame rfl hu.canonical
      · exact legalEnd_fetchNew (hu.of_frame rfl hu.canonical)
  unfold fetch; split
  · refine LegalInside.ticSee ?_ _ _
    exact h.of_frame rfl h.canonical
  · exact ahead (h.of_frame rfl h.canonical)

theorem LegalInside.lookAhead : LegalInside (lookAhead s) :=
  (lookAhead_frame s).legalInside (h.of_frame rfl h.canonical)

/-! ### One instruction -/

theorem LegalInside.issue (i : Instr) : LegalInside (issue i s) := by
  unfold Machine.issue; split
  · exact h.of_frame rfl h.canonical
  · exact h

theorem legalOutcome_runWord (w : Word) : LegalOutcome (runWord w s) := by
  unfold runWord; split
  · exact (exec_ends _ _).legalOutcome (h.issue _)
  · exact (ends_raiseReserved _ s).legalOutcome h
  · exact (ends_raise _ s).legalOutcome h

omit h in
theorem legalOutcome_waive {o : Host.Outcome State Fault Refusal} (b : State) (h : LegalOutcome o) :
    LegalOutcome (waive b o) := by
  cases o with
  | next t =>
    rw [waive]; split
    · exact (waivedKeeps_waivedLoads issuedBehind b t).legalInside h
    · exact h
  | fault f => exact h
  | refused r => exact h

theorem legalOutcome_runFetched (w : Word) : LegalOutcome (runFetched w s) := by
  unfold runFetched; split
  · exact h
  · split
    · exact legalOutcome_runWord h w
    · exact legalOutcome_waive s (legalOutcome_runWord h w)

theorem legalOutcome_runInstruction : LegalOutcome (runInstruction s) := by
  have word := legalEnd_fetch h
  unfold runInstruction; split
  · next hs => rw [hs] at word; exact legalOutcome_runFetched (LegalInside.lookAhead word) _
  · next hs =>
    rw [hs] at word
    split
    · exact LegalInside.of_frame word rfl word.canonical
    · exact (waivedKeeps_waivedLoads ..).legalInside (LegalInside.takeException word _)
  · trivial

end

/-! ### Reset, the boundary and the end of a step -/

theorem legal_freeMmu (side : Side) (k : Nat) : MmuLegal side (freeMmu side k) where
  ctl := within_or (within_and_lit _ (by cases side <;> decide)) (by cases side <;> decide)
  sap := within_and_mask _ _
  uap := within_and_mask _ _
  ir := within_and_mask _ _
  status := within_and_mask _ _

theorem resetInput_mem (s : State) : (resetInput s).mem = s.mem := by rw [resetInput]

theorem resetInput_epsr (s : State) : (resetInput s).epsr = psrLegal (Config.freeWord (s.draws + 32)) := rfl

theorem controlLegal_resetInput (s : State) : ControlLegal (resetInput s) where
  psr := (by decide : psrLegal 0xA20003FF#32 = 0xA20003FF#32)
  epsr := by rw [resetInput_epsr, psrLegal_psrLegal]
  exip := within_and_mask _ _
  enip := within_and_mask _ _
  vbr := BitVec.zero_and
  fpecr := BitVec.zero_and
  fpsr := BitVec.zero_and
  fpcr := BitVec.zero_and

/-- The machine is legal after RST, however illegal its registers were. -/
theorem legal_resetInput {s : State} (h : Memory.wf s.mem = true) : Legal (resetInput s) where
  control := controlLegal_resetInput s
  pointers := ⟨BitVec.zero_and, (by decide : 4#32 &&& 3#32 = 0#32)⟩
  sequence _ := rfl
  imu := legal_freeMmu .instr _
  dmu := legal_freeMmu .data _
  memory := by rw [resetInput_mem]; exact h
  between := rfl

theorem legal_settleHalt {b t : State} (hb : Legal b) (ht : LegalInside t) : Legal (settleHalt b t) := by
  unfold settleHalt; split
  · next running => exact (legal_iff t).2 ⟨ht, running⟩
  · next c cut =>
    have memory : Memory.wf c.mem = true := ht.canonical.2 c cut
    simp only [endHalt]; split
    · exact legal_resetInput memory
    · exact (legal_iff _).2 ⟨((legal_iff b).1 hb).1.of_frame rfl ⟨memory, nofun⟩, rfl⟩

theorem legal_applyInput {s : State} (h : Legal s) (x : Input) : Legal (applyInput s x) := by
  obtain ⟨inside, running⟩ := (legal_iff s).1 h
  cases x with
  | int a => exact (legal_iff _).2 ⟨inside.of_frame rfl inside.canonical, running⟩
  | nmi a => exact (legal_iff _).2 ⟨inside.of_frame rfl inside.canonical, running⟩
  | reset => exact legal_resetInput h.memory
  | bus t => exact legal_settleHalt h ((busKeeps_otherMaster t s).legalInside inside)

theorem legal_foldl_applyInput (xs : List Input) {s : State} (h : Legal s) : Legal (xs.foldl applyInput s) := by
  induction xs generalizing s with
  | nil => exact h
  | cons x xs ih => exact ih (legal_applyInput h x)

theorem legal_boundary {s : State} (h : Legal s) : Legal (boundary s).2 := by
  obtain ⟨inside, running⟩ := (legal_iff s).1 h
  have inputs : Legal { s with inputs := s.inputs.tail, lastExc := none } :=
    (legal_iff _).2 ⟨inside.of_frame rfl inside.canonical, running⟩
  have v := legal_foldl_applyInput (s.inputs.headD []) inputs
  simp only [boundary]; split
  · exact v
  · obtain ⟨vInside, vRunning⟩ := (legal_iff _).1 v
    refine (legal_iff _).2 ⟨LegalInside.recordFault ?_ (dataStatusBits_legal bitCp (by simp)) _ _, ?_⟩
    · exact vInside.of_frame rfl vInside.canonical
    · rw [recordFault_frame]; exact vRunning

theorem legal_endStep {b t : State} {o : Host.Outcome State Fault Refusal} (hb : Legal b) (ho : LegalOutcome o)
    (h : endStep b o = .next t) : Legal t := by
  cases o with
  | next u => cases h; exact legal_settleHalt hb ho
  | fault f => cases h
  | refused r => cases h

/-- What a step ends with before a cut of it is settled: an exception, an interrupt, or the instruction's outcome. -/
theorem legalOutcome_runStep {b : State} (h : LegalInside b) (snooped : Bool) :
    LegalOutcome (if snooped then .next (waivedLoads historyDepth b (takeException .dataAccess b))
      else
        match pendingInterrupt b with
        | none => runInstruction b
        | some e =>
          if tookDataAccess (runInstruction b) then runInstruction b
          else .next (waivedLoads historyDepth b (takeInterrupt e b))) := by
  have interrupt : ∀ e, LegalInside (takeInterrupt e b) := by
    intro e
    unfold takeInterrupt; split
    · exact (h.of_frame rfl h.canonical : LegalInside { b with nmiPending := false }).takeException e
    · exact h.takeException e
  split
  · exact (waivedKeeps_waivedLoads ..).legalInside (h.takeException _)
  · split
    · exact legalOutcome_runInstruction h
    · split
      · exact legalOutcome_runInstruction h
      · exact (waivedKeeps_waivedLoads ..).legalInside (interrupt _)

/-- Settles O58, by the ends of an instruction: the boundary, the fetch, every end of an instruction, the waived loads
and the end of a step that was cut short each keep a legal state legal. -/
theorem stepKeepsLegal : Obligations.StepKeepsLegal := by
  unfold Obligations.StepKeepsLegal
  intro s t h hs
  have b := legal_boundary h
  simp only [step, runStep] at hs
  split at hs
  · cases hs; exact b
  · exact legal_endStep b (legalOutcome_runStep ((legal_iff _).1 b).1 (boundary s).1) hs

/-! ## User mode -/

/-- What an instruction that completes may have changed is no register that only privileged software may write. -/
theorem Works.sameControl {s u t : State} (h : Works s u) (ht : t = { u with xip := t.xip, nip := t.nip, ds := t.ds }) :
    SameControl s t := by
  have psr := h.psr
  rw [h.frame] at psr ht
  rw [ht]
  exact ⟨psr, ⟨rfl, rfl, rfl⟩, rfl, ⟨rfl, rfl, rfl, rfl, rfl⟩, rfl, rfl, ⟨rfl, rfl, rfl, rfl, rfl, rfl, rfl, rfl, rfl⟩,
    ⟨rfl, rfl⟩⟩

theorem SameControl.psrMode {s t : State} (h : SameControl s t) : psrMode t = psrMode s :=
  h.psr 31 (by decide) (by decide)

/-- What entering an exception leaves in PSR and the sequence (60_exceptions.md R720, R750). -/
theorem takeException_enters_supervisor (e : Exc) (u : State) :
    let t := takeException e u
    (∃ n : BitVec 9, t.xip = u.vbr.extractLsb' 12 20 ++ n ++ 0#3) ∧ t.nip = t.xip + 4#32 ∧ t.ds = false
      ∧ psrInd t = true ∧ psrEfrz t = true ∧ psrSfd1 t = true ∧ psrSfd2 t = true := by
  refine ⟨⟨_, vectorAddress_eq u _⟩, rfl, rfl, ?_, ?_, ?_, ?_⟩
  all_goals exact takeException_psr_bit e u _ (by decide)

/-- An instruction of user mode leaves the control registers as they were, or raises an exception. -/
theorem exec_user_cases {i : Instr} {s t : State} (user : psrMode s = false) (ht : exec i s = .next t) :
    SameControl s t ∨ ∃ e u, Faults s u ∧ t = takeException e u := by
  have supervisor : psrMode s ≠ true := by simp [user]
  have ends := exec_ends i s
  rw [ht] at ends
  cases ends with
  | completes w => exact .inl (w.sameControl rfl)
  | branches n w _ => exact .inl (w.sameControl (by cases n <;> rfl))
  | passes n w => exact .inl (w.sameControl rfl)
  | raises e f => exact .inr ⟨e, _, f, rfl⟩
  | returns mode => exact (supervisor mode).elim
  | controls mode _ => exact (supervisor mode).elim
  | refuses e mode _ => exact (supervisor mode).elim

/-- Settles O59, by the ends of an instruction in user mode. -/
theorem userModeIsIsolated : Obligations.UserModeIsIsolated := by
  unfold Obligations.UserModeIsIsolated
  intro i s t user ht
  obtain same | ⟨e, u, faults, rfl⟩ := exec_user_cases user ht
  · have stays : psrMode t = false := same.psrMode.trans user
    exact ⟨fun _ _ => ⟨same, stays⟩, fun left => by simp [stays] at left⟩
  · have vbr : u.vbr = s.vbr := by rw [faults.frame]
    refine ⟨fun _ completed => (Option.some_ne_none e completed).elim, fun _ => ?_⟩
    rw [← vbr]; exact takeException_enters_supervisor e u

end Sys2Proof.Machine


/-! ## Entering an exception -/

namespace Sys2Proof.Machine

/-- Taking an exception enters its vector, or that of the error exception (60_exceptions.md R720, R750). -/
theorem enters_takeException (e : Exc) (s : State) : Enters (vectorOf e) s (takeException e s) where
  exip := by rw [← exipOf_eq]; rfl
  enip := by cases h : psrEfrz s <;> simp [takeException, h]
  epsr := rfl
  psr := takeException_psr_bit e s
  xip := vectorAddress_eq s _
  nip := rfl
  ds := rfl
  frame := rfl
  memory _ := rfl

/-- An instruction that raises an exception enters it. -/
theorem does_of_raise {i : Instr} {s : State} {e : Exc} (h : exec i s = raise e s) :
    Does i s (Enters (vectorOf e) s) := ⟨_, h, enters_takeException e s⟩

/-- FPECR with FUNIMP keeps its reserved bits zero (10_state.md R54). -/
theorem setFunimp_reserved (s : State) (i : Nat) (hi : 8 ≤ i) : (setFunimp s).fpecr.getLsbD i = false := by
  have mask : ∀ j : Fin 32, 8 ≤ j.val → (0x40#32 : Word).getLsbD j.val = false ∧ (0xBF#32 : Word).getLsbD j.val = false := by
    decide
  by_cases h : i < 32
  · simp [setFunimp, mask ⟨i, h⟩ hi]
  · exact BitVec.getLsbD_of_ge _ _ (by omega)

theorem entersUnimplemented_setFunimp (s : State) : EntersUnimplemented s (takeException .sfu1 (setFunimp s)) where
  funimp := by simp [takeException, setFunimp]
  reserved := setFunimp_reserved s
  entry := enters_takeException .sfu1 (setFunimp s)

theorem does_of_raiseFunimp {i : Instr} {s : State} (h : exec i s = raiseFunimp s) : Does i s (EntersUnimplemented s) :=
  ⟨_, h, entersUnimplemented_setFunimp s⟩

/-- A part of an instruction that traps before it has changed anything. -/
theorem does_of_trap {i : Instr} {s : State} {r : Res Unit} {e : Exc} (h : exec i s = finish r) (hr : r = .trap e s) :
    Does i s (Enters (vectorOf e) s) := does_of_raise (h.trans (congrArg finish hr))

/-! ### The checks of the floating-point and the graphics unit -/

theorem fpChecked_refused {usable : Bool} {s : State} {k : State → Host.Outcome State Fault Refusal}
    (h : psrSfd1 s = true ∨ usable = false) : fpChecked usable s k = raiseFunimp s := by
  rw [fpChecked, if_pos (by simpa using h)]

theorem fpChecked_passed {usable : Bool} {s : State} {k : State → Host.Outcome State Fault Refusal}
    (hs : psrSfd1 s = false) (hu : usable = true) : fpChecked usable s k = k s := by
  simp [fpChecked, hs, hu]

theorem gfxChecked_refused {usable : Bool} {s : State} {k : State → Host.Outcome State Fault Refusal}
    (h : psrSfd2 s = true ∨ usable = false) : gfxChecked usable s k = raise .sfu2 s := by
  rw [gfxChecked, if_pos (by simpa using h)]

/-- What makes an operand of the floating-point unit unusable (43_floating_point.md R495). -/
def FpUnusable (x : Bool) (t : FpSize) (r : RegNum) : Prop :=
  t = .unused ∨ (x = false ∧ t = .ext) ∨ (x = false ∧ t = .double ∧ r.toNat % 2 = 1)

theorem fpUsable_eq_false {x : Bool} {t : FpSize} {r : RegNum} (h : FpUnusable x t r) : fpUsable x t r = false := by
  obtain rfl | ⟨rfl, rfl⟩ | ⟨rfl, rfl, odd⟩ := h
  · rfl
  · rfl
  · simp [fpUsable, oddReg_eq, odd]

theorem fpUsable_moveSize {dbl : Bool} {r : RegNum} (h : dbl = true ∧ r.toNat % 2 = 1) :
    fpUsable false (moveSize dbl) r = false := by
  obtain ⟨rfl, odd⟩ := h
  exact fpUsable_eq_false (.inr (.inr ⟨rfl, rfl, odd⟩))

theorem does_fpRefused {i : Instr} {s : State} {usable : Bool} {k : State → Host.Outcome State Fault Refusal}
    (h : exec i s = fpChecked usable s k) (refused : psrSfd1 s = true ∨ usable = false) : Does i s (EntersUnimplemented s) :=
  does_of_raiseFunimp (h.trans (fpChecked_refused refused))

theorem execMovToGrf_refused {s : State} {d s2 : RegNum} {dbl : Bool}
    (h : psrSfd1 s = true ∨ fpUsable false (moveSize dbl) d = false) : execMovToGrf d dbl s2 s = raiseFunimp s :=
  fpChecked_refused h

theorem execMovToXrf_refused {s : State} {d s2 : RegNum} {dbl : Bool}
    (h : psrSfd1 s = true ∨ fpUsable false (moveSize dbl) s2 = false) : execMovToXrf d dbl s2 s = raiseFunimp s :=
  fpChecked_refused h

theorem execMovXrf_refused {s : State} {d s2 : RegNum} (h : psrSfd1 s = true) : execMovXrf d s2 s = raiseFunimp s :=
  fpChecked_refused (.inl h)

/-- Settles O34: each of the listed causes fails the checks that every SFU1 instruction begins with. -/
theorem floatingUnimplementedCases : Obligations.FloatingUnimplementedCases := by
  unfold Obligations.FloatingUnimplementedCases
  intro s x dbl t1 t2 td d s1 s2 bad off goes
  have usable {y : Bool} {t : FpSize} {r : RegNum} (h : bad y t r) : fpUsable y t r = false := fpUsable_eq_false h
  refine ⟨fun h => ?_, fun h => ?_, fun h => ?_, fun h => ?_, fun h => ?_, fun h => ?_, fun h => ?_, fun h => ?_⟩
  · have refused : psrSfd1 s = true ∨ (fpUsable x t1 s1 && fpUsable x t2 s2 && fpUsable x td d) = false := by
      obtain h | h | h | h := h
      · exact .inl h
      all_goals simp [usable h]
    exact ⟨does_fpRefused rfl refused, does_fpRefused rfl refused, does_fpRefused rfl refused, does_fpRefused rfl refused⟩
  · have refused : psrSfd1 s = true ∨ (fpUsable x t2 s2 && fpUsable x td d) = false := by
      obtain h | h | h := h
      · exact .inl h
      all_goals simp [usable h]
    exact does_fpRefused rfl refused
  · exact does_fpRefused rfl (h.imp_right usable)
  · have refused : psrSfd1 s = true ∨ (fpUsable x t1 s1 && fpUsable x t2 s2) = false := by
      obtain h | h | h := h
      · exact .inl h
      all_goals simp [usable h]
    exact ⟨does_fpRefused rfl refused, does_fpRefused rfl refused⟩
  · have refused := h.imp_right usable
    exact ⟨does_fpRefused rfl refused, does_fpRefused rfl refused, does_fpRefused rfl refused⟩
  · exact does_of_raiseFunimp (execMovToGrf_refused (h.imp_right fpUsable_moveSize))
  · exact does_of_raiseFunimp (execMovToXrf_refused (h.imp_right fpUsable_moveSize))
  · exact does_of_raiseFunimp (execMovXrf_refused h)

theorem ppackLegal_eq_false {p : PackSize} {r : BitVec 4}
    (h : (p, r) ∉ [(.byte, 8#4), (.half, 4#4), (.half, 8#4), (.word, 2#4), (.word, 4#4), (.word, 8#4)]) :
    ppackLegal r p = false := by
  cases p <;> simp_all [ppackLegal]

section
variable {s : State} {d s1 s2 : RegNum}

theorem pixelOp_refused {f : Nat → Nat → Nat → Nat} {p : PackSize}
    (h : psrSfd2 s = true ∨ (p.addLegal && !oddReg d && !oddReg s1 && !oddReg s2) = false) :
    pixelOp f d s1 p s2 s = raise .sfu2 s := gfxChecked_refused h

theorem execPcmp_refused (h : psrSfd2 s = true ∨ (!oddReg s1 && !oddReg s2) = false) :
    execPcmp d s1 s2 s = raise .sfu2 s := gfxChecked_refused h

theorem execPmul_refused (h : psrSfd2 s = true ∨ (!oddReg d && !oddReg s2) = false) :
    execPmul d s1 s2 s = raise .sfu2 s := gfxChecked_refused h

theorem execPpack_refused {p : PackSize} {r : BitVec 4}
    (h : psrSfd2 s = true ∨ (ppackLegal r p && !oddReg d && !oddReg s1 && !oddReg s2) = false) :
    execPpack d s1 r p s2 s = raise .sfu2 s := gfxChecked_refused h

theorem execPunpk_refused {p : PackSize} (h : psrSfd2 s = true ∨ (p.unpackLegal && !oddReg d) = false) :
    execPunpk d s1 p s = raise .sfu2 s := gfxChecked_refused h

theorem execProtImm_refused {r : BitVec 4} (h : psrSfd2 s = true ∨ (!oddReg d && !oddReg s1) = false) :
    execProtImm d s1 r s = raise .sfu2 s := gfxChecked_refused h

theorem execProtReg_refused (h : psrSfd2 s = true ∨ (!oddReg d && !oddReg s1) = false) :
    execProtReg d s1 s2 s = raise .sfu2 s := gfxChecked_refused h

end

theorem does_of_raiseSfu2 {i : Instr} {s : State} (h : exec i s = raise .sfu2 s) : Does i s (Enters 116#9 s) :=
  does_of_raise h

/-- Settles O40: each of the listed causes fails the checks that every graphics instruction begins with. -/
theorem graphicsExceptions : Obligations.GraphicsExceptions := by
  unfold Obligations.GraphicsExceptions
  intro s d s1 s2 p r off odd goes
  have isOdd {q : RegNum} (h : odd q) : (!oddReg q) = false := by
    rw [oddReg_eq, decide_eq_true (show q.toNat % 2 = 1 from h), Bool.not_true]
  refine ⟨fun h => ?_, fun h => ?_, fun h => ?_, fun h => ?_, fun h => ?_, fun h => ?_⟩
  · have refused : ∀ f, pixelOp f d s1 p s2 s = raise .sfu2 s := fun f => pixelOp_refused <| by
      obtain h | h | h | h | rfl := h
      · exact .inl h
      · simp [isOdd h]
      · simp [isOdd h]
      · simp [isOdd h]
      · exact .inr rfl
    exact ⟨does_of_raiseSfu2 (refused _), does_of_raiseSfu2 (refused _), does_of_raiseSfu2 (refused _), does_of_raiseSfu2 (refused _),
      does_of_raiseSfu2 (refused _), does_of_raiseSfu2 (refused _), does_of_raiseSfu2 (refused _), does_of_raiseSfu2 (refused _)⟩
  · refine does_of_raiseSfu2 (execPcmp_refused ?_)
    obtain h | h | h := h
    · exact .inl h
    all_goals simp [isOdd h]
  · refine does_of_raiseSfu2 (execPmul_refused ?_)
    obtain h | h | h := h
    · exact .inl h
    all_goals simp [isOdd h]
  · refine does_of_raiseSfu2 (execPpack_refused ?_)
    obtain h | h | h | h | h := h
    · exact .inl h
    · simp [isOdd h]
    · simp [isOdd h]
    · simp [isOdd h]
    · simp [ppackLegal_eq_false h]
  · refine does_of_raiseSfu2 (execPunpk_refused ?_)
    obtain h | h | rfl := h
    · exact .inl h
    · simp [isOdd h]
    · exact .inr rfl
  · have refused : psrSfd2 s = true ∨ (!oddReg d && !oddReg s1) = false := by
      obtain h | h | h := h
      · exact .inl h
      all_goals simp [isOdd h]
    exact ⟨does_of_raiseSfu2 (execProtImm_refused refused), does_of_raiseSfu2 (execProtReg_refused refused)⟩

/-! ### The checks before a memory access -/

section
variable {s : State} {usr wt : Bool} {n : Nat} {ea : Word} {put : State → Nat → State} {d : RegNum}

theorem loadInto_privilege (h : usrViolation s usr = true) : loadInto usr n ea put s = .trap .privilege s := by
  simp [loadInto, loadValue, h]

theorem storeValue_privilege {v : Nat} (h : usrViolation s usr = true) :
    storeValue usr wt n ea v s = .trap .privilege s := by
  simp [storeValue, h]

theorem exchangeReg_privilege (h : usrViolation s usr = true) : exchangeReg d usr n ea s = .trap .privilege s := by
  simp [exchangeReg, exchangeAt, h]

theorem loadB_privilege (h : usrViolation s usr = true) : loadB d usr ea s = .trap .privilege s := by
  unfold loadB; split
  · simp [touchLoad, h]
  · exact loadInto_privilege h

theorem loadH_privilege (h : usrViolation s usr = true) : loadH d usr ea s = .trap .privilege s := by
  unfold loadH; split
  · simp [allocateLoad, h]
  · exact loadInto_privilege h

theorem loadW_privilege (h : usrViolation s usr = true) : loadW d usr ea s = .trap .privilege s := by
  unfold loadW; split
  · simp [flushLoad, h]
  · exact loadInto_privilege h

theorem loadD_privilege (h : usrViolation s usr = true) : loadD d usr ea s = .trap .privilege s := by
  simp [loadD, h]

theorem storeD_privilege (h : usrViolation s usr = true) : storeD d usr wt ea s = .trap .privilege s := by
  simp [storeD, h]

theorem loadD_odd (hv : usrViolation s usr = false) (hd : oddReg d = true) :
    loadD d usr ea s = .trap .unimplementedOpcode s := by
  simp [loadD, hv, hd]

theorem storeD_odd (hv : usrViolation s usr = false) (hd : oddReg d = true) :
    storeD d usr wt ea s = .trap .unimplementedOpcode s := by
  simp [storeD, hv, hd]

theorem loadInto_misaligned (hv : usrViolation s usr = false) (ha : alignAddr s n ea = none) :
    loadInto usr n ea put s = .trap .misaligned s := by
  simp [loadInto, loadValue, hv, ha]

theorem storeValue_misaligned {v : Nat} (hv : usrViolation s usr = false) (ha : alignAddr s n ea = none) :
    storeValue usr wt n ea v s = .trap .misaligned s := by
  simp [storeValue, hv, ha]

theorem exchangeReg_misaligned (hv : usrViolation s usr = false) (ha : alignAddr s n ea = none) :
    exchangeReg d usr n ea s = .trap .misaligned s := by
  simp [exchangeReg, exchangeAt, hv, ha]

theorem loadH_misaligned (hd : d ≠ 0#5) (hv : usrViolation s usr = false) (ha : alignAddr s 2 ea = none) :
    loadH d usr ea s = .trap .misaligned s := by
  rw [loadH, if_neg hd]; exact loadInto_misaligned hv ha

theorem loadW_misaligned (hv : usrViolation s usr = false) (ha : alignAddr s 4 ea = none) :
    loadW d usr ea s = .trap .misaligned s := by
  unfold loadW; split
  · simp [flushLoad, hv, ha]
  · exact loadInto_misaligned hv ha

theorem loadD_misaligned (hd : oddReg d = false) (hv : usrViolation s usr = false) (ha : alignAddr s 8 ea = none) :
    loadD d usr ea s = .trap .misaligned s := by
  simp only [loadD, hv, hd, Bool.false_eq_true, if_false]
  exact loadInto_misaligned hv ha

theorem storeD_misaligned (hd : oddReg d = false) (hv : usrViolation s usr = false) (ha : alignAddr s 8 ea = none) :
    storeD d usr wt ea s = .trap .misaligned s := by
  simp only [storeD, hv, hd, Bool.false_eq_true, if_false]
  exact storeValue_misaligned hv ha

end

/-- Settles O49: the checks in the order privilege, odd pair, alignment, each for the functions all forms share. -/
theorem memoryInstructionChecks : Obligations.MemoryInstructionChecks := by
  unfold Obligations.MemoryInstructionChecks
  intro s d s1 s2 scaled usr wt imm violation even privilege odd misImm misReg
  have user (h : violation) : usrViolation s usr = true := by simp [usrViolation, h.1, h.2]
  have free (h : ¬ violation) : usrViolation s usr = false := by
    simp only [usrViolation]
    cases hu : usr
    · rfl
    · cases hm : psrMode s
      · exact (h ⟨hu, hm⟩).elim
      · rfl
  have isOdd (h : ¬ even) : oddReg d = true := by
    have h : ¬ d.toNat % 2 = 0 := h
    rw [oddReg_eq]; exact decide_eq_true (by omega)
  have isEven (h : even) : oddReg d = false := by
    have h : d.toNat % 2 = 0 := h
    rw [oddReg_eq]; exact decide_eq_false (by omega)
  refine ⟨⟨?_, ?_, ?_, ?_, ?_, ?_, ?_, ?_, ?_, ?_, ?_, ?_, ?_, ?_, ?_, ?_, ?_, ?_⟩, ⟨?_, ?_, ?_, ?_⟩,
    ⟨?_, ?_, ?_, ?_, ?_, ?_, ?_, ?_, ?_, ?_, ?_, ?_, ?_⟩, ⟨?_, ?_, ?_, ?_, ?_, ?_, ?_, ?_, ?_, ?_, ?_, ?_, ?_, ?_⟩⟩
  · exact fun h => does_of_trap rfl (loadB_privilege (user h))
  · exact fun h => does_of_trap rfl (loadInto_privilege (user h))
  · exact fun h => does_of_trap rfl (loadH_privilege (user h))
  · exact fun h => does_of_trap rfl (loadInto_privilege (user h))
  · exact fun h => does_of_trap rfl (loadW_privilege (user h))
  · exact fun h => does_of_trap rfl (loadD_privilege (user h))
  · exact fun h => does_of_trap rfl (loadInto_privilege (user h))
  · exact fun h => does_of_trap rfl (loadInto_privilege (user h))
  · exact fun h => does_of_trap rfl (loadInto_privilege (user h))
  · exact fun h => does_of_trap rfl (storeValue_privilege (user h))
  · exact fun h => does_of_trap rfl (storeValue_privilege (user h))
  · exact fun h => does_of_trap rfl (storeValue_privilege (user h))
  · exact fun h => does_of_trap rfl (storeD_privilege (user h))
  · exact fun h => does_of_trap rfl (storeValue_privilege (user h))
  · exact fun h => does_of_trap rfl (storeValue_privilege (user h))
  · exact fun h => does_of_trap rfl (storeValue_privilege (user h))
  · exact fun h => does_of_trap rfl (exchangeReg_privilege (user h))
  · exact fun h => does_of_trap rfl (exchangeReg_privilege (user h))
  · exact fun _ h => does_of_trap rfl (loadD_odd rfl (isOdd h))
  · exact fun _ h => does_of_trap rfl (storeD_odd rfl (isOdd h))
  · exact fun hv h => does_of_trap rfl (loadD_odd (free hv) (isOdd h))
  · exact fun hv h => does_of_trap rfl (storeD_odd (free hv) (isOdd h))
  · exact fun h => does_of_trap rfl (loadInto_misaligned rfl h)
  · exact fun hd h => does_of_trap rfl (loadH_misaligned hd rfl h)
  · exact fun h => does_of_trap rfl (loadW_misaligned rfl h)
  · exact fun he h => does_of_trap rfl (loadD_misaligned (isEven he) rfl h)
  · exact fun h => does_of_trap rfl (loadInto_misaligned rfl h)
  · exact fun h => does_of_trap rfl (loadInto_misaligned rfl h)
  · exact fun h => does_of_trap rfl (loadInto_misaligned rfl h)
  · exact fun h => does_of_trap rfl (storeValue_misaligned rfl h)
  · exact fun h => does_of_trap rfl (storeValue_misaligned rfl h)
  · exact fun he h => does_of_trap rfl (storeD_misaligned (isEven he) rfl h)
  · exact fun h => does_of_trap rfl (storeValue_misaligned rfl h)
  · exact fun h => does_of_trap rfl (storeValue_misaligned rfl h)
  · exact fun h => does_of_trap rfl (storeValue_misaligned rfl h)
  · exact fun hv h => does_of_trap rfl (loadInto_misaligned (free hv) h)
  · exact fun hd hv h => does_of_trap rfl (loadH_misaligned hd (free hv) h)
  · exact fun hv h => does_of_trap rfl (loadW_misaligned (free hv) h)
  · exact fun he hv h => does_of_trap rfl (loadD_misaligned (isEven he) (free hv) h)
  · exact fun hv h => does_of_trap rfl (loadInto_misaligned (free hv) h)
  · exact fun hv h => does_of_trap rfl (loadInto_misaligned (free hv) h)
  · exact fun hv h => does_of_trap rfl (loadInto_misaligned (free hv) h)
  · exact fun hv h => does_of_trap rfl (storeValue_misaligned (free hv) h)
  · exact fun hv h => does_of_trap rfl (storeValue_misaligned (free hv) h)
  · exact fun he hv h => does_of_trap rfl (storeD_misaligned (isEven he) (free hv) h)
  · exact fun hv h => does_of_trap rfl (storeValue_misaligned (free hv) h)
  · exact fun hv h => does_of_trap rfl (storeValue_misaligned (free hv) h)
  · exact fun hv h => does_of_trap rfl (storeValue_misaligned (free hv) h)
  · exact fun hv h => does_of_trap rfl (exchangeReg_misaligned (free hv) h)

end Sys2Proof.Machine


/-! ## Registers and reset -/

namespace Sys2Proof.Machine

/-- Settles O6: a read after a write of either register file. -/
theorem registersReadWhatWasWritten : Obligations.RegistersReadWhatWasWritten := by
  unfold Obligations.RegistersReadWhatWasWritten
  intro s d r v x
  exact ⟨readReg_zero s, writeReg_zero s v, readReg_writeReg s d r v, readX_zero s, by rw [writeX_zero],
    readX_writeX s d r x⟩

/-- Settles O57. -/
theorem resetIsLegal : Obligations.ResetIsLegal where
  control := ⟨by decide, by decide, by decide, by decide, by decide, by decide, by decide, by decide⟩
  pointers := ⟨by decide, by decide⟩
  sequence _ := by decide
  imu := ⟨by decide, by decide, by decide, by decide, by decide⟩
  dmu := ⟨by decide, by decide, by decide, by decide, by decide⟩
  memory := reset_memory_wf
  between := rfl

/-! ### Reset -/

/-- Of ICTL and DCTL outside the size mask only HTEN, bit 6, is one. -/
def OnlyHten (c : Word) : Prop := ∀ i, i < 32 → ¬ (16 ≤ i ∧ i ≤ 22) → c.getLsbD i = decide (i = 6)

/-- What 70_reset_and_hazards.md R800 says of the machine after reset. -/
structure AfterReset (t : State) : Prop where
  xip : t.xip = 0#32
  nip : t.nip = 4#32
  ds : t.ds = false
  psr : t.psr = 0xA20003FF#32
  vbr : t.vbr = 0#32
  fpecr : t.fpecr = 0#32
  fpcr : t.fpcr = 0#32
  fpsr : t.fpsr = 0#32
  nmiPending : t.nmiPending = false
  stuck : t.stuck = false
  prefetched : t.prefetched = []
  imu : OnlyHten t.imu.ctl
  dmu : OnlyHten t.dmu.ctl

theorem onlyHten_masked (v : Word) : OnlyHten ((v &&& 0x007F0000#32) ||| 0x00000040#32) := by
  intro i hi outside
  have mask : ∀ j : Fin 32, (0x007F0000#32 : Word).getLsbD j.val = decide (16 ≤ j.val ∧ j.val ≤ 22) := by decide
  have hten : (0x00000040#32 : Word).getLsbD i = decide (i = 6) := getLsbD_twoPow_lit 6 i (by decide)
  rw [BitVec.getLsbD_or, BitVec.getLsbD_and, mask ⟨i, hi⟩, decide_eq_false outside, Bool.and_false, Bool.false_or, hten]

theorem afterReset_reset : AfterReset State.reset :=
  ⟨rfl, rfl, rfl, rfl, rfl, rfl, rfl, rfl, rfl, rfl, rfl, onlyHten_masked 0#32, onlyHten_masked 0#32⟩

theorem afterReset_resetInput (s : State) : AfterReset (resetInput s) :=
  ⟨rfl, rfl, rfl, rfl, rfl, rfl, rfl, rfl, rfl, rfl, rfl, onlyHten_masked _, onlyHten_masked _⟩

/-- What RST leaves as it was: the memory and the arrays, and the inputs still to come. -/
theorem resetInput_keeps (s : State) : let t := resetInput s
    t.mem = s.mem ∧ t.icache = s.icache ∧ t.dcache = s.dcache ∧ t.tic = s.tic ∧ t.inputs = s.inputs
      ∧ t.halted = none := by
  unfold resetInput
  exact ⟨rfl, rfl, rfl, rfl, rfl, rfl⟩

theorem boundary_reset {s : State} {rest : List (List Input)} (h : s.inputs = [.reset] :: rest) :
    boundary s = (false, resetInput { s with inputs := rest, lastExc := none }) := by
  simp only [boundary, h]
  rfl

theorem endStep_abandoned {c : Cut} {x : BusTxn} {s b u : State} (running : s.halted = none)
    (cut : u.halted = (abandon c x s).halted) :
    endStep b (.next u) = .next (endHalt b (haltOf c.reset (logTxn s { x with error := true }))) := by
  rw [abandon_halted, running] at cut
  rw [endStep, settleHalt, cut]
  rfl

/-- The memory and the arrays of a step that was cut short are those of the moment of the cut. -/
theorem endHalt_keeps (b : State) (h : Halt) : let t := endHalt b h
    t.mem = h.mem ∧ t.icache = h.icache ∧ t.dcache = h.dcache ∧ t.tic = h.tic ∧ t.inputs = b.inputs
      ∧ t.halted = none := by
  simp only [endHalt]; split
  · exact resetInput_keeps _
  · exact ⟨rfl, rfl, rfl, rfl, rfl, rfl⟩

/-- RST resets the machine at the end of the step it cuts short. -/
theorem afterReset_endHalt (b : State) {h : Halt} (reset : h.reset = true) : AfterReset (endHalt b h) := by
  rw [endHalt, if_pos reset]; exact afterReset_resetInput _

/-- A transaction that never ends leaves the machine waiting, its registers those of the step's start. -/
theorem endHalt_waits (b : State) {h : Halt} (waits : h.reset = false) : let t := endHalt b h
    t.stuck = true ∧ t.gpr = b.gpr ∧ t.psr = b.psr ∧ t.xip = b.xip := by
  simp [endHalt, waits]

/-- Settles O56: the state after reset, after RST at a boundary, and at the end of a step that was cut short. -/
theorem resetState : Obligations.ResetState := by
  unfold Obligations.ResetState
  intro holds kept
  have after {t : State} (h : AfterReset t) : holds t :=
    ⟨h.xip, h.nip, h.ds, h.psr, h.vbr, h.fpecr, h.fpcr, h.fpsr, h.nmiPending, h.stuck, h.prefetched,
      fun i hi outside => ⟨h.imu i hi outside, h.dmu i hi outside⟩⟩
  refine ⟨after afterReset_reset, fun s rest inputs => ?_, fun c x s b u running cut => ?_⟩
  · rw [boundary_reset inputs]
    obtain ⟨mem, icache, dcache, tic, left, halted⟩ := resetInput_keeps { s with inputs := rest, lastExc := none }
    exact ⟨after (afterReset_resetInput _), ⟨mem, icache, dcache, tic⟩, rfl, left, halted⟩
  · obtain ⟨mem, icache, dcache, tic, left, halted⟩ :=
      endHalt_keeps b (haltOf c.reset (logTxn s { x with error := true }))
    refine ⟨_, endStep_abandoned running cut, ⟨mem, icache, dcache, tic⟩, left, halted, ?_⟩
    split
    · next reset => exact after (afterReset_endHalt b reset)
    · next waits => exact endHalt_waits b (Bool.eq_false_of_not_eq_true waits)

end Sys2Proof.Machine


/-! ## Extended registers and loads in the plain setting -/

namespace Sys2Proof.Machine

/-! ### Writes of extended registers -/

/-- Bits below place n do not reach the number above it. -/
theorem high_or_low {n : Nat} (a b low : XWord) (h : low.toNat < 2 ^ n) :
    (a ||| (b &&& low)).toNat / 2 ^ n = a.toNat / 2 ^ n := by
  have small : (b.toNat &&& low.toNat) >>> n = 0 := by
    rw [Nat.shiftRight_eq_div_pow, Nat.div_eq_of_lt (Nat.lt_of_le_of_lt Nat.and_le_right h)]
  rw [BitVec.toNat_or, BitVec.toNat_and, ← Nat.shiftRight_eq_div_pow, Nat.shiftRight_or_distrib, small, Nat.or_zero,
    Nat.shiftRight_eq_div_pow]

theorem toNat_append_zero {w n : Nat} (v : BitVec w) : (v ++ 0#n).toNat = v.toNat * 2 ^ n := by
  rw [BitVec.toNat_append, BitVec.toNat_ofNat, Nat.zero_mod, Nat.or_zero, Nat.shiftLeft_eq]

theorem extractLsb'_append_zero {w n : Nat} (v : BitVec w) : (v ++ 0#n).extractLsb' n w = v := by
  apply BitVec.eq_of_toNat_eq
  rw [BitVec.extractLsb'_toNat, toNat_append_zero, Nat.shiftRight_eq_div_pow, Nat.mul_div_cancel _ (by positivity),
    Nat.mod_eq_of_lt v.isLt]

theorem extractLsb'_extractLsb' {w i n j m : Nat} (v : BitVec w) (h : j + m ≤ n) :
    (v.extractLsb' i n).extractLsb' j m = v.extractLsb' (i + j) m := by
  ext k hk
  simp only [BitVec.getElem_extractLsb', BitVec.getLsbD_extractLsb', decide_eq_true (show j + k < n by omega),
    Bool.true_and, Nat.add_assoc]

theorem writeXNarrow_frame (s : State) (d : RegNum) (low v : XWord) :
    let t := writeXNarrow s d low v
    t = { s with xrf := t.xrf, fpsr := t.fpsr, draws := t.draws } := by
  simp only [writeXNarrow]; split
  · rfl
  · rw [writeX_frame]; rfl

theorem readX_writeXNarrow (s : State) (d r : RegNum) (low v : XWord) :
    readX (writeXNarrow s d low v) r
      = if r = d ∧ d ≠ 0#5 then v ||| (Config.freeX s.draws &&& low) else readX s r := by
  unfold writeXNarrow; split
  · next h => simp [h]
  · rw [readX_writeX, readX_congr (drawn_xrf s)]

theorem writeXNarrow_fpsr_bit (s : State) (d : RegNum) (low v : XWord) (i : Nat) :
    (writeXNarrow s d low v).fpsr.getLsbD i = ((decide (i = 16) && d != 0#5) || s.fpsr.getLsbD i) := by
  unfold writeXNarrow; split
  · next h => simp [h]
  · rw [writeX_fpsr_bit, drawn_fpsr]

/-- What an instruction that writes the high w bits of x[d] and falls through leaves (43_floating_point.md R513). -/
structure FallsThroughX (d : RegNum) (w v : Nat) (s t : State) : Prop where
  writes : WritesX d w v s t
  registers : SameRegisters s t
  memory : SameMemory s t
  frame : t = { s with
    xrf := t.xrf, fpsr := t.fpsr, draws := t.draws, xip := s.nip, nip := s.nip + 4#32, ds := false }

theorem fallsThroughX_writeX (s : State) (d : RegNum) (v : XWord) :
    FallsThroughX d 80 v.toNat s (advance (writeX s d v)) where
  writes :=
    { value := fun h => by rw [readX_congr (advance_xrf _), readX_writeX, if_pos ⟨rfl, h⟩, Nat.sub_self, pow_zero, Nat.div_one]
      others := fun r h => by rw [readX_congr (advance_xrf _), readX_writeX, if_neg fun k => k.2 (h k.1)]
      fpsr := fun i _ => by rw [advance_fpsr, writeX_fpsr_bit] }
  registers r := readReg_congr (by simp) r
  memory a := readByte_congr (by simp) a
  frame := by rw [writeX_frame]; rfl

theorem fallsThroughX_writeXNarrow (s : State) (d : RegNum) {low : XWord} (v : XWord) {w : Nat}
    (hlow : low.toNat < 2 ^ (80 - w)) :
    FallsThroughX d w (v.toNat / 2 ^ (80 - w)) s (advance (writeXNarrow s d low v)) where
  writes :=
    { value := fun h => by
        rw [readX_congr (advance_xrf _), readX_writeXNarrow, if_pos ⟨rfl, h⟩, high_or_low _ _ _ hlow]
      others := fun r h => by rw [readX_congr (advance_xrf _), readX_writeXNarrow, if_neg fun k => k.2 (h k.1)]
      fpsr := fun i _ => by rw [advance_fpsr, writeXNarrow_fpsr_bit] }
  registers r := readReg_congr (by rw [writeXNarrow_frame]; rfl) r
  memory a := readByte_congr (by rw [writeXNarrow_frame]; rfl) a
  frame := by rw [writeXNarrow_frame]; rfl

theorem fallsThroughX_writeXSingle (s : State) (d : RegNum) (v : Word) :
    FallsThroughX d 32 v.toNat s (advance (writeXSingle s d v)) := by
  have h := fallsThroughX_writeXNarrow s d (low := 0x00000000FFFFFFFFFFFF#80) (v ++ 0#48) (w := 32) (by decide)
  rwa [toNat_append_zero, Nat.mul_div_cancel _ (by positivity)] at h

theorem fallsThroughX_writeXDouble (s : State) (d : RegNum) (v : DWord) :
    FallsThroughX d 64 v.toNat s (advance (writeXDouble s d v)) := by
  have h := fallsThroughX_writeXNarrow s d (low := 0x0000000000000000FFFF#80) (v ++ 0#16) (w := 64) (by decide)
  rwa [toNat_append_zero, Nat.mul_div_cancel _ (by positivity)] at h

/-! ### Moves -/

section
variable {s : State} {d s2 : RegNum} {dbl : Bool}

theorem execMovToGrf_passed (hs : psrSfd1 s = false) (hu : fpUsable false (moveSize dbl) d = true) :
    execMovToGrf d dbl s2 s = done (fpWrite s false (moveSize dbl) d (readX s s2)) := fpChecked_passed hs hu

theorem execMovToXrf_passed (hs : psrSfd1 s = false) (hu : fpUsable false (moveSize dbl) s2 = true) :
    execMovToXrf d dbl s2 s = done (fpWrite s true (moveSize dbl) d (fpOperand s false (moveSize dbl) s2)) :=
  fpChecked_passed hs hu

theorem execMovToXrf_single (hs : psrSfd1 s = false) :
    execMovToXrf d false s2 s = done (writeXSingle s d (readReg s s2)) := by
  rw [execMovToXrf_passed hs rfl]
  simp only [moveSize, fpWrite, fpOperand, Bool.false_eq_true, if_false, if_true, extractLsb'_append_zero]

theorem execMovToXrf_double (hs : psrSfd1 s = false) (hu : fpUsable false .double s2 = true) :
    execMovToXrf d true s2 s = done (writeXDouble s d (readPair s s2)) := by
  rw [execMovToXrf_passed (dbl := true) hs hu]
  simp only [moveSize, fpWrite, fpOperand, Bool.false_eq_true, if_false, if_true, extractLsb'_append_zero]

theorem execMovXrf_passed (hs : psrSfd1 s = false) : execMovXrf d s2 s = done (writeX s d (readX s s2)) :=
  fpChecked_passed hs rfl

theorem fpUsable_double_even {r : RegNum} (h : r.toNat % 2 = 0) : fpUsable false .double r = true := by
  simp [fpUsable, FpSize.legal, oddReg_eq, h]

end

/-- Settles O33: each move passes the checks and is one register write. -/
theorem extendedRegisterMoves : Obligations.ExtendedRegisterMoves := by
  unfold Obligations.ExtendedRegisterMoves
  intro s d s2 enabled out
  have moved {w v : Nat} {t : State} (h : FallsThroughX d w v s t) : out w v t :=
    ⟨h.writes, h.registers, h.memory, h.frame⟩
  refine ⟨?_, fun even => ?_, ?_, fun even => ?_, ?_⟩
  · exact does_of_result (execMovToGrf_passed enabled rfl)
  · have halves : ((readX s s2).extractLsb' 16 64).extractLsb' 32 32 = (readX s s2).extractLsb' 48 32
        ∧ ((readX s s2).extractLsb' 16 64).extractLsb' 0 32 = (readX s s2).extractLsb' 16 32 := by
      exact ⟨extractLsb'_extractLsb' _ (by omega), extractLsb'_extractLsb' _ (by omega)⟩
    rw [← halves.1, ← halves.2]
    exact ⟨_, execMovToGrf_passed enabled (fpUsable_double_even even), setsPair_advance_writePair s d _ even⟩
  · exact ⟨_, execMovToXrf_single enabled, moved (fallsThroughX_writeXSingle s d _)⟩
  · rw [← readPair_toNat]
    exact ⟨_, execMovToXrf_double enabled (fpUsable_double_even even), moved (fallsThroughX_writeXDouble s d _)⟩
  · exact ⟨_, execMovXrf_passed enabled, moved (fallsThroughX_writeX s d (readX s s2))⟩

/-! ### The value of an operand in memory -/

theorem numberBE_bytesBE (n v : Nat) : numberBE (bytesBE n v) = v % 256 ^ n := by
  have fold : ∀ n acc, (bytesBE n v).foldl (fun acc b => acc * 256 + b.toNat) acc = acc * 256 ^ n + v % 256 ^ n := by
    intro n
    induction n with
    | zero => intro acc; simp [bytesBE, Nat.mod_one]
    | succ n ih =>
      intro acc
      rw [bytesBE, List.foldl_cons, ih, Nat.mod_pow_succ, BitVec.toNat_ofNat]
      ring
  simpa [numberBE] using fold n 0

theorem operandValue_operandBytes (s : State) (n v : Nat) : operandValue s (operandBytes s n v) = v % 256 ^ n := by
  unfold operandValue operandBytes
  cases psrBo s <;> simp [numberBE_bytesBE]

/-- The bytes of memory at an operand are the operand's bytes. -/
theorem HeldAt.readBytes {s : State} {a : Word} {n v : Nat} (h : HeldAt s a n v) :
    readBytes s a n = operandBytes s n v := by
  refine List.ext_getElem (by simp) fun k h1 h2 => BitVec.eq_of_toNat_eq ?_
  have hk : k < n := by simpa using h1
  rw [← List.getD_eq_getElem _ 0#8 h1, ← List.getD_eq_getElem _ 0#8 h2, readBytes_getD s a n k hk, operandBytes_getD s n v k hk,
    h.bytes k hk]

/-- An operand held in memory reads as its value. -/
theorem HeldAt.operandValue {s : State} {a : Word} {n v : Nat} (h : HeldAt s a n v) :
    operandValue s (Machine.readBytes s a n) = v := by
  rw [h.readBytes, operandValue_operandBytes, Nat.mod_eq_of_lt h.bound]

theorem readBytes_congr {s t : State} (h : t.mem = s.mem) (a : Word) (n : Nat) : readBytes t a n = readBytes s a n := by
  induction n generalizing a with
  | zero => rfl
  | succ n ih => rw [readBytes, readBytes, ih, readByte_congr h]

theorem readBytes_add (s : State) (a : Word) (m n : Nat) :
    readBytes s a (m + n) = readBytes s a m ++ readBytes s (a + BitVec.ofNat 32 m) n := by
  induction m generalizing a with
  | zero => simp [readBytes]
  | succ m ih =>
    have next : a + 1#32 + BitVec.ofNat 32 m = a + BitVec.ofNat 32 (m + 1) := by
      rw [BitVec.add_assoc, Nat.add_comm m 1, BitVec.ofNat_add]
    rw [Nat.add_right_comm, readBytes, ih, next, readBytes, List.cons_append]

/-! ### Loads in the plain setting -/

theorem PlainData.logTxn {s : State} {a : Word} (h : PlainData s a) (x : BusTxn) : PlainData (logTxn s x) a :=
  ⟨h.mmu, h.cache, h.bp0, h.bp1, h.memory, h.idle⟩

theorem readOperand_quad {x : Xlate} {su : Bool} {s t u : State} {low high : List Byte}
    (first : dataRead (dataReq x su 8 false) 8 s = .ok low t)
    (second : dataRead (dataReq ⟨x.pa + 8#32, x.attr⟩ su 8 false) 8 t = .ok high u) :
    readOperand x su 16 s = .ok (low ++ high) u := by
  simp only [readOperand, if_true, first, second]

/-- In the plain setting a quad word is read as its two double words, at the lower address first. -/
theorem PlainData.readAt_quad {s : State} {a : Word} (h : PlainData s a) (upper : PlainData s (a + 8#32)) (su : Bool) :
    ∃ x y, Machine.readAt su 16 a s = .ok (readBytes s a 16) (Machine.logTxn (Machine.logTxn s x) y) := by
  let low := dataReq (identity s.dmu su a) su 8 false
  let high := dataReq ⟨(identity s.dmu su a).pa + 8#32, (identity s.dmu su a).attr⟩ su 8 false
  let x := reqTxn low true
  let y := reqTxn high true
  have first : Machine.dataRead low 8 s = .ok (readBytes s a 8) (Machine.logTxn s x) := h.dataRead low rfl 8
  have second : Machine.dataRead high 8 (Machine.logTxn s x)
      = .ok (readBytes s (a + 8#32) 8) (Machine.logTxn (Machine.logTxn s x) y) := by
    rw [(upper.logTxn x).dataRead high rfl 8]
    exact congrArg (MRes.ok · _) (readBytes_congr rfl _ _)
  refine ⟨x, y, ?_⟩
  rw [readBytes_add s a 8 8]
  simp only [Machine.readAt, h.dataAddress]
  exact readOperand_quad first second

/-- In the plain setting a load of an operand held at the aligned address delivers its value; only the bus log changes. -/
theorem loadInto_held {s : State} {a : Word} {n v : Nat} (h : PlainData s a) (upper : n = 16 → PlainData s (a + 8#32))
    (hn : n ≤ 8 ∨ n = 16) {usr : Bool} (hu : usr = true → psrMode s = true) {ea : Word}
    (ha : alignAddr s n ea = some a) (held : HeldAt s a n v) (put : State → Nat → State) :
    ∃ log, loadInto usr n ea put s = .ok () (put { s with busLog := log } v) := by
  have read : ∃ log, Machine.readAt (spaceOf s usr) n a s = .ok (readBytes s a n) { s with busLog := log } := by
    obtain small | rfl := hn
    · obtain ⟨x, hx⟩ := h.readAt (spaceOf s usr) n small
      exact ⟨_, hx⟩
    · obtain ⟨x, y, hxy⟩ := h.readAt_quad (upper rfl) (spaceOf s usr)
      exact ⟨_, hxy⟩
  obtain ⟨log, hlog⟩ := read
  have value : Machine.operandValue { s with busLog := log } (readBytes s a n) = v := held.operandValue
  exact ⟨log, by
    simp only [loadInto, loadValue, usrViolation_eq_false hu, Bool.false_eq_true, if_false, ha, hlog, settle, value]⟩

/-- Settles O43: in the plain setting the operand is read and one extended register written. -/
theorem extendedRegisterLoads : Obligations.ExtendedRegisterLoads := by
  unfold Obligations.ExtendedRegisterLoads
  intro s d s1 s2 scaled usr imm privileged from_ out
  have loaded {w v : Nat} {log : List BusTxn} {t : State} (h : FallsThroughX d w v { s with busLog := log } t) :
      out w v t :=
    ⟨⟨h.writes.value, h.writes.others, h.writes.fpsr⟩, h.registers, h.memory, by rw [h.frame]⟩
  have both {n k w : Nat} {a : Word} {v x : Nat} (put : State → Nat → State) {iImm iReg : Instr}
      (hn : n ≤ 8 ∨ n = 16) (written : ∀ u : State, FallsThroughX d w x u (advance (put u v)))
      (plain : PlainData s a) (upper : n = 16 → PlainData s (a + 8#32)) (held : HeldAt s a n v)
      (hImm : exec iImm s = finish (loadInto false n (eaImm s s1 imm) put s))
      (hReg : exec iReg s = finish (loadInto usr n (eaReg s s1 s2 scaled k) put s)) :
      (alignAddr s n (eaImm s s1 imm) = some a → Does iImm s (out w x))
        ∧ (alignAddr s n (eaReg s s1 s2 scaled k) = some a → Does iReg s (out w x)) := by
    refine ⟨fun ha => ?_, fun ha => ?_⟩
    · obtain ⟨log, hlog⟩ := loadInto_held plain upper hn (usr := false) nofun ha held put
      exact ⟨_, hImm.trans (congrArg finish hlog), loaded (written _)⟩
    · obtain ⟨log, hlog⟩ := loadInto_held plain upper hn privileged ha held put
      exact ⟨_, hReg.trans (congrArg finish hlog), loaded (written _)⟩
  refine ⟨fun a v plain upper held => ?_, fun a v plain upper held => ?_, fun a v plain upper held => ?_⟩
  · refine both (fun t v => writeXSingle t d (BitVec.ofNat 32 v)) (by decide) (fun u => ?_) plain upper held rfl rfl
    have h := fallsThroughX_writeXSingle u d (BitVec.ofNat 32 v)
    rwa [BitVec.toNat_ofNat, Nat.mod_eq_of_lt (held.bound.trans_eq (by norm_num))] at h
  · refine both (fun t v => writeXDouble t d (BitVec.ofNat 64 v)) (by decide) (fun u => ?_) plain upper held rfl rfl
    have h := fallsThroughX_writeXDouble u d (BitVec.ofNat 64 v)
    rwa [BitVec.toNat_ofNat, Nat.mod_eq_of_lt (held.bound.trans_eq (by norm_num))] at h
  · refine both (fun t v => writeX t d (BitVec.ofNat 80 (v / 2 ^ 48))) (by decide) (fun u => ?_) plain upper held rfl rfl
    have bound : v / 2 ^ 48 < 2 ^ 80 := by have := held.bound; omega
    have h := fallsThroughX_writeX u d (BitVec.ofNat 80 (v / 2 ^ 48))
    rwa [BitVec.toNat_ofNat, Nat.mod_eq_of_lt bound] at h

end Sys2Proof.Machine


/-! ## Control registers -/

namespace Sys2Proof.Machine

section
variable {s u : State} {n : BitVec 6}

theorem pidValue_eq (s : State) : pidValue s = 0#16 ++ 1#8 ++ s.env.pidVersion ++ 1#1 := by
  rw [pidValue]
  generalize s.env.pidVersion = v
  revert v
  decide

theorem crNumber {k : Nat} (h : n.toNat = k) : n = BitVec.ofNat 6 k := by
  rw [← h, BitVec.ofNat_toNat, BitVec.setWidth_eq]

/-- A control register that controlWord holds reads as that word, and the read has no effect (10_state.md R30). -/
theorem readCr_of_controlWord {v : Word} (h : controlWord s n.toNat = some v) : readCr n s = .ok v s := by
  unfold controlWord at h
  split at h
  case h_32 => cases h
  case h_1 hn =>
    obtain rfl := crNumber hn
    cases h
    rw [← pidValue_eq]
    rfl
  all_goals
    rename_i hn
    obtain rfl := crNumber hn
    cases h
    rfl

/-- What a store of a control register makes of the state: register k holds w, the other registers are as before, and
of the rest only the window of a cleared PSR.MODE may differ. -/
structure StoresWord (k : Nat) (w : Word) (s u : State) : Prop where
  frame : u = { s with
    psr := u.psr, epsr := u.epsr, exip := u.exip, enip := u.enip, vbr := u.vbr, sr0 := u.sr0,
    sr1 := u.sr1, sr2 := u.sr2, sr3 := u.sr3, sr4 := u.sr4, modeWindow := u.modeWindow,
    imu := { s.imu with ctl := u.imu.ctl, sar := u.imu.sar, sap := u.imu.sap, uap := u.imu.uap, ir := u.imu.ir,
                        status := u.imu.status, lar := u.imu.lar, par := u.imu.par },
    dmu := { s.dmu with ctl := u.dmu.ctl, sar := u.dmu.sar, sap := u.dmu.sap, uap := u.dmu.uap, ir := u.dmu.ir,
                        status := u.dmu.status, lar := u.dmu.lar, par := u.dmu.par } }
  word : controlWord u k = some w
  others : ∀ m, m ≠ k → controlWord u m = controlWord s m

theorem and_ones (v : Word) : v &&& 0xFFFFFFFF#32 = v := BitVec.and_allOnes

/-- A store of a control register with writable bits has an effect on that register alone; ISR and DSR take it because
PSR.EFRZ is 0 (60_exceptions.md R760). -/
theorem writeCr_stores {mask ones : Word} (h : writableBits s n.toNat = some (mask, ones)) (v : Word) :
    ∃ u, writeCr n v s = .ok () u ∧ StoresWord n.toNat ((v &&& mask) ||| ones) s u := by
  unfold writableBits at h
  split at h
  case h_27 => cases h
  case h_16 hn | h_24 hn =>
    split at h
    · cases h
    next thawed =>
    obtain rfl := crNumber hn
    cases h
    refine ⟨_, congrArg (Res.ok ()) (if_neg thawed), rfl, ?_, fun m hm => ?_⟩
    · simp [controlWord, setMmu, mmuOf, statusLegal]
    · unfold controlWord
      split
      any_goals rfl
      exact absurd rfl hm
  all_goals
    rename_i hn
    obtain rfl := crNumber hn
    cases h
    refine ⟨_, rfl, rfl, ?_, fun m hm => ?_⟩
    · simp [controlWord, writePsr, psrLegal, setMmu, mmuOf, ctlLegal, and_ones]
    · unfold controlWord
      split
      any_goals rfl
      exact absurd rfl hm

theorem writeCr_ignored (h : n.toNat = 0 ∨ n.toNat = 14 ∨ n.toNat = 15) (v : Word) : writeCr n v s = .ok () s := by
  obtain h | h | h := h <;> obtain rfl := crNumber h <;> rfl

/-- cr14 and cr15 return a value that nothing determines (R51). -/
theorem readCr_undetermined (h : n.toNat = 14 ∨ n.toNat = 15) :
    readCr n s = .ok (Config.freeWord s.draws) (drawn s) := by
  obtain h | h := h <;> obtain rfl := crNumber h <;> rfl

end

/-! ### The instructions -/

section
variable {s : State} {d s1 : RegNum} {n : BitVec 6}

theorem execLdcr_ok {v : Word} {u : State} (supervisor : psrMode s = true) (h : readCr n s = .ok v u) :
    execLdcr d n s = done (writeReg u d v) := by
  simp only [execLdcr, privileged, supervisor, if_true, readCrInto, h, finish]

theorem execStcr_ok {u : State} (supervisor : psrMode s = true) (h : writeCr n (readReg s s1) s = .ok () u) :
    execStcr s1 n s1 s = done (refetch u) := by
  simp only [execStcr, privileged, supervisor, if_true, writeCrFrom, h, finish]

theorem execXcr_ok {v : Word} {u : State} (supervisor : psrMode s = true) (hr : readCr n s = .ok v s)
    (hw : writeCr n (readReg s s1) s = .ok () u) :
    execXcr d s1 n s1 s = done (writeReg (refetch u) d v) := by
  simp only [execXcr, privileged, supervisor, if_true, exchangeCr, hr, writeCrFrom, hw, finish]

end

/-- Settles O19: the read has its word and no effect, but for the counter of the free values with cr14 and cr15. -/
theorem controlRegisterRead : Obligations.ControlRegisterRead := by
  unfold Obligations.ControlRegisterRead
  intro s d n supervisor
  refine ⟨fun v held => ⟨_, execLdcr_ok supervisor (readCr_of_controlWord held), sets_advance_writeReg s d v⟩,
    fun h => ⟨_, execLdcr_ok supervisor (readCr_undetermined h), Config.freeWord s.draws, ?_⟩⟩
  have draws : (advance (writeReg (drawn s) d (Config.freeWord s.draws))).draws = s.draws + 1 := by
    rw [writeReg_frame]; rfl
  rw [draws]
  exact sets_advance_writeReg (drawn s) d _

theorem controlWord_completed (u : State) (d : RegNum) (v : Word) (m : Nat) :
    controlWord (advance (writeReg (refetch u) d v)) m = controlWord u m := by rw [writeReg_frame]; rfl

/-- A stored control register when stcr or xcr completes: r[d] may be written too. -/
theorem StoresWord.controlFrame {k : Nat} {w : Word} {s u : State} (h : StoresWord k w s u) (d : RegNum) (v : Word) :
    ControlFrame s (advance (writeReg (refetch u) d v)) where
  frame := by rw [writeReg_frame, h.frame]; rfl
  memory := readByte_congr (by rw [writeReg_frame, h.frame]; rfl)

theorem StoresWord.readReg_completed {k : Nat} {w : Word} {s u : State} (h : StoresWord k w s u) (d r : RegNum)
    (v : Word) : readReg (advance (writeReg (refetch u) d v)) r = if r = d ∧ d ≠ 0#5 then v else readReg s r := by
  have registers : (refetch u).gpr = s.gpr := by rw [h.frame]; rfl
  rw [readReg_congr (advance_gpr _), readReg_writeReg, readReg_congr registers]

/-- Settles O20: the store has an effect on its register alone, and stcr is an exchange whose old word goes to r0. -/
theorem controlRegisterWriteAndExchange : Obligations.ControlRegisterWriteAndExchange := by
  unfold Obligations.ControlRegisterWriteAndExchange
  intro s d s1 n supervisor
  refine ⟨fun old mask ones held writable => ?_, fun h => ?_⟩
  · obtain ⟨u, store, stores⟩ := writeCr_stores writable (readReg s s1)
    have written (d : RegNum) : ControlFrame s (advance (writeReg (refetch u) d old))
        ∧ controlWord (advance (writeReg (refetch u) d old)) n.toNat = some ((readReg s s1 &&& mask) ||| ones)
        ∧ ∀ m, m ≠ n.toNat → controlWord (advance (writeReg (refetch u) d old)) m = controlWord s m := by
      simp only [controlWord_completed]
      exact ⟨stores.controlFrame d old, stores.word, stores.others⟩
    refine ⟨⟨_, execStcr_ok supervisor store, ?_⟩,
      ⟨_, execXcr_ok supervisor (readCr_of_controlWord held) store, written d, fun r => stores.readReg_completed d r old⟩⟩
    exact ⟨written 0#5, fun r => (stores.readReg_completed 0#5 r old).trans (if_neg fun h => h.2 rfl)⟩
  · exact ⟨_, execStcr_ok supervisor (writeCr_ignored h _), ⟨rfl, fun _ => rfl⟩, fun _ => rfl, fun _ => rfl⟩

/-! ### Floating-point control registers -/

/-- The three accesses when the checks pass (45_load_store.md R638). -/
theorem execFldcr_ok {s : State} {n : BitVec 6} (h : fcrFault n s = none) (d : RegNum) :
    execFldcr d n s = result d (readFcr n s) s := by
  simp only [execFldcr, h]

theorem execFstcr_ok {s : State} {n : BitVec 6} (h : fcrFault n s = none) (s1 : RegNum) :
    execFstcr s1 n s1 s = done (writeFcr n (readReg s s1) s) := by
  simp only [execFstcr, if_true, h]

theorem execFxcr_ok {s : State} {n : BitVec 6} (h : fcrFault n s = none) (d s1 : RegNum) :
    execFxcr d s1 n s1 s = result d (readFcr n s) (writeFcr n (readReg s s1) s) := by
  simp only [execFxcr, if_true, h]

theorem fcrFault_eq_none {s : State} {n : BitVec 6} (enabled : psrSfd1 s = false)
    (h : (n.toNat = 0 ∧ psrMode s = true) ∨ n.toNat = 62 ∨ n.toNat = 63) : fcrFault n s = none := by
  obtain ⟨h, supervisor⟩ | h | h := h
  · simp [fcrFault, enabled, h, supervisor]
  · simp [fcrFault, enabled, h]
  · simp [fcrFault, enabled, h]

/-- A write of fcr0, fcr62 or fcr63 reaches the writable bits of that register alone (10_state.md R54, R55, R56). -/
theorem writeFcr_eq {n : BitVec 6} (h : n.toNat = 0 ∨ n.toNat = 62 ∨ n.toNat = 63) (v : Word) (s : State) :
    writeFcr n v s = { s with
      fpecr := if n.toNat = 0 then v &&& 0x000000FF#32 else s.fpecr
      fpsr := if n.toNat = 62 then v &&& 0x0001001F#32 else s.fpsr
      fpcr := if n.toNat = 63 then v &&& 0x0026C01F#32 else s.fpcr } := by
  obtain h | h | h := h <;> obtain rfl := crNumber h <;> rfl

theorem readFcr_eq {n : BitVec 6} (h : n.toNat = 0 ∨ n.toNat = 62 ∨ n.toNat = 63) (s : State) :
    readFcr n s = if n.toNat = 62 then s.fpsr else if n.toNat = 63 then s.fpcr else s.fpecr := by
  obtain h | h | h := h <;> obtain rfl := crNumber h <;> rfl

/-- Settles O22: the checks pass, and fstcr is an exchange whose old word goes to r0. -/
theorem fpControlRegisterAccess : Obligations.FpControlRegisterAccess := by
  unfold Obligations.FpControlRegisterAccess
  intro s d s1 n enabled legal old written
  have number : n.toNat = 0 ∨ n.toNat = 62 ∨ n.toNat = 63 := legal.imp_left And.left
  have passed := fcrFault_eq_none enabled legal
  have read : readFcr n s = old := readFcr_eq number s
  have completes (d : RegNum) :
      let t := advance (writeReg (writeFcr n (readReg s s1) s) d old)
      written t ∧ ∀ r, readReg t r = if r = d ∧ d ≠ 0#5 then old else readReg s r := by
    rw [writeFcr_eq number, writeReg_frame]
    refine ⟨⟨rfl, rfl, rfl, rfl, readByte_congr rfl⟩, fun r => ?_⟩
    exact readReg_writeReg _ d r old
  refine ⟨⟨_, execFldcr_ok passed d, ?_⟩, ⟨_, execFstcr_ok passed s1, (completes 0#5).1, fun r => ?_⟩,
    ⟨_, execFxcr_ok passed d s1, ?_⟩⟩
  · rw [read]
    exact sets_advance_writeReg s d old
  · exact ((completes 0#5).2 r).trans (if_neg fun h => h.2 rfl)
  · rw [read]
    exact completes d

end Sys2Proof.Machine


/-! ## The ports of the translation caches -/

namespace Sys2Proof.Machine

/-! ### Bits of masked words -/

/-- Masking by a literal keeps the bits that the literal lists. -/
theorem and_lit_bit {c : Word} {p : Nat → Prop} [DecidablePred p] (h : ∀ j : Fin 32, c.getLsbD j.val = decide (p j.val))
    (v : Word) {i : Nat} (hi : i < 32) : (v &&& c).getLsbD i = (decide (p i) && v.getLsbD i) := by
  rw [BitVec.getLsbD_and, h ⟨i, hi⟩, Bool.and_comm]

theorem and_low_half (v : Word) : v &&& 0x0000FFFF#32 = 0#16 ++ v.extractLsb' 0 16 := by
  refine BitVec.eq_of_getLsbD_eq fun i hi => ?_
  rw [and_lit_bit (p := (· < 16)) (by decide) v hi, BitVec.getLsbD_append, BitVec.getLsbD_extractLsb', Nat.zero_add]
  split <;> simp_all

/-- The bits of a page descriptor's upper word that exist (12_cache_mmu_state.md R104). -/
theorem pageUpper_bit (v : Word) {i : Nat} (hi : i < 32) :
    (v &&& 0xFFFFF040#32).getLsbD i = (decide (12 ≤ i ∨ i = 6) && v.getLsbD i) :=
  and_lit_bit (p := fun i => 12 ≤ i ∨ i = 6) (by decide) v hi

/-- The bits of a page descriptor's lower word that exist. -/
theorem pageLower_bit (v : Word) {i : Nat} (hi : i < 32) :
    (v &&& 0xFFFFFEC5#32).getLsbD i = (decide (9 ≤ i ∨ i ∈ [7, 6, 2, 0]) && v.getLsbD i) :=
  and_lit_bit (p := fun i => 9 ≤ i ∨ i ∈ [7, 6, 2, 0]) (by decide) v hi

/-- The low two bits replaced by a field of two bits. -/
theorem replace_low_field (v : Word) (u : BitVec 2) :
    ((v &&& 0xFFFFFFFC#32) ||| u.setWidth 32).extractLsb' 0 2 = u
      ∧ ((v &&& 0xFFFFFFFC#32) ||| u.setWidth 32).extractLsb' 2 30 = v.extractLsb' 2 30 := by
  have mask {i : Nat} (hi : i < 32) := and_lit_bit (p := (2 ≤ ·)) (c := 0xFFFFFFFC#32) (by decide) v hi
  refine ⟨BitVec.eq_of_getLsbD_eq fun i hi => ?_, BitVec.eq_of_getLsbD_eq fun i hi => ?_⟩
  · rw [BitVec.getLsbD_extractLsb', BitVec.getLsbD_or, mask (by omega), BitVec.getLsbD_setWidth]
    simp [hi, show ¬ 2 ≤ i by omega, show i < 32 by omega]
  · rw [BitVec.getLsbD_extractLsb', BitVec.getLsbD_or, mask (by omega), BitVec.getLsbD_setWidth]
    simp [hi, show 2 + i < 32 by omega]

/-! ### The registers of a memory unit as control registers -/

/-- The number of ICTL or DCTL, where the registers of a unit begin (10_state.md R30). -/
def unitBase : Side → BitVec 6
  | .instr => 26#6
  | .data => 41#6

section
variable {side : Side} {s u : State} {d s1 : RegNum} {n k : BitVec 6}

theorem writeCr_unit (hk : k = 5#6 ∨ k = 6#6 ∨ k = 7#6) (v : Word) :
    writeCr (unitBase side + k) v s = writeMmuReg side k.toNat v s := by
  obtain rfl | rfl | rfl := hk <;> cases side <;> rfl

theorem readCr_unit (hk : k = 5#6 ∨ k = 6#6 ∨ k = 7#6) :
    readCr (unitBase side + k) s = readMmuReg side k.toNat s := by
  obtain rfl | rfl | rfl := hk <;> cases side <;> rfl

theorem does_of_writeCr {P : State → Prop} (supervisor : psrMode s = true) (h : writeCr n (readReg s s1) s = .ok () u)
    (after : P (advance (refetch u))) : Does (.stcr s1 n s1) s P :=
  ⟨_, execStcr_ok supervisor h, after⟩

theorem does_of_readCr {P : State → Prop} {v : Word} (supervisor : psrMode s = true) (h : readCr n s = .ok v u)
    (after : P (advance (writeReg u d v))) : Does (.ldcr d n) s P :=
  ⟨_, execLdcr_ok supervisor h, after⟩

theorem exec_stcr_stop {f : Fault} (supervisor : psrMode s = true) (h : writeCr n (readReg s s1) s = .stop f) :
    exec (.stcr s1 n s1) s = .fault f := by
  change execStcr s1 n s1 s = _
  simp only [execStcr, privileged, supervisor, if_true, writeCrFrom, h, finish]

theorem exec_ldcr_stop {f : Fault} (supervisor : psrMode s = true) (h : readCr n s = .stop f) :
    exec (.ldcr d n) s = .fault f := by
  change execLdcr d n s = _
  simp only [execLdcr, privileged, supervisor, if_true, readCrInto, h, finish]

end

/-! ### What the ports leave -/

section
variable {side : Side} {s : State}

theorem mmuOf_completed (side : Side) (s : State) (m : Mmu) :
    mmuOf side (advance (refetch (setMmu side s m))) = m := by cases side <;> rfl

theorem mmuOf_read (side : Side) (s : State) (m : Mmu) (d : RegNum) (v : Word) :
    mmuOf side (advance (writeReg (setMmu side s m) d v)) = m := by
  rw [writeReg_frame]; cases side <;> rfl

/-- A completed command or port write that replaces the unit of its side. -/
theorem portWrite_setMmu (side : Side) (s : State) (m : Mmu) :
    PortWrite side m s.bp0 s.bp1 s (advance (refetch (setMmu side s m))) := by
  cases side <;> exact ⟨fun _ => rfl, fun _ => rfl, rfl⟩

/-- A completed port write that replaces breakpoint registers. -/
theorem portWrite_breakpoints (s : State) (b0 b1 : Breakpoint) :
    PortWrite .data (mmuOf .data s) b0 b1 s (advance (refetch { s with bp0 := b0, bp1 := b1 })) :=
  ⟨fun _ => rfl, fun _ => rfl, rfl⟩

/-- A completed port read that replaces the unit of its side. -/
theorem portRead_setMmu (side : Side) (d : RegNum) (v : Word) (m : Mmu) (s : State) :
    PortRead side d v m s (advance (writeReg (setMmu side s m) d v)) := by
  refine ⟨fun r => ?_, readByte_congr ?_, ?_⟩
  · rw [readReg_congr (advance_gpr _), readReg_writeReg]; cases side <;> rfl
  · rw [writeReg_frame]; cases side <;> rfl
  · rw [writeReg_frame]; cases side <;> rfl

/-- The block descriptor that the index names, its U1 and U0 put into IIR or DIR (12_cache_mmu_state.md R102). -/
theorem readBatcPort_index (j : Fin 8) (h : j.val = (batcIndex (mmuOf side s)).toNat) :
    readBatcPort side s = .ok (mmuOf side s).batc[j].port (setMmu side s { mmuOf side s with
      ir := ((mmuOf side s).ir &&& 0xFFFFFFFC#32) ||| (mmuOf side s).batc[j].user.setWidth 32 }) := by
  simp [readBatcPort, ← h]

/-- Both words of the page descriptor that the index names (12_cache_mmu_state.md R104). -/
theorem portEntry_page (j : Fin 32) (h : j.val = patcIndex (mmuOf side s)) :
    portEntry side s = some ((mmuOf side s).patc[j].upper, (mmuOf side s).patc[j].lower) := by
  simp [portEntry, ← h]

theorem portEntry_breakpoint0 (h : patcIndex s.dmu = 32) : portEntry .data s = some (s.bp0.lba, s.bp0.control) := by
  simp [portEntry, mmuOf, h]

theorem portEntry_breakpoint1 (h : patcIndex s.dmu = 33) : portEntry .data s = some (s.bp1.lba, s.bp1.control) := by
  simp [portEntry, mmuOf, h]

/-- The first index that names nothing (93_implementation_defined.md P14). -/
def portLimit : Side → Nat
  | .instr => 32
  | .data => 34

theorem portEntry_none (h : portLimit side ≤ patcIndex (mmuOf side s)) : portEntry side s = none := by
  cases side with
  | instr => simp only [portLimit] at h; simp [portEntry, show ¬ patcIndex (mmuOf .instr s) < 32 by omega]
  | data =>
    simp only [portLimit] at h
    simp [portEntry, show ¬ patcIndex (mmuOf .data s) < 32 by omega, show ¬ patcIndex (mmuOf .data s) = 32 by omega,
      show ¬ patcIndex (mmuOf .data s) = 33 by omega]

theorem writePatcLower_page (h : patcIndex (mmuOf side s) < 32) (v : Word) :
    writePatcLower side v s = .ok () (setMmu side s { mmuOf side s with
      patc := (mmuOf side s).patc.set (patcIndex (mmuOf side s))
        ⟨(mmuOf side s).ppu &&& 0xFFFFF040#32, v &&& 0xFFFFFEC5#32⟩ }) := by
  simp [writePatcLower, h]

theorem writePatcLower_breakpoint0 (h : patcIndex s.dmu = 32) (v : Word) :
    writePatcLower .data v s = .ok () { s with bp0 := ⟨s.dmu.ppu, 0#16 ++ v.extractLsb' 0 16⟩ } := by
  simp [writePatcLower, mmuOf, h, and_low_half]

theorem writePatcLower_breakpoint1 (h : patcIndex s.dmu = 33) (v : Word) :
    writePatcLower .data v s = .ok () { s with bp1 := ⟨s.dmu.ppu, 0#16 ++ v.extractLsb' 0 16⟩ } := by
  simp [writePatcLower, mmuOf, h, and_low_half]

theorem writePatcLower_none (h : portLimit side ≤ patcIndex (mmuOf side s)) (v : Word) :
    writePatcLower side v s = .stop .unimplementedAtcIndex := by
  cases side with
  | instr => simp only [portLimit] at h; simp [writePatcLower, show ¬ patcIndex (mmuOf .instr s) < 32 by omega]
  | data =>
    simp only [portLimit] at h
    simp [writePatcLower, show ¬ patcIndex (mmuOf .data s) < 32 by omega,
      show ¬ patcIndex (mmuOf .data s) = 32 by omega, show ¬ patcIndex (mmuOf .data s) = 33 by omega]

end

/-- A load from IPPU or DPPU fills both port buffers from what the index names (R104). -/
theorem does_readPatcUpper {side : Side} {s : State} {d : RegNum} {v w : Word} (supervisor : psrMode s = true)
    (h : portEntry side s = some (v, w)) :
    Does (.ldcr d (unitBase side + 6#6)) s (PortRead side d v { mmuOf side s with ppu := v, ppl := w } s) := by
  refine does_of_readCr (v := v) supervisor ?_ (portRead_setMmu side d v _ s)
  rw [readCr_unit (by decide)]
  change readPatcUpper side s = _
  rw [readPatcUpper, h]

/-- Settles O24: each port access is one read or write of a unit's register, by what the index names. -/
theorem translationCachePorts : Obligations.TranslationCachePorts := by
  unfold Obligations.TranslationCachePorts
  intro side s d s1 supervisor v m port block page stores loads reads
  have store {k : BitVec 6} {u : State} {P : State → Prop} (hk : k = 5#6 ∨ k = 6#6 ∨ k = 7#6)
      (h : writeMmuReg side k.toNat v s = .ok () u) (after : P (advance (refetch u))) : stores k P :=
    does_of_writeCr supervisor ((writeCr_unit (side := side) hk v).trans h) after
  have read {u l : Word} (h : portEntry side s = some (u, l)) : reads u l := does_readPatcUpper supervisor h
  refine ⟨?_, fun j hj => ?_, ?_, fun j hj => ⟨?_, ?_⟩, fun hs hp => ?_, fun hs hp => ?_, fun hp => ?_⟩
  · refine store (by decide) rfl ⟨?_, fun j => ?_⟩
    · rw [mmuOf_completed]
      exact portWrite_setMmu side s _
    · rw [mmuOf_completed]
      simp only [Fin.getElem_fin, Vector.getElem_set]
      exact if_congr eq_comm rfl rfl
  · refine does_of_readCr supervisor ((readCr_unit (side := side) (by decide)).trans (readBatcPort_index j hj)) ⟨?_, ?_⟩
    · rw [mmuOf_read]
      exact portRead_setMmu side d _ _ s
    · rw [mmuOf_read]
      exact replace_low_field m.ir m.batc[j].user
  · exact store (by decide) rfl (portWrite_setMmu side s _)
  · exact read (portEntry_page j hj)
  · refine store (by decide) (writePatcLower_page (show page < 32 by omega) v) ⟨?_, ?_⟩
    · rw [mmuOf_completed]
      exact portWrite_setMmu side s _
    · rw [mmuOf_completed]
      have entry (k : Fin 32) {w : PatcEntry} : (m.patc.set page w (by omega))[k] = if k = j then w else m.patc[k] := by
        simp only [Fin.getElem_fin, Vector.getElem_set, Fin.ext_iff, ← hj, eq_comm]
      have written {w : PatcEntry} : (m.patc.set page w (by omega))[j] = w := (entry j).trans (if_pos rfl)
      refine ⟨fun i hi => ?_, fun i hi => ?_, fun k hk => (entry k).trans (if_neg hk)⟩
      · rw [← pageUpper_bit m.ppu hi]
        exact congrArg (·.upper.getLsbD i) written
      · rw [← pageLower_bit v hi]
        exact congrArg (·.lower.getLsbD i) written
  · subst hs
    exact ⟨read (portEntry_breakpoint0 hp), store (by decide) (writePatcLower_breakpoint0 hp v)
      (portWrite_breakpoints s _ s.bp1)⟩
  · subst hs
    exact ⟨read (portEntry_breakpoint1 hp), store (by decide) (writePatcLower_breakpoint1 hp v)
      (portWrite_breakpoints s s.bp0 _)⟩
  · have limit : portLimit side ≤ patcIndex (mmuOf side s) := by cases side <;> exact hp
    have loadStops : readMmuReg side 6 s = .stop .unimplementedAtcIndex := by
      change readPatcUpper side s = _
      rw [readPatcUpper, portEntry_none limit]
    exact ⟨exec_ldcr_stop supervisor ((readCr_unit (side := side) (by decide)).trans loadStops),
      exec_stcr_stop supervisor ((writeCr_unit (side := side) (by decide) v).trans (writePatcLower_none limit v))⟩

end Sys2Proof.Machine


/-! ## The commands that invalidate cache lines -/

namespace Sys2Proof.Machine

/-! ### Lines of the caches -/

theorem iLine_setILine (s : State) (a b : Word) (way w : Bool) (l : ILine) :
    iLine (setILine s a way l) b w = if lineIndex b w = lineIndex a way then l else iLine s b w := by
  simp only [iLine, setILine, Vector.getElem_set, BitVec.toNat_inj]
  exact if_congr eq_comm rfl rfl

theorem dLine_setDLine (s : State) (a b : Word) (way w : Bool) (l : DLine) :
    dLine (setDLine s a way l) b w = if lineIndex b w = lineIndex a way then l else dLine s b w := by
  simp only [dLine, setDLine, Vector.getElem_set, BitVec.toNat_inj]
  exact if_congr eq_comm rfl rfl

/-! ### Commands -/

section
variable {s u : State} {s1 : RegNum} {v : Word}

/-- A word written to ICMD is the command it codes. -/
theorem does_of_instrCommand {P : State → Prop} (supervisor : psrMode s = true) (code : readReg s s1 = v)
    (h : instrCommand v s = .ok () u) (after : P (advance (refetch u))) : Does (.stcr s1 25#6 s1) s P :=
  does_of_writeCr supervisor (show instrCommand (readReg s s1) s = _ by rw [code, h]) after

/-- A word written to DCMD is the command it codes. -/
theorem does_of_dataCommand {P : State → Prop} (supervisor : psrMode s = true) (code : readReg s s1 = v)
    (h : dataCommand v s = .ok () u) (after : P (advance (refetch u))) : Does (.stcr s1 40#6 s1) s P :=
  does_of_writeCr supervisor (show dataCommand (readReg s s1) s = _ by rw [code, h]) after

end

/-- What a command that copies nothing back can change of the instruction side (22_caches.md R330, R331). -/
def InstrLinesOnly (s u : State) : Prop := u = { s with icache := u.icache, ibias := u.ibias, tic := u.tic }

/-- What a command that copies nothing back can change of the data side. -/
def DataLinesOnly (s u : State) : Prop := u = { s with dcache := u.dcache, dbias := u.dbias }

section
variable {s : State} {a : Word}

theorem invalidateILine_hit {way : Bool} (h : iHit s a = some way) :
    invalidateILine s a = setILine s a way { iLine s a way with valid := false } := by
  simp only [invalidateILine, h]

theorem invalidateILine_miss (h : iHit s a = none) : invalidateILine s a = s := by
  simp only [invalidateILine, h]

theorem invalidateDLine_hit {way : Bool} (h : dHit s a = some way) :
    invalidateDLine s a = setDLine s a way { dLine s a way with state := .invalid } := by
  simp only [invalidateDLine, h, dInvalidate]

theorem invalidateDLine_miss (h : dHit s a = none) : invalidateDLine s a = s := by
  simp only [invalidateDLine, h]

/-- Invalidating one line leaves the TIC and the bias bit (entry 61). -/
theorem invalidateILine_frame (s : State) (a : Word) :
    invalidateILine s a = { s with icache := (invalidateILine s a).icache } := by
  cases h : iHit s a with
  | none => rw [invalidateILine_miss h]
  | some way => rw [invalidateILine_hit h]; rfl

theorem invalidateDLine_frame (s : State) (a : Word) :
    invalidateDLine s a = { s with dcache := (invalidateDLine s a).dcache } := by
  cases h : dHit s a with
  | none => rw [invalidateDLine_miss h]
  | some way => rw [invalidateDLine_hit h]; rfl

end

/-- Settles O26: each command changes lines of its cache, or TIC entries, as its own lemma says. -/
theorem cacheInvalidateCommands : Obligations.CacheInvalidateCommands := by
  unfold Obligations.CacheInvalidateCommands
  intro s s1 supervisor quiet instr data command
  have instrEnd {u : State} (h : InstrLinesOnly s u) : instr (advance (refetch u)) := by
    rw [h]
    exact ⟨⟨fun _ => rfl, fun _ => rfl, rfl⟩, rfl, rfl⟩
  have dataEnd {u : State} (h : DataLinesOnly s u) : data (advance (refetch u)) := by
    rw [h]
    exact ⟨⟨fun _ => rfl, fun _ => rfl, rfl⟩, rfl, rfl, rfl⟩
  have ticInvalid (j : Fin 32) : (invalidateTic s).tic[j].valid = false := by simp [invalidateTic]
  refine ⟨fun code => ?_, fun code => ?_, fun code => ?_, fun code => ?_, fun code => ?_⟩
  · exact does_of_instrCommand supervisor code rfl
      ⟨instrEnd (u := invalidateICache s) rfl, rfl, fun j => by simp [invalidateICache], ticInvalid⟩
  · exact does_of_instrCommand supervisor code rfl ⟨instrEnd (u := invalidateTic s) rfl, rfl, rfl, ticInvalid⟩
  · have frame := invalidateILine_frame s s.imu.sar
    refine does_of_instrCommand supervisor code rfl ⟨instrEnd ?_, ?_, ?_, fun miss => ?_, fun way hit => ?_⟩
    · rw [frame]; rfl
    · rw [frame]; rfl
    · rw [frame]; rfl
    · rw [invalidateILine_miss miss]; rfl
    · rw [invalidateILine_hit hit]
      exact ⟨(iLine_setILine s _ _ way way _).trans (if_pos rfl),
        fun b w other => (iLine_setILine s _ b way w _).trans (if_neg other)⟩
  · exact does_of_dataCommand supervisor code rfl
      ⟨dataEnd (u := invalidateDCache s) rfl, rfl, fun j => by simp [invalidateDCache]⟩
  · have frame := invalidateDLine_frame s s.dmu.sar
    refine does_of_dataCommand supervisor code rfl ⟨dataEnd ?_, ?_, fun miss => ?_, fun way hit => ?_⟩
    · rw [frame]; rfl
    · rw [frame]; rfl
    · rw [invalidateDLine_miss miss]; rfl
    · rw [invalidateDLine_hit hit]
      exact ⟨(dLine_setDLine s _ _ way way _).trans (if_pos rfl),
        fun b w other => (dLine_setDLine s _ b way w _).trans (if_neg other)⟩

end Sys2Proof.Machine


/-! ## Invalidation and probes of the translation caches -/

namespace Sys2Proof.Machine

/-! ### Which entries match -/

section
variable {m : Mmu} {su : Bool} {la : Word}

theorem slice_eq_iff (a b : Word) (k : Nat) (h : k ≤ 32) :
    a.extractLsb' k (32 - k) = b.extractLsb' k (32 - k) ↔ a.toNat / 2 ^ k = b.toNat / 2 ^ k := by
  have fits (c : Word) : c.toNat / 2 ^ k < 2 ^ (32 - k) := by
    rw [Nat.div_lt_iff_lt_mul (by positivity), ← pow_add, Nat.sub_add_cancel h]
    exact c.isLt
  rw [← BitVec.toNat_inj]
  simp only [BitVec.extractLsb'_toNat, Nat.shiftRight_eq_div_pow, Nat.mod_eq_of_lt (fits _)]

/-- A page descriptor hits when it is valid, of that privilege level, and for that page (21_mmu.md R240). -/
theorem patcHits_iff {e : PatcEntry} : patcHits su la e = true ↔
    e.lower.getLsbD 0 = true ∧ e.upper.getLsbD 6 = su ∧ e.upper.toNat / 4096 = la.toNat / 4096 := by
  have pages := slice_eq_iff e.upper la 12 (by decide)
  simp only [patcHits, Bool.and_eq_true, beq_iff_eq, and_assoc]
  exact and_congr_right' (and_congr_right' pages)

/-- A block descriptor hits when it is valid, of that privilege level, and for that block (R226). -/
theorem batcHits_iff {k : Nat} {e : BatcEntry} : batcHits k su la e = true ↔
    e.port.getLsbD 0 = true ∧ e.port.getLsbD 5 = su ∧ e.port.toNat / 2 ^ (19 + k) = la.toNat / 2 ^ (19 + k) := by
  simp only [batcHits, Bool.and_eq_true, beq_iff_eq, and_assoc, ← BitVec.toNat_inj, BitVec.toNat_ushiftRight,
    Nat.shiftRight_eq_div_pow]

/-- The legal size masks, and how many address bits each leaves untranslated (R226). -/
theorem blockBits_of_mask {k : Nat} (hk : k ≤ 7) {mask : BitVec 7} (h : mask.toNat = 2 ^ k - 1) :
    blockBits mask = k := by
  unfold blockBits
  rw [h]
  interval_cases k <;> rfl

theorem mem_patcMatches {i : Fin 32} : i ∈ patcMatches m su la ↔ patcHits su la m.patc[i] = true := by
  simp [patcMatches]

theorem mem_batcMatches {i : Fin 8} :
    i ∈ batcMatches m su la ↔ batcHits (blockBits (ctlMask m.ctl)) su la m.batc[i] = true := by
  simp [batcMatches]

end

/-! ### The choice among several matches -/

section
variable {n : Nat} {l : List (Fin n)} {s : State}

theorem pickOne_state (l : List (Fin n)) (s : State) : (pickOne l s).2 = { s with draws := (pickOne l s).2.draws } := by
  unfold pickOne; split <;> rfl

/-- What is chosen matches (21_mmu.md R229, R244). -/
theorem pickOne_mem {i : Fin n} (h : (pickOne l s).1 = some i) : i ∈ l := by
  unfold pickOne at h
  split at h
  · cases h
  · cases h; exact List.mem_singleton_self _
  · next i j r =>
    cases found : (i :: j :: r)[Config.freeNat s.draws % (r.length + 2)]? with
    | none => rw [found] at h; cases h; exact List.mem_cons_self
    | some k => rw [found] at h; cases h; exact List.mem_of_getElem? found

/-- Something is chosen just when something matches. -/
theorem pickOne_isSome : (pickOne l s).1.isSome = true ↔ ∃ i, i ∈ l := by
  unfold pickOne; split
  · simp
  · simp
  · next i j r =>
    refine ⟨fun _ => ⟨i, List.mem_cons_self⟩, fun _ => ?_⟩
    cases (i :: j :: r)[Config.freeNat s.draws % (r.length + 2)]? <;> rfl

theorem pickOne_eq_none : (pickOne l s).1 = none ↔ ∀ i, i ∉ l := by
  rw [← not_exists, ← pickOne_isSome (s := s), Option.not_isSome_iff_eq_none]

theorem pickOne_unique {j : Fin n} (h : ∀ i, i ∈ l ↔ i = j) : (pickOne l s).1 = some j := by
  obtain ⟨i, hi⟩ := Option.isSome_iff_exists.mp (pickOne_isSome (s := s).mpr ⟨j, (h j).mpr rfl⟩)
  rw [hi, (h i).mp (pickOne_mem hi)]

end

/-! ### What a probe leaves -/

/-- PH and BH are written both ways, the other bits of ISR or DSR stay (R272). -/
theorem probeStatus_bit (old : Word) (ph bh : Bool) {i : Nat} (hi : i < 32) :
    (probeStatus old ph bh).getLsbD i = if i = 11 then ph else if i = 10 then bh else old.getLsbD i := by
  have mask := and_lit_bit (p := fun i => i ≠ 11 ∧ i ≠ 10) (c := 0xFFFFF3FF#32) (by decide) old hi
  have page : (0x800#32 : Word).getLsbD i = decide (i = 11) := getLsbD_twoPow_lit 11 i (by decide)
  have block : (0x400#32 : Word).getLsbD i = decide (i = 10) := getLsbD_twoPow_lit 10 i (by decide)
  rw [probeStatus, BitVec.getLsbD_or, BitVec.getLsbD_or, mask]
  simp only [apply_ite (BitVec.getLsbD · i), page, block, BitVec.getLsbD_zero]
  by_cases h : i = 11
  · subst h; cases ph <;> simp
  · by_cases h' : i = 10
    · subst h'; cases bh <;> simp
    · simp [h, h']

section
variable {old free : Word} {p : Option (Fin 32)} {b : Option (Fin 8)} {i : Fin 32} {j : Fin 8}

theorem pageIndex_fields : ∀ i : Fin 32, let f := BitVec.ofNat 32 i.val <<< 12
    f &&& 0xFFFC08FF#32 = 0#32 ∧ f.extractLsb' 12 6 = BitVec.ofNat 6 i.val ∧ f.extractLsb' 8 3 = 0#3 := by decide

theorem blockIndex_fields : ∀ j : Fin 8, let f := BitVec.ofNat 32 j.val <<< 8
    f &&& 0xFFFC08FF#32 = 0#32 ∧ f.extractLsb' 8 3 = BitVec.ofNat 3 j.val ∧ f.extractLsb' 12 6 = 0#6 := by decide

/-- A probe writes the two index fields of IIR or DIR and nothing else of it (R272). -/
theorem probeIndex_outside : probeIndex old free p b &&& 0xFFFC08FF#32 = old &&& 0xFFFC08FF#32 := by
  have kept (mask : Word) (h : mask &&& 0xFFFC08FF#32 = 0xFFFC08FF#32) :
      old &&& mask &&& 0xFFFC08FF#32 = old &&& 0xFFFC08FF#32 := by rw [BitVec.and_assoc, h]
  have gone : free &&& 0x0003F700#32 &&& 0xFFFC08FF#32 = 0#32 := by
    rw [BitVec.and_assoc]
    exact BitVec.and_zero
  rcases p with _ | i <;> rcases b with _ | j
  all_goals simp only [probeIndex, BitVec.and_or_distrib_right, (pageIndex_fields _).1, (blockIndex_fields _).1, gone,
    BitVec.or_zero]
  all_goals exact kept _ (by decide)

theorem probeIndex_outside_bit {n : Nat} (hn : n < 32) (hb : ¬ (8 ≤ n ∧ n ≤ 10)) (hp : ¬ (12 ≤ n ∧ n ≤ 17)) :
    (probeIndex old free p b).getLsbD n = old.getLsbD n := by
  have outside (v : Word) : (v &&& 0xFFFC08FF#32).getLsbD n = v.getLsbD n := by
    rw [and_lit_bit (p := fun n => ¬ (8 ≤ n ∧ n ≤ 10) ∧ ¬ (12 ≤ n ∧ n ≤ 17)) (by decide) v hn, decide_eq_true ⟨hb, hp⟩,
      Bool.true_and]
  rw [← outside, probeIndex_outside, outside]

theorem probeIndex_page : (probeIndex old free (some i) b).extractLsb' 12 6 = BitVec.ofNat 6 i.val := by
  have one : (0xFFFC0FFF#32 : Word).extractLsb' 12 6 = 0#6 := by decide
  have both : (0xFFFC08FF#32 : Word).extractLsb' 12 6 = 0#6 := by decide
  rcases b with _ | j
  all_goals simp only [probeIndex, BitVec.extractLsb'_or, BitVec.extractLsb'_and, (pageIndex_fields i).2.1,
    (blockIndex_fields _).2.2, one, both, BitVec.and_zero, BitVec.or_zero, BitVec.zero_or]

theorem probeIndex_block : (probeIndex old free p (some j)).extractLsb' 8 3 = BitVec.ofNat 3 j.val := by
  have one : (0xFFFFF8FF#32 : Word).extractLsb' 8 3 = 0#3 := by decide
  have both : (0xFFFC08FF#32 : Word).extractLsb' 8 3 = 0#3 := by decide
  rcases p with _ | i
  all_goals simp only [probeIndex, BitVec.extractLsb'_or, BitVec.extractLsb'_and, (pageIndex_fields _).2.2,
    (blockIndex_fields j).2.1, one, both, BitVec.and_zero, BitVec.or_zero, BitVec.zero_or]

/-- The field of the kind that did not hit keeps its value when the other did (92_eei_decisions.md D18). -/
theorem probeIndex_page_kept : (probeIndex old free none (some j)).extractLsb' 12 6 = old.extractLsb' 12 6 := by
  simp only [probeIndex, BitVec.extractLsb'_or, BitVec.extractLsb'_and, (blockIndex_fields j).2.2, BitVec.or_zero]
  exact BitVec.and_allOnes

theorem probeIndex_block_kept : (probeIndex old free (some i) none).extractLsb' 8 3 = old.extractLsb' 8 3 := by
  simp only [probeIndex, BitVec.extractLsb'_or, BitVec.extractLsb'_and, (pageIndex_fields i).2.2, BitVec.or_zero]
  exact BitVec.and_allOnes

end

/-- The page that a probe of the address in ISAR or DSAR takes as its hit. -/
def probedPage (side : Side) (su : Bool) (s : State) : Option (Fin 32) × State :=
  pickOne (patcMatches (mmuOf side s) su (mmuOf side s).sar) s

/-- The block that it takes, once the page is chosen. -/
def probedBlock (side : Side) (su : Bool) (s : State) : Option (Fin 8) × State :=
  pickOne (batcMatches (mmuOf side s) su (mmuOf side s).sar) (probedPage side su s).2

/-- A probe writes the index and status registers and the port words of its side (R270 to R272). -/
theorem probe_eq (side : Side) (su : Bool) (s : State) :
    let p := (probedPage side su s).1
    let b := probedBlock side su s
    probe side su s = setMmu side { s with draws := b.2.draws + 3 } { mmuOf side s with
      ir := probeIndex (mmuOf side s).ir (Config.freeWord b.2.draws) p b.1
      status := if psrEfrz s then (mmuOf side s).status else probeStatus (mmuOf side s).status p.isSome b.1.isSome
      ppu := Config.freeWord (b.2.draws + 1)
      ppl := Config.freeWord (b.2.draws + 2) } := by
  have state : (probedBlock side su s).2 = { s with draws := (probedBlock side su s).2.draws } := by
    rw [probedBlock, pickOne_state, probedPage, pickOne_state]
  intro p b
  change setPort side (Config.freeWord (b.2.draws + 1)) (setMmu side { b.2 with draws := b.2.draws + 2 } _) = _
  rw [show b.2 = _ from state]
  cases side <;> rfl

/-- The unit of a side after a completed probe. -/
theorem mmuOf_probed (side : Side) (su : Bool) (s : State) :
    let p := (probedPage side su s).1
    let b := probedBlock side su s
    let n := mmuOf side (advance (refetch (probe side su s)))
    n.ir = probeIndex (mmuOf side s).ir (Config.freeWord b.2.draws) p b.1
      ∧ n.status = if psrEfrz s then (mmuOf side s).status
          else probeStatus (mmuOf side s).status p.isSome b.1.isSome := by
  rw [probe_eq, mmuOf_completed]
  exact ⟨rfl, rfl⟩

/-- A completed probe changes nothing but the index and status registers and the port words of its side. -/
theorem portWrite_probe (side : Side) (su : Bool) (s : State) :
    let t := advance (refetch (probe side su s))
    let n := mmuOf side t
    PortWrite side { mmuOf side s with ir := n.ir, status := n.status, ppu := n.ppu, ppl := n.ppl } s.bp0 s.bp1
      { s with draws := t.draws } t := by
  rw [probe_eq]
  cases side <;> exact ⟨fun _ => rfl, fun _ => rfl, rfl⟩

/-! ### Bulk invalidation -/

theorem invalidateIf_upper (su : Bool) (e : PatcEntry) : (invalidateIf su e).upper = e.upper := by
  unfold invalidateIf; split <;> rfl

/-- Only the valid bit of a descriptor of that privilege level is cleared (R274). -/
theorem invalidateIf_lower_bit (su : Bool) (e : PatcEntry) {i : Nat} (hi : i < 32) :
    (invalidateIf su e).lower.getLsbD i = (e.lower.getLsbD i && !(i == 0 && e.upper.getLsbD 6 == su)) := by
  have mask := and_lit_bit (p := (· ≠ 0)) (c := 0xFFFFFFFE#32) (by decide) e.lower hi
  unfold invalidateIf; split
  · next level => rw [mask, level, Bool.and_true, Bool.and_comm, decide_not, beq_eq_decide]
  · next level => rw [Bool.eq_false_of_not_eq_true level, Bool.and_false, Bool.not_false, Bool.and_true]

/-! ### The commands -/

/-- ICMD and DCMD (10_state.md R30). -/
def commandRegister : Side → BitVec 6
  | .instr => 25#6
  | .data => 40#6

theorem writeCr_invalidate (side : Side) (su : Bool) (s : State) :
    writeCr (commandRegister side) (if su then 10#32 else 11#32) s = .ok () (invalidatePatc side su s) := by
  cases side <;> cases su <;> rfl

theorem writeCr_probe (side : Side) (su : Bool) (s : State) :
    writeCr (commandRegister side) (if su then 8#32 else 9#32) s = .ok () (probe side su s) := by
  cases side <;> cases su <;> rfl

/-- Settles O25: bulk invalidation entry by entry, and a probe by which page and which block it chose. -/
theorem translationCacheCommands : Obligations.TranslationCacheCommands := by
  unfold Obligations.TranslationCacheCommands
  intro side s s1 su supervisor m command page block
  have run {code : Word} {u : State} {P : State → Prop} (h : writeCr (commandRegister side) code s = .ok () u)
      (after : P (advance (refetch u))) : command code P := fun held =>
    does_of_writeCr (n := commandRegister side) supervisor (by rw [held, h]) after
  refine ⟨run (writeCr_invalidate side su s) ⟨?_, fun j => ?_⟩, fun k hk mask => run (writeCr_probe side su s) ?_⟩
  · rw [invalidatePatc, mmuOf_completed]
    exact portWrite_setMmu side s _
  · rw [invalidatePatc, mmuOf_completed]
    simp only [Fin.getElem_fin, Vector.getElem_map]
    exact ⟨invalidateIf_upper su _, fun i hi => invalidateIf_lower_bit su _ hi⟩
  · have pages (i : Fin 32) : page m.patc[i] ↔ i ∈ patcMatches m su m.sar := (mem_patcMatches.trans patcHits_iff).symm
    have blocks (i : Fin 8) : block k m.batc[i] ↔ i ∈ batcMatches m su m.sar := by
      rw [mem_batcMatches, blockBits_of_mask hk mask]
      exact batcHits_iff.symm
    have pageHit : (probedPage side su s).1.isSome = true ↔ ∃ i : Fin 32, page m.patc[i] :=
      pickOne_isSome.trans (exists_congr fun i => (pages i).symm)
    have blockHit : (probedBlock side su s).1.isSome = true ↔ ∃ i : Fin 8, block k m.batc[i] :=
      pickOne_isSome.trans (exists_congr fun i => (blocks i).symm)
    obtain ⟨ir, status⟩ := mmuOf_probed side su s
    intro n
    refine ⟨portWrite_probe side su s, fun frozen => ?_, fun thawed => ⟨fun i hi hp hb => ?_, ?_, ?_⟩,
      fun i hi hb hp => ?_, fun j only => ?_, fun j only => ?_, fun hit miss => ?_, fun hit miss => ?_⟩
    · rw [status, if_pos frozen]
    · rw [status, if_neg (by simp [thawed]), probeStatus_bit _ _ _ hi, if_neg hp, if_neg hb]
    · rw [status, if_neg (by simp [thawed]), probeStatus_bit _ _ _ (by decide), if_pos rfl, pageHit]
    · rw [status, if_neg (by simp [thawed]), probeStatus_bit _ _ _ (by decide), if_neg (by decide), if_pos rfl,
        blockHit]
    · rw [ir]
      exact probeIndex_outside_bit hi hb hp
    · have chosen : (probedPage side su s).1 = some j := pickOne_unique fun i => (pages i).symm.trans (only i)
      rw [ir, chosen, probeIndex_page, BitVec.toNat_ofNat, Nat.mod_eq_of_lt (by omega)]
    · have chosen : (probedBlock side su s).1 = some j := pickOne_unique fun i => (blocks i).symm.trans (only i)
      rw [ir, chosen, probeIndex_block, BitVec.toNat_ofNat, Nat.mod_eq_of_lt (by omega)]
    · obtain ⟨i, chosen⟩ := Option.isSome_iff_exists.mp (pageHit.mpr hit)
      have noBlock : (probedBlock side su s).1 = none := pickOne_eq_none.mpr fun i hi => miss i ((blocks i).mpr hi)
      rw [ir, chosen, noBlock, probeIndex_block_kept]
    · obtain ⟨i, chosen⟩ := Option.isSome_iff_exists.mp (blockHit.mpr hit)
      have noPage : (probedPage side su s).1 = none := pickOne_eq_none.mpr fun i hi => miss i ((pages i).mpr hi)
      rw [ir, chosen, noPage, probeIndex_page_kept]

end Sys2Proof.Machine


/-! ## Touch and allocate loads -/

namespace Sys2Proof.Machine

/-! ### With nothing from outside: reads leave memory and the data cache as they are -/

/-- Neither memory nor the data cache changes, and the script is as before. -/
structure Undisturbed (s t : State) : Prop where
  script : t.script = s.script
  dcache : t.dcache = s.dcache
  mem : t.mem = s.mem

theorem Undisturbed.refl (s : State) : Undisturbed s s := ⟨rfl, rfl, rfl⟩

theorem Undisturbed.trans {s t u : State} (h : Undisturbed s t) (k : Undisturbed t u) : Undisturbed s u :=
  ⟨k.script.trans h.script, k.dcache.trans h.dcache, k.mem.trans h.mem⟩

theorem Undisturbed.idle {s t : State} (h : Undisturbed s t) (idle : s.script = Script.idle) : t.script = Script.idle :=
  h.script.trans idle

theorem undisturbed_setMmu (side : Side) (s : State) (m : Mmu) : Undisturbed s (setMmu side s m) := by
  cases side <;> exact ⟨rfl, rfl, rfl⟩

theorem undisturbed_setPort (side : Side) (v : Word) (s : State) : Undisturbed s (setPort side v s) := by
  cases side <;> exact ⟨rfl, rfl, rfl⟩

theorem undisturbed_pickOne {n : Nat} (l : List (Fin n)) (s : State) : Undisturbed s (pickOne l s).2 := by
  rw [pickOne_state]
  exact ⟨rfl, rfl, rfl⟩

theorem undisturbed_searchLoad (side : Side) (su write : Bool) (la : Word) (acc : Attr) (pd pda : Word)
    (s : State) : Undisturbed s (searchLoad side su write la acc pd pda s).last := by
  simp only [searchLoad]; split
  · exact .refl s
  · exact undisturbed_setMmu side s _

section
variable {s : State} (idle : s.script = Script.idle)
include idle

theorem undisturbed_busRead (x : BusTxn) (n : Nat) : Undisturbed s (busRead s x n).2 := by
  simp only [busRead, busReadAt, takeEnd_idle idle, plain_cut, closeTxn_plain, afterAnswer]
  split
  · exact ⟨rfl, rfl, rfl⟩
  · split <;> exact ⟨rfl, rfl, rfl⟩

theorem undisturbed_busAddressOnly (x : BusTxn) : Undisturbed s (busAddressOnly s x).2 := by
  simp only [busAddressOnly, takeEnd_idle idle, plain_cut, closeTxn_plain]
  exact ⟨rfl, rfl, rfl⟩

theorem undisturbed_burstRead (x : BusTxn) : Undisturbed s (burstRead s x).2 := by
  simp only [burstRead, takeEnd_idle idle, plain_cut, closeTxn_plain]
  split <;> exact ⟨rfl, rfl, rfl⟩

theorem undisturbed_readDescriptor (side : Side) (user : BitVec 2) (a : Word) :
    Undisturbed s (readDescriptor side user a s).2 := by
  have once : s.script.ends.length = 0 := by rw [idle]; rfl
  have h := undisturbed_busRead idle (descriptorTxn side user a) 4
  simp only [readDescriptor, arbitrate_idle idle, once, readAgain]
  split <;> exact h

theorem undisturbed_searchPage (side : Side) (su write : Bool) (la : Word) (user : BitVec 2) (acc : Attr) (pda : Word) :
    Undisturbed s (searchPage side su write la user acc pda s).last := by
  have first := undisturbed_readDescriptor idle side user pda
  simp only [searchPage]; split
  · exact first
  · split
    · exact first
    · split
      · exact first.trans (undisturbed_searchLoad side su write la _ _ _ _)
      · next pd _ _ _ =>
        have second := first.trans (undisturbed_readDescriptor (first.idle idle) side user (pd &&& 0xFFFFFFFC#32))
        split
        · exact second
        · split
          · exact second.trans (undisturbed_searchLoad side su write la _ _ _ _)
          · exact second

theorem undisturbed_tableSearch (side : Side) (su write : Bool) (la : Word) :
    Undisturbed s (tableSearch side su write la s).last := by
  have segment (a : Word) := undisturbed_readDescriptor idle side (areaUser (areaOf (mmuOf side s) su)) a
  simp only [tableSearch]; split
  · exact segment _
  · split
    · exact segment _
    · split
      · exact segment _
      · exact (segment _).trans (undisturbed_searchPage ((segment _).idle idle) side su write la _ _ _)

theorem undisturbed_translateMiss (side : Side) (su write : Bool) (la : Word) :
    Undisturbed s (translateMiss side su write la s).last := by
  have search := undisturbed_tableSearch idle side su write la
  unfold translateMiss; split
  · split
    · next hs => rw [hs] at search; rw [applyHit_last]; exact search.trans (undisturbed_setPort side _ _)
    · next hs =>
      rw [hs] at search
      rw [MRes.last_fail]; split
      · exact search
      · exact search.trans (undisturbed_setPort side _ _)
  · exact .refl s

theorem undisturbed_translatePage (side : Side) (su write : Bool) (la : Word) :
    Undisturbed s (translatePage side su write la s).last := by
  have picked := undisturbed_pickOne (patcMatches (mmuOf side s) su la) s
  simp only [translatePage]; split
  · rw [applyHit_last]; exact picked
  · exact picked.trans (undisturbed_translateMiss (picked.idle idle) side su write la)

theorem undisturbed_translate (side : Side) (su write : Bool) (la : Word) :
    Undisturbed s (translate side su write la s).last := by
  have picked := undisturbed_pickOne (batcMatches (mmuOf side s) su la) s
  simp only [translate]; split
  · exact .refl s
  · split
    · rw [applyHit_last]; exact picked
    · split
      · exact picked.trans (undisturbed_translatePage (picked.idle idle) side su write la)
      · exact picked

theorem undisturbed_dataAddress (su write : Bool) (la : Word) : Undisturbed s (dataAddress su write la s).last := by
  unfold dataAddress; split
  · exact .refl s
  · exact undisturbed_translate idle .data su write la

end

/-! ### The bytes of a line -/

theorem lineAddr_toNat (a : Word) : (lineAddr a).toNat = a.toNat / 32 * 32 := by
  have shifted : lineAddr a = (a >>> 5) <<< 5 := by
    refine BitVec.eq_of_getLsbD_eq fun i hi => ?_
    rw [lineAddr, and_lit_bit (p := (5 ≤ ·)) (by decide) a hi, BitVec.getLsbD_shiftLeft, BitVec.getLsbD_ushiftRight]
    by_cases low : i < 5
    · simp [low, show ¬ 5 ≤ i by omega]
    · simp [low, hi, show 5 ≤ i by omega]
  rw [shifted, BitVec.toNat_shiftLeft, BitVec.toNat_ushiftRight, Nat.shiftLeft_eq, Nat.shiftRight_eq_div_pow]
  exact Nat.mod_eq_of_lt (by omega)

theorem lineAddr_eq_iff {a b : Word} : lineAddr a = lineAddr b ↔ a.toNat / 32 = b.toNat / 32 := by
  rw [← BitVec.toNat_inj, lineAddr_toNat, lineAddr_toNat]
  omega

/-- A byte outside the line is outside each of its four beats. -/
theorem beat_outside {a b : Word} {j : Nat} (hj : j < 4) (outside : lineAddr b ≠ lineAddr a) :
    8 ≤ (b - beatAddr (lineAddr a) j).toNat := by
  have line := lineAddr_toNat a
  rw [ne_eq, lineAddr_eq_iff] at outside
  rw [beatAddr, BitVec.toNat_sub, BitVec.toNat_add, BitVec.toNat_ofNat, line]
  omega

/-- The beats of a burst write reach no byte outside its line. -/
theorem readByte_burstWriteBeats_outside {s : State} (wf : Memory.wf s.mem = true) {x : BusTxn} {b : Word}
    (outside : lineAddr b ≠ lineAddr x.addr) (d : Vector Byte 32) {js : List Nat} (order : ∀ j ∈ js, j < 4) :
    readByte (burstWriteBeats s x d js).2 b = readByte s b := by
  induction js generalizing s with
  | nil => rfl
  | cons j js ih =>
    have rest : ∀ k ∈ js, k < 4 := fun k hk => order k (List.mem_cons_of_mem j hk)
    simp only [burstWriteBeats]; split
    · rfl
    · split
      · exact ih wf rest
      · have short : (lineBytes d (8 * j) 8).length ≤ 8 := List.length_take_le 8 _
        have beyond := beat_outside (order j List.mem_cons_self) outside
        rw [ih (writeBytes_wf wf _ _) rest, readByte_writeBytes wf _ _ (by omega), if_neg (by omega)]

theorem beatOrder_lt (a : Word) : ∀ j ∈ beatOrder a, j < 4 := by
  simp [beatOrder, Nat.mod_lt]

/-- The addresses in the line that a cache line holds: its tag, and the set it stands in (12_cache_mmu_state.md R111,
R112). -/
theorem lineAddress_line {l : DLine} {a b : Word} (same : lineAddr b = lineAddr (lineAddress l a)) :
    l.tag = b.extractLsb' 12 20 ∧ ∀ way, lineIndex b way = lineIndex a way := by
  have bits {i : Nat} (low : 5 ≤ i) (hi : i < 32) : b.getLsbD i = (lineAddress l a).getLsbD i := by
    have masked (c : Word) : (lineAddr c).getLsbD i = c.getLsbD i := by
      rw [lineAddr, and_lit_bit (p := (5 ≤ ·)) (by decide) c hi, decide_eq_true low, Bool.true_and]
    rw [← masked, same, masked]
  have address {i : Nat} (hi : i < 32) :
      (lineAddress l a).getLsbD i = if i < 12 then a.getLsbD i else l.tag.getLsbD (i - 12) := by
    rw [lineAddress, BitVec.getLsbD_or, and_lit_bit (p := (· < 12)) (by decide) a hi, BitVec.getLsbD_shiftLeft,
      BitVec.getLsbD_setWidth]
    by_cases offset : i < 12
    · simp [offset]
    · simp [offset, hi, show i - 12 < 32 by omega]
  refine ⟨BitVec.eq_of_getLsbD_eq fun i hi => ?_, fun way => congrArg (· ++ BitVec.ofBool way) ?_⟩
  · rw [BitVec.getLsbD_extractLsb', bits (by omega) (by omega), address (by omega), if_neg (by omega),
      Nat.add_sub_cancel_left, decide_eq_true hi, Bool.true_and]
  · refine BitVec.eq_of_getLsbD_eq fun i hi => ?_
    rw [BitVec.getLsbD_extractLsb', BitVec.getLsbD_extractLsb', bits (by omega) (by omega), address (by omega),
      if_pos (by omega)]

/-! ### What a victim's copyback can write -/

/-- No modified line of the data cache covers the byte. -/
def NotModified (s : State) (b : Word) : Prop :=
  ∀ way, (dLine s b way).state = .exclusiveModified → (dLine s b way).tag ≠ b.extractLsb' 12 20

/-- The script is as before, and memory changes only where a modified line of the data cache of s covers it. -/
structure SpillsModified (s t : State) : Prop where
  script : t.script = s.script
  bytes : Memory.wf s.mem = true → ∀ b, NotModified s b → readByte t b = readByte s b

theorem Undisturbed.spills {s t : State} (h : Undisturbed s t) : SpillsModified s t :=
  ⟨h.script, fun _ b _ => readByte_congr h.mem b⟩

theorem Undisturbed.then_spills {s t u : State} (h : Undisturbed s t) (k : SpillsModified t u) :
    SpillsModified s u where
  script := k.script.trans h.script
  bytes wf b clean := by
    have same : NotModified t b := by unfold NotModified dLine at clean ⊢; rwa [h.dcache]
    rw [k.bytes (by rwa [h.mem]) b same, readByte_congr h.mem]

/-- What follows a copyback may change the cache, but not memory. -/
theorem SpillsModified.then_kept {s t u : State} (h : SpillsModified s t) (script : u.script = t.script)
    (mem : u.mem = t.mem) : SpillsModified s u :=
  ⟨script.trans h.script, fun wf b clean => (readByte_congr mem b).trans (h.bytes wf b clean)⟩

section
variable {s : State} (idle : s.script = Script.idle)
include idle

/-- The copyback of a modified line writes the bytes of that line alone. -/
theorem spills_copyback {a : Word} {way : Bool} (modified : (dLine s a way).state = .exclusiveModified) (tc : BitVec 4)
    (tsiz : BitVec 2) {order : List Nat} (beats : ∀ j ∈ order, j < 4) :
    SpillsModified s (copyback s a way tc tsiz order).2 := by
  simp only [copyback, burstWrite, takeEnd_idle idle, plain_cut, closeTxn_plain]
  refine ⟨by rw [logTxn_script, burstWriteBeats_eq], fun wf b clean => ?_⟩
  rw [readByte_congr (logTxn_mem _ _)]
  refine readByte_burstWriteBeats_outside wf (fun same => ?_) _ beats
  obtain ⟨tag, index⟩ := lineAddress_line (l := dLine s a way) same
  have line : dLine s b way = dLine s a way := by simp only [dLine, index]
  exact clean way (line ▸ modified) (line ▸ tag)

theorem spills_saveVictim (a : Word) (way write : Bool) : SpillsModified s (saveVictim s a way write).last := by
  simp only [saveVictim]; split
  · next modified =>
    have h : SpillsModified s (replaceCopyback s a way).2 :=
      spills_copyback idle modified (tcData true) 0#2 (beatOrder_lt a)
    split
    · rw [MRes.last_ok, arbitrate_idle (h.script.trans idle)]
      exact h
    · exact h
  · exact (Undisturbed.refl s).spills

theorem spills_makeRoom (a : Word) (way write : Bool) : SpillsModified s (makeRoom s a way write).last := by
  have h := spills_saveVictim idle a way write
  unfold makeRoom; split
  · next hs => rw [hs] at h; exact h.then_kept rfl rfl
  · next hs => rw [hs] at h; exact h

theorem spills_evictHit (a : Word) (write : Bool) : SpillsModified s (evictHit s a write).last := by
  unfold evictHit; split
  · split
    · exact spills_makeRoom idle a _ write
    · exact (Undisturbed.refl s).spills
  · exact (Undisturbed.refl s).spills

theorem undisturbed_readSingle (q : Req) (n : Nat) : Undisturbed s (readSingle q n s).last := by
  have h := undisturbed_busRead idle (reqTxn q true) n
  simp only [readSingle]; split <;> exact h

theorem spills_readFill (q : Req) (n : Nat) (way : Bool) : SpillsModified s (readFill q n way s).last := by
  have room := spills_makeRoom idle q.x.pa way false
  unfold readFill; split
  · next hs => rw [hs] at room; exact room
  · next s1 hs =>
    rw [hs] at room
    have fill := undisturbed_burstRead (room.script.trans idle) (fillTxn q false way)
    have filled := room.then_kept fill.script fill.mem
    simp only; split
    · exact filled
    · simp only [MRes.last_ok]; split
      · exact filled.then_kept rfl rfl
      · exact filled

theorem spills_dataRead (q : Req) (n : Nat) : SpillsModified s (dataRead q n s).last := by
  rw [dataRead, arbitrate_idle idle]
  unfold readLookup; split
  · have evicted := spills_evictHit idle q.x.pa false
    split
    · next hs => rw [hs] at evicted; exact evicted
    · next hs =>
      rw [hs] at evicted
      have single := undisturbed_readSingle (evicted.script.trans idle) q n
      exact evicted.then_kept single.script single.mem
  · split
    · exact (Undisturbed.refl s).spills
    · split
      · exact spills_readFill idle q n _
      · exact (undisturbed_readSingle idle q n).spills

theorem spills_touch (q : Req) : SpillsModified s (touch q s) := by
  have h := spills_dataRead idle q 1
  unfold touch; split <;> next hs => rw [hs] at h; exact h

theorem spills_allocate (q : Req) : SpillsModified s (allocate q s) := by
  have single := (undisturbed_busAddressOnly idle (allocateTxn q none)).spills
  rw [allocate, arbitrate_idle idle]
  unfold allocateLookup; split
  · exact single
  · split
    · exact (Undisturbed.refl s).spills
    · split
      · exact single
      · next way _ =>
        have saved := spills_saveVictim idle q.x.pa way false
        split
        · next hs => rw [hs] at saved; exact saved
        · next s1 hs =>
          rw [hs] at saved
          have announce := undisturbed_busAddressOnly (saved.script.trans idle) (allocateTxn q (some way))
          have announced := saved.then_kept announce.script announce.mem
          simp only; split
          · exact announced.then_kept rfl rfl
          · exact announced

end

/-! ### The loads -/

/-- What a touch or an allocate load does: it completes, with what a data access keeps, and with nothing from outside
memory changes only under a modified line. -/
def NeverTraps (s : State) (r : Res Unit) : Prop :=
  ∃ t, r = .ok () t ∧ AccessKeeps s t ∧ (s.script = Script.idle → SpillsModified s t)

/-- A translation whose fault is dropped, then what the caches do with the address (45_load_store.md R620, R622). -/
theorem neverTraps_translated (su : Bool) (la : Word) (s : State) {k : Xlate → State → State}
    (keeps : ∀ x u, CacheKeeps u (k x u))
    (spills : ∀ x {u : State}, u.script = Script.idle → SpillsModified u (k x u)) :
    NeverTraps s (match dataAddress su false la s with
      | .fail _ s' => .ok () s'
      | .ok x s' => .ok () (k x s')) := by
  have access := accessKeeps_dataAddress su false la s
  have quiet := fun idle => undisturbed_dataAddress (s := s) idle su false la
  split
  · next hs => rw [hs] at access quiet; exact ⟨_, rfl, access, fun idle => (quiet idle).spills⟩
  · next hs =>
    rw [hs] at access quiet
    exact ⟨_, rfl, access.trans (keeps _ _).access,
      fun idle => (quiet idle).then_spills (spills _ ((quiet idle).idle idle))⟩

theorem neverTraps_touchLoad {s : State} {usr : Bool} (allowed : usr = true → psrMode s = true) (ea : Word) :
    NeverTraps s (touchLoad usr ea s) := by
  rw [touchLoad, usrViolation_eq_false allowed, if_neg Bool.false_ne_true]
  exact neverTraps_translated (spaceOf s usr) ea s (fun _ _ => cacheKeeps_touch _ _) fun _ _ idle => spills_touch idle _

theorem neverTraps_allocateLoad {s : State} {usr : Bool} (allowed : usr = true → psrMode s = true) (ea : Word) :
    NeverTraps s (allocateLoad usr ea s) := by
  rw [allocateLoad, usrViolation_eq_false allowed, if_neg Bool.false_ne_true]
  split
  · exact ⟨s, rfl, .refl s, fun _ => (Undisturbed.refl s).spills⟩
  · exact neverTraps_translated (spaceOf s usr) _ s (fun _ _ => cacheKeeps_allocate _ _)
      fun _ _ idle => spills_allocate idle _

/-- Settles O47: each form is a translation whose fault is dropped, then a touch or an allocation. -/
theorem touchAndAllocateLoadsNeverTrap : Obligations.TouchAndAllocateLoadsNeverTrap := by
  unfold Obligations.TouchAndAllocateLoadsNeverTrap
  intro s s1 s2 scaled usr imm allowed quiet
  have completes {i : Instr} {r : Res Unit} (exec_eq : exec i s = finish r) (h : NeverTraps s r) : Does i s quiet := by
    obtain ⟨t, rfl, keeps, spills⟩ := h
    have control : SameControl s (advance t) := keeps.works.sameControl rfl
    refine ⟨advance t, exec_eq, ?_, ?_, control, ?_, ?_, ?_, ?_, ?_, ?_, ?_, fun wf idle b clean => ?_⟩
    · rw [advance_gpr, keeps.frame]
    · rw [advance_xrf, keeps.frame]
    · rw [advance_psr, keeps.frame]
    · rw [advance_fpsr, keeps.frame]
    · rw [advance_fpcr, keeps.frame]
    · rw [advance_xip, keeps.frame]
    · rw [advance_nip, keeps.frame]
    · rfl
    · rw [advance_lastExc, keeps.frame]
    · exact (readByte_congr (advance_mem t) b).trans ((spills idle).bytes wf b clean)
  exact ⟨completes rfl (neverTraps_touchLoad (usr := false) nofun _), completes rfl (neverTraps_touchLoad allowed _),
    completes rfl (neverTraps_allocateLoad (usr := false) nofun _), completes rfl (neverTraps_allocateLoad allowed _)⟩

end Sys2Proof.Machine


/-! ## Effective addresses -/

namespace Sys2Proof.Machine

/-! ### Alignment -/

/-- The low k bits of an address are its remainder. -/
theorem and_lowMask_toNat (a : Word) {k : Nat} (hk : k ≤ 32) :
    (a &&& BitVec.ofNat 32 (2 ^ k - 1)).toNat = a.toNat % 2 ^ k := by
  have fits : 2 ^ k - 1 < 2 ^ 32 := by have := Nat.pow_le_pow_right (n := 2) (by decide) hk; omega
  rw [BitVec.toNat_and, BitVec.toNat_ofNat, Nat.mod_eq_of_lt fits, Nat.and_two_pow_sub_one_eq_mod]

/-- Clearing the low bits of an address takes its remainder away. -/
theorem and_not_lowMask (a : Word) {k : Nat} (hk : k ≤ 32) :
    a &&& ~~~BitVec.ofNat 32 (2 ^ k - 1) = BitVec.ofNat 32 (a.toNat - a.toNat % 2 ^ k) := by
  have lowPart := and_lowMask_toNat a hk
  generalize BitVec.ofNat 32 (2 ^ k - 1) = low at lowPart ⊢
  have disjoint : (a &&& low) &&& (a &&& ~~~low) = 0#32 := by ext i hi; simp; grind
  have parts : (a &&& low) + (a &&& ~~~low) = a := by
    rw [BitVec.add_eq_or_of_and_eq_zero _ _ disjoint]; ext i hi; simp; grind
  have whole : a.toNat = a.toNat % 2 ^ k + (a &&& ~~~low).toNat := by
    rw [← lowPart, ← BitVec.toNat_add_of_and_eq_zero disjoint, parts]
  rw [← BitVec.toNat_inj, BitVec.toNat_ofNat, Nat.mod_eq_of_lt (by omega)]
  omega

/-- The address that an access of 2 ^ k bytes uses, in arithmetic (20_memory.md R180). -/
theorem alignAddr_pow (s : State) {k : Nat} (hk : k ≤ 32) (ea : Word) :
    alignAddr s (2 ^ k) ea = if ea.toNat % 2 ^ k = 0 then some ea
      else if psrMxm s then some (BitVec.ofNat 32 (ea.toNat - ea.toNat % 2 ^ k)) else none := by
  have aligned : ea &&& BitVec.ofNat 32 (2 ^ k - 1) = 0#32 ↔ ea.toNat % 2 ^ k = 0 := by
    rw [← BitVec.toNat_inj, and_lowMask_toNat ea hk, BitVec.toNat_ofNat, Nat.zero_mod]
  rw [alignAddr, and_not_lowMask ea hk]
  exact if_congr aligned rfl rfl

/-! ### Indexes -/

/-- A word stands for its signed value modulo 2 ^ 32. -/
theorem toNat_eq_toInt_emod (v : Word) : (v.toNat : Int) = v.toInt % 4294967296 := by
  have bounded := v.isLt
  rw [BitVec.toInt_eq_toNat_cond]
  split <;> omega

/-- The immediate index, extended as PSR.SGN says (30_encoding.md R371). -/
theorem imm16_toNat (s : State) (imm : BitVec 16) :
    ((imm16 s imm).toNat : Int) = (if psrSgn s then imm.toInt else (imm.toNat : Int)) % 4294967296 := by
  unfold imm16; split
  · rw [toNat_eq_toInt_emod, BitVec.toInt_signExtend_of_le (by decide)]
  · have := imm.isLt
    rw [BitVec.toNat_setWidth]
    omega

theorem eaImm_toNat (s : State) (s1 : RegNum) (imm : BitVec 16) :
    ((eaImm s s1 imm).toNat : Int)
      = (((readReg s s1).toNat : Int) + (if psrSgn s then imm.toInt else (imm.toNat : Int))) % 4294967296 := by
  have index := imm16_toNat s imm
  rw [eaImm, BitVec.toNat_add]
  omega

theorem eaReg_unscaled_toNat (s : State) (s1 s2 : RegNum) (k : Nat) :
    (eaReg s s1 s2 false k).toNat = ((readReg s s1).toNat + (readReg s s2).toNat) % 4294967296 :=
  BitVec.toNat_add ..

theorem eaReg_scaled_toNat (s : State) (s1 s2 : RegNum) (k : Nat) :
    (eaReg s s1 s2 true k).toNat = ((readReg s s1).toNat + (readReg s s2).toNat * 2 ^ k) % 4294967296 := by
  rw [eaReg, if_pos rfl, BitVec.toNat_add, BitVec.toNat_shiftLeft, Nat.shiftLeft_eq, Nat.add_mod_mod]

/-- Settles O41: the address arithmetic, and each lda ends in a register write of the scaled address. -/
theorem effectiveAddressAndAlignment : Obligations.EffectiveAddressAndAlignment := by
  unfold Obligations.EffectiveAddressAndAlignment
  intro s d s1 s2 imm k ea at_
  have scaled (j : Nat) : (eaReg s s1 s2 true j).toNat = at_ (2 ^ j) := eaReg_scaled_toNat s s1 s2 j
  refine ⟨fun hk => ⟨eaImm_toNat s s1 imm, ?_, scaled k, alignAddr_pow s (by omega) ea⟩,
    ⟨_, scaled 1, does_of_result rfl⟩, ⟨_, scaled 2, does_of_result rfl⟩, ⟨_, scaled 3, does_of_result rfl⟩,
    ⟨_, scaled 4, does_of_result rfl⟩⟩
  rw [eaReg_unscaled_toNat, ← Nat.mul_one (readReg s s2).toNat]

end Sys2Proof.Machine


/-! ## Loads, stores and exchanges in the plain setting -/

namespace Sys2Proof.Machine

/-! ### Loads of general registers -/

/-- What a load of a general register leaves, when it was read with only the bus log changed. -/
theorem loads_advance_writeReg (s : State) (log : List BusTxn) (d : RegNum) (v : Word) :
    Loads d v s (advance (writeReg { s with busLog := log } d v)) where
  reads r := (sets_advance_writeReg { s with busLog := log } d v).reads r
  frame := by rw [writeReg_frame]; rfl
  memory a := readByte_congr (by rw [writeReg_frame]; rfl) a

theorem loadsPair_advance_writePair (s : State) (log : List BusTxn) {d : RegNum} (even : d.toNat % 2 = 0) (v : DWord) :
    LoadsPair d (v.extractLsb' 32 32) (v.extractLsb' 0 32) s (advance (writePair { s with busLog := log } d v)) where
  reads r := (setsPair_advance_writePair { s with busLog := log } d v even).reads r
  frame := by rw [writePair_frame]; rfl
  memory a := readByte_congr (by rw [writePair_frame]; rfl) a

theorem ofNat_high_half (v : Nat) :
    (BitVec.ofNat 64 v).extractLsb' 32 32 = BitVec.ofNat 32 (v / 4294967296) := by
  apply BitVec.eq_of_toNat_eq
  simp only [BitVec.extractLsb'_toNat, BitVec.toNat_ofNat, Nat.shiftRight_eq_div_pow]
  omega

theorem ofNat_low_half (v : Nat) : (BitVec.ofNat 64 v).extractLsb' 0 32 = BitVec.ofNat 32 v := by
  apply BitVec.eq_of_toNat_eq
  simp only [BitVec.extractLsb'_toNat, BitVec.toNat_ofNat, Nat.shiftRight_zero]
  omega

section
variable {d : RegNum} {usr : Bool} {ea : Word} {s : State}

theorem loadB_eq (hd : d ≠ 0#5) :
    loadB d usr ea s = loadInto usr 1 ea (fun t v => writeReg t d ((BitVec.ofNat 8 v).signExtend 32)) s := if_neg hd

theorem loadH_eq (hd : d ≠ 0#5) :
    loadH d usr ea s = loadInto usr 2 ea (fun t v => writeReg t d ((BitVec.ofNat 16 v).signExtend 32)) s := if_neg hd

theorem loadW_eq (hd : d ≠ 0#5) :
    loadW d usr ea s = loadInto usr 4 ea (fun t v => writeReg t d (BitVec.ofNat 32 v)) s := if_neg hd

theorem oddReg_even (even : d.toNat % 2 = 0) : oddReg d = false := by simp [oddReg_eq, even]

theorem loadD_eq (even : d.toNat % 2 = 0) (allowed : usr = true → psrMode s = true) :
    loadD d usr ea s = loadInto usr 8 ea (fun t v => writePair t d (BitVec.ofNat 64 v)) s := by
  simp only [loadD, usrViolation_eq_false allowed, oddReg_even even, Bool.false_eq_true, if_false]

theorem storeD_eq {wt : Bool} (even : d.toNat % 2 = 0) (allowed : usr = true → psrMode s = true) :
    storeD d usr wt ea s = storeValue usr wt 8 ea (readPair s d).toNat s := by
  simp only [storeD, usrViolation_eq_false allowed, oddReg_even even, Bool.false_eq_true, if_false]

end

/-- Settles O42: in the plain setting the operand is read and one general register, or an even pair, written. -/
theorem generalRegisterLoads : Obligations.GeneralRegisterLoads := by
  unfold Obligations.GeneralRegisterLoads
  intro s d s1 s2 scaled usr imm allowed from_
  have both {n k : Nat} {iImm iReg : Instr} {out : Nat → State → Prop} (put : State → Nat → State) (hn : n ≤ 8)
      (written : ∀ log v, out v (advance (put { s with busLog := log } v)))
      (hImm : exec iImm s = finish (loadInto false n (eaImm s s1 imm) put s))
      (hReg : exec iReg s = finish (loadInto usr n (eaReg s s1 s2 scaled k) put s)) : from_ n k iImm iReg out := by
    intro a v plain held
    have upper : n = 16 → PlainData s (a + 8#32) := by omega
    refine ⟨fun ha => ?_, fun ha => ?_⟩
    · obtain ⟨log, hlog⟩ := loadInto_held plain upper (.inl hn) (usr := false) nofun ha held put
      exact ⟨_, hImm.trans (congrArg finish hlog), written log v⟩
    · obtain ⟨log, hlog⟩ := loadInto_held plain upper (.inl hn) allowed ha held put
      exact ⟨_, hReg.trans (congrArg finish hlog), written log v⟩
  have one (log : List BusTxn) := loads_advance_writeReg s log d
  refine ⟨fun hd => ?_, ?_, fun hd => ?_, ?_, fun hd => ?_, fun even => ?_⟩
  · exact both _ (by decide) (fun log v => one log _) (congrArg finish (loadB_eq hd)) (congrArg finish (loadB_eq hd))
  · exact both _ (by decide) (fun log v => one log _) rfl rfl
  · exact both _ (by decide) (fun log v => one log _) (congrArg finish (loadH_eq hd)) (congrArg finish (loadH_eq hd))
  · exact both _ (by decide) (fun log v => one log _) rfl rfl
  · exact both _ (by decide) (fun log v => one log _) (congrArg finish (loadW_eq hd)) (congrArg finish (loadW_eq hd))
  · refine both _ (by decide) (fun log v => ?_) (congrArg finish (loadD_eq even nofun))
      (congrArg finish (loadD_eq even allowed))
    rw [← ofNat_high_half, ← ofNat_low_half]
    exact loadsPair_advance_writePair s log even _

/-! ### Stores -/

theorem add_sub_self_toNat (a : Word) {k : Nat} (hk : k < 4294967296) : (a + BitVec.ofNat 32 k - a).toNat = k := by
  rw [BitVec.add_comm, BitVec.add_sub_cancel, BitVec.toNat_ofNat, Nat.mod_eq_of_lt hk]

section
variable {s u : State} {a : Word} {n v : Nat}

/-- The bytes of an operand that was stored, in the order of PSR.BO (20_memory.md R172). -/
theorem readByte_stored (wf : Memory.wf s.mem = true) (hn : n ≤ 16)
    (written : u.mem = (writeBytes s a (operandBytes s n v)).mem) {k : Nat} (hk : k < n) :
    (readByte u (a + BitVec.ofNat 32 k)).toNat = v / 256 ^ bytePlace s n k % 256 := by
  rw [readByte_congr written, readByte_writeBytes wf _ _ (by rw [operandBytes_length]; omega),
    add_sub_self_toNat a (by omega), operandBytes_length, if_pos hk, operandBytes_getD s n v k hk]

theorem readByte_beside (wf : Memory.wf s.mem = true) (hn : n ≤ 16)
    (written : u.mem = (writeBytes s a (operandBytes s n v)).mem) {b : Word} (hb : n ≤ (b - a).toNat) :
    readByte u b = readByte s b := by
  rw [readByte_congr written, readByte_writeBytes wf _ _ (by rw [operandBytes_length]; omega), operandBytes_length,
    if_neg (by omega)]

/-- What a store of the operand's bytes leaves. -/
theorem stores_advance (wf : Memory.wf s.mem = true) (hn : n ≤ 16) (log : List BusTxn) :
    Stores a n v s (advance { s with mem := (writeBytes s a (operandBytes s n v)).mem, busLog := log }) where
  bytes _ hk := readByte_stored wf hn rfl hk
  others _ hb := readByte_beside wf hn rfl hb
  frame := rfl

theorem writeBytes_append (s : State) (a : Word) (xs ys : List Byte) :
    writeBytes s a (xs ++ ys) = writeBytes (writeBytes s a xs) (a + BitVec.ofNat 32 xs.length) ys := by
  induction xs generalizing s a with
  | nil => simp [writeBytes]
  | cons x xs ih =>
    have next : a + 1#32 + BitVec.ofNat 32 xs.length = a + BitVec.ofNat 32 (x :: xs).length := by
      rw [List.length_cons, BitVec.add_assoc, Nat.add_comm, BitVec.ofNat_add]
    rw [List.cons_append, writeBytes, ih, next, writeBytes]

/-- Only the memory of the state matters to the memory that byte stores leave. -/
theorem writeBytes_mem_congr {s t : State} (h : t.mem = s.mem) (a : Word) (bs : List Byte) :
    (writeBytes t a bs).mem = (writeBytes s a bs).mem := by
  induction bs generalizing s t a with
  | nil => exact h
  | cons b bs ih => exact ih (congrArg (Memory.write · a.toNat b) h) _

theorem writeOperand_small {x : Xlate} {su wt : Bool} {bs : List Byte} (hn : n ≤ 8) :
    writeOperand x su wt n bs s = dataWrite false (dataReq x su n wt) bs s := if_neg (by omega)

theorem writeOperand_quad {x : Xlate} {su wt : Bool} {bs : List Byte} {t : State} {r : MRes Unit}
    (first : dataWrite true (dataReq x su 8 wt) (bs.take 8) s = .ok () t)
    (second : dataWrite false (dataReq ⟨x.pa + 8#32, x.attr⟩ su 8 wt) (bs.drop 8) t = r) :
    writeOperand x su wt 16 bs s = r := by
  simp only [writeOperand, if_true, first, second]

theorem writeBytes_halves {bs : List Byte} (h : bs.length = 16) :
    writeBytes (writeBytes s a (bs.take 8)) (a + 8#32) (bs.drop 8) = writeBytes s a bs := by
  have low : (bs.take 8).length = 8 := by rw [List.length_take]; omega
  have whole := writeBytes_append s a (bs.take 8) (bs.drop 8)
  rwa [List.take_append_drop, low, eq_comm] at whole

/-- In the plain setting the write of an operand stores its bytes; a quad word is written as its two double words, at
the lower address first. -/
theorem PlainData.writeOperand (h : PlainData s a) (upper : n = 16 → PlainData s (a + 8#32)) (hn : n ≤ 8 ∨ n = 16)
    {x : Xlate} (hx : x.pa = a) (su wt : Bool) {bs : List Byte} (length : bs.length = n) :
    ∃ log, Machine.writeOperand x su wt n bs s = .ok () { s with mem := (writeBytes s a bs).mem, busLog := log } := by
  obtain small | rfl := hn
  · obtain ⟨t, ht⟩ := h.dataWrite (first := false) nofun (dataReq x su n wt) hx bs
    rw [writeOperand_small small, ht, writeBytes_eq]
    exact ⟨_, rfl⟩
  · obtain ⟨t, ht⟩ := h.dataWrite (first := true) (fun _ => (upper rfl).memory) (dataReq x su 8 wt) hx (bs.take 8)
    have upper' : PlainData (Machine.logTxn (writeBytes s a (bs.take 8)) t) (a + 8#32) := by
      obtain ⟨mmu, cache, bp0, bp1, memory, idle⟩ := upper rfl
      rw [writeBytes_eq]
      exact ⟨mmu, cache, bp0, bp1, memory, idle⟩
    obtain ⟨t', ht'⟩ := upper'.dataWrite (first := false) nofun (dataReq ⟨x.pa + 8#32, x.attr⟩ su 8 wt)
      (congrArg (· + 8#32) hx) (bs.drop 8)
    have mem : (writeBytes (Machine.logTxn (writeBytes s a (bs.take 8)) t) (a + 8#32) (bs.drop 8)).mem
        = (writeBytes s a bs).mem := by
      rw [← writeBytes_halves length]
      exact writeBytes_mem_congr (logTxn_mem _ t) _ _
    rw [writeOperand_quad ht ht', writeBytes_eq, mem, writeBytes_eq s a (bs.take 8)]
    exact ⟨_, rfl⟩

/-- In the plain setting a store puts the operand's bytes into memory at the aligned address. -/
theorem storeValue_plain (h : PlainData s a) (upper : n = 16 → PlainData s (a + 8#32)) (hn : n ≤ 8 ∨ n = 16)
    {usr : Bool} (allowed : usr = true → psrMode s = true) (wt : Bool) {ea : Word} (ha : alignAddr s n ea = some a) :
    ∃ log, storeValue usr wt n ea v s
      = .ok () { s with mem := (writeBytes s a (operandBytes s n v)).mem, busLog := log } := by
  obtain ⟨log, hlog⟩ := h.writeOperand upper hn (x := identity s.dmu (spaceOf s usr) a) rfl (spaceOf s usr) wt
    (operandBytes_length s n v)
  exact ⟨log, by
    simp only [Machine.storeValue, usrViolation_eq_false allowed, Bool.false_eq_true, if_false, ha, writeAt,
      h.dataAddress, hlog, settle]⟩

end

/-- Both index forms of a store of v in the plain setting. -/
theorem does_storeForms {s : State} {a : Word} {n v : Nat} (wf : Memory.wf s.mem = true) (h : PlainData s a)
    (upper : n = 16 → PlainData s (a + 8#32)) (hn : n ≤ 8 ∨ n = 16) {usr wt : Bool}
    (allowed : usr = true → psrMode s = true) {iImm iReg : Instr} {eaI eaR : Word}
    (hImm : exec iImm s = finish (storeValue false false n eaI v s))
    (hReg : exec iReg s = finish (storeValue usr wt n eaR v s)) :
    (alignAddr s n eaI = some a → Does iImm s (Stores a n v s))
      ∧ (alignAddr s n eaR = some a → Does iReg s (Stores a n v s)) := by
  have size : n ≤ 16 := by omega
  refine ⟨fun ha => ?_, fun ha => ?_⟩
  · obtain ⟨log, hlog⟩ := storeValue_plain h upper hn (usr := false) nofun false ha
    exact ⟨_, hImm.trans (congrArg finish hlog), stores_advance wf size log⟩
  · obtain ⟨log, hlog⟩ := storeValue_plain h upper hn allowed wt ha
    exact ⟨_, hReg.trans (congrArg finish hlog), stores_advance wf size log⟩

/-- Settles O44: each form stores the bytes of a register or an even pair in the plain setting. -/
theorem generalRegisterStores : Obligations.GeneralRegisterStores := by
  unfold Obligations.GeneralRegisterStores
  intro s d s1 s2 scaled usr wt imm allowed wf puts
  refine ⟨fun a h => ?_, fun a h => ?_, fun a h => ?_, fun even a h => ?_⟩
  · exact does_storeForms wf h (absurd · (by decide)) (by decide) allowed rfl rfl
  · exact does_storeForms wf h (absurd · (by decide)) (by decide) allowed rfl rfl
  · exact does_storeForms wf h (absurd · (by decide)) (by decide) allowed rfl rfl
  · have pair : (readPair s d).toNat = pairValue s d := readPair_toNat s d
    rw [← pair]
    exact does_storeForms wf h (absurd · (by decide)) (by decide) allowed (congrArg finish (storeD_eq even nofun))
      (congrArg finish (storeD_eq even allowed))

/-- The high w bits of an extended register (10_state.md R29). -/
theorem extractLsb'_top_toNat (x : XWord) {k w : Nat} (h : k + w = 80) : (x.extractLsb' k w).toNat = x.toNat / 2 ^ k := by
  have bounded := x.isLt
  rw [BitVec.extractLsb'_toNat, Nat.shiftRight_eq_div_pow, Nat.mod_eq_of_lt]
  rw [Nat.div_lt_iff_lt_mul (by positivity), ← pow_add, Nat.add_comm, h]
  exact bounded

/-- Settles O45: each form stores the high bits of an extended register, or all of it above 48 zeros. -/
theorem extendedRegisterStores : Obligations.ExtendedRegisterStores := by
  unfold Obligations.ExtendedRegisterStores
  intro s d s1 s2 scaled usr wt imm allowed wf x puts
  refine ⟨fun a h upper => ?_, fun a h upper => ?_, fun a h upper => ?_⟩
  · rw [← extractLsb'_top_toNat (readX s d) (k := 48) (w := 32) rfl]
    exact does_storeForms wf h upper (by decide) allowed rfl rfl
  · rw [← extractLsb'_top_toNat (readX s d) (k := 16) (w := 64) rfl]
    exact does_storeForms wf h upper (by decide) allowed rfl rfl
  · exact does_storeForms wf h upper (by decide) allowed rfl rfl

/-! ### Exchange -/

section
variable {s : State} {a : Word}

/-- Bytes that were stored are read back. -/
theorem readBytes_writeBytes (wf : Memory.wf s.mem = true) {bs : List Byte} (size : bs.length ≤ 16) :
    readBytes (writeBytes s a bs) a bs.length = bs := by
  refine List.ext_getElem (readBytes_length ..) fun k h1 h2 => ?_
  rw [← List.getD_eq_getElem _ 0#8 h1, ← List.getD_eq_getElem _ 0#8 h2, readBytes_getD _ _ _ _ h2,
    readByte_writeBytes wf _ _ (by omega), add_sub_self_toNat a (by omega), if_pos h2]

theorem betweenHalves_idle (idle : s.script = Script.idle) : betweenHalves s = s := by
  unfold betweenHalves; split
  · rfl
  · exact arbitrate_idle idle

/-- A write of plain memory reaches the memory and the log. -/
theorem busWrite_plain_frame (idle : s.script = Script.idle) {x : BusTxn} (hx : plainAt s x.addr = true)
    (bs : List Byte) :
    ∃ log, busWriteKeep false s x bs = (true, { s with mem := (writeBytes s x.addr bs).mem, busLog := log }) := by
  rw [busWrite_plain idle hx, writeBytes_eq]
  exact ⟨_, rfl⟩

/-- In the plain setting the two halves of xmem store the bytes and deliver the old ones, or with DCTL.XMEM 1 and no
latch on the board the ones just stored (45_load_store.md R630). -/
theorem PlainData.exchange {q : Req} (h : PlainData s q.x.pa) (wf : Memory.wf s.mem = true) {bs : List Byte}
    (size : bs.length ≤ 16) :
    ∃ log, Machine.exchange q bs.length bs s
      = .ok (if ctlXmem s.dmu.ctl = true ∧ s.env.xmemLatch = false then bs else readBytes s q.x.pa bs.length)
        { s with mem := (writeBytes s q.x.pa bs).mem, busLog := log } := by
  have address (read : Bool) : (lockedTxn q read).addr = q.x.pa := rfl
  have plain (read : Bool) : plainAt s (lockedTxn q read).addr = true := h.memory
  simp only [Machine.exchange, arbitrate_idle h.idle, h.evictHit]
  split
  · next first =>
    obtain ⟨log, stored⟩ := busWrite_plain_frame h.idle (plain false) bs
    rw [address] at stored
    have idle : ({ s with mem := (writeBytes s q.x.pa bs).mem, busLog := log } : State).script = Script.idle := h.idle
    simp only [h.failsAt, stored, if_true, betweenHalves_idle idle, busRead, busReadAt_plain idle (plain true), address]
    refine ⟨_, congrArg (MRes.ok · _) ?_⟩
    cases latch : s.env.xmemLatch
    · rw [if_neg Bool.false_ne_true, if_pos ⟨first, rfl⟩]
      refine (readBytes_congr ?_ _ _).trans (readBytes_writeBytes (a := q.x.pa) wf size)
      rfl
    · simp [answerBytes, deviceAt_plain (plain true)]
  · next last =>
    have idle : (Machine.logTxn s (lockedTxn q true)).script = Script.idle := h.idle
    obtain ⟨log, stored⟩ := busWrite_plain_frame idle (x := lockedTxn q false) h.memory bs
    rw [writeBytes_mem_congr (logTxn_mem s _)] at stored
    rw [if_neg fun first => last first.1]
    simp only [busRead, busReadAt_plain h.idle (plain true), betweenHalves_idle idle, busWrite, stored, if_true]
    exact ⟨log, rfl⟩

/-- In the plain setting an exchange puts r[D] into memory and the old operand, or what was just stored, into r[D]. -/
theorem exchangeReg_plain (h : PlainData s a) (wf : Memory.wf s.mem = true) {n old : Nat} (hn : n ≤ 16)
    (held : HeldAt s a n old) {usr : Bool} (allowed : usr = true → psrMode s = true) {ea : Word}
    (ha : alignAddr s n ea = some a) (d : RegNum) :
    ∃ log, exchangeReg d usr n ea s
      = .ok () (writeReg
        { s with mem := (writeBytes s a (operandBytes s n (readReg s d).toNat)).mem, busLog := log } d
        (BitVec.ofNat 32 (if ctlXmem s.dmu.ctl = true ∧ s.env.xmemLatch = false then (readReg s d).toNat % 256 ^ n
          else old))) := by
  have length := operandBytes_length s n (readReg s d).toNat
  obtain ⟨log, hlog⟩ := PlainData.exchange (q := dataReq (identity s.dmu (spaceOf s usr) a) (spaceOf s usr) n false) h wf
    (bs := operandBytes s n (readReg s d).toNat) (by omega)
  rw [length] at hlog
  refine ⟨log, ?_⟩
  simp only [exchangeReg, exchangeAt, usrViolation_eq_false allowed, Bool.false_eq_true, if_false, ha, h.dataAddress,
    hlog, settle]
  congr 3
  split
  · exact operandValue_operandBytes s n _
  · exact held.operandValue

end

/-- Settles O46: in the plain setting both sizes store the register's bytes and load the register. -/
theorem exchangeRegisterWithMemory : Obligations.ExchangeRegisterWithMemory := by
  unfold Obligations.ExchangeRegisterWithMemory
  intro s d s1 s2 scaled usr allowed wf goes
  have both {n k : Nat} {i : Instr} (hn : n ≤ 16)
      (hi : exec i s = finish (exchangeReg d usr n (eaReg s s1 s2 scaled k) s)) : goes n k i := by
    intro a old plain held ha new got
    obtain ⟨log, hlog⟩ := exchangeReg_plain plain wf hn held allowed ha d
    have stored := stores_advance (v := new) (a := a) wf hn log
    refine ⟨_, hi.trans (congrArg finish hlog), fun r => ?_, fun j hj => ?_, fun b hb => ?_, ?_⟩
    · rw [readReg_congr (advance_gpr _), readReg_writeReg]; rfl
    · rw [writeReg_frame]; exact stored.bytes j hj
    · rw [writeReg_frame]; exact stored.others b hb
    · rw [writeReg_frame]; rfl
  exact ⟨both (by decide) rfl, both (by decide) rfl⟩

end Sys2Proof.Machine


/-! ## Entering an exception, and the loads behind it -/

namespace Sys2Proof.Machine

/-- With PSR.SRM 1 no load behind an exception has been granted access (20_memory.md R192): only the script moves on. -/
theorem waivedLoads_serialized (n : Nat) {b : State} (h : psrSrm b = true) (t : State) :
    waivedLoads n b t = { t with script := (waivedLoads n b t).script } := by
  simp only [waivedLoads]; split
  · rfl
  · rw [if_pos h]

theorem waivedLoads_wf (n : Nat) (b : State) {t : State} (wf : Memory.wf t.mem = true) (running : t.halted = none) :
    Memory.wf (waivedLoads n b t).mem = true :=
  ((waivedKeeps_waivedLoads n b t).canonical ⟨wf, by rw [running]; nofun⟩).1

/-- Settles O54: the entry is that of the vector, or of the error exception, and the loads behind it keep every register
(WaivedKeeps). -/
theorem exceptionEntrySavesTheContext : Obligations.ExceptionEntrySavesTheContext := by
  unfold Obligations.ExceptionEntrySavesTheContext
  intro e s
  have enters := enters_takeException e s
  refine ⟨fun _ => enters, fun frozen => ⟨⟨enters.exip, enters.enip, enters.epsr, enters.psr, ?_, enters.nip, enters.ds,
      enters.frame, enters.memory⟩, fun side su la f => recordFault_frozen side su la f frozen⟩,
    fun n t => ⟨(waivedKeeps_waivedLoads n s t).frame, waivedLoads_wf n s, fun quiet => waivedLoads_quiet n quiet t,
      fun serialized => waivedLoads_serialized n serialized t⟩⟩
  rw [enters.xip, if_pos frozen, if_pos frozen]

end Sys2Proof.Machine


/-! ## One step -/

namespace Sys2Proof.Machine

/-! ### The parts of a step -/

section
variable {s : State}

/-- With no interrupt pending a step is the instruction at XIP (60_exceptions.md R705). -/
theorem step_instruction (snooped : (boundary s).1 = false) (running : (boundary s).2.stuck = false)
    (pending : pendingInterrupt (boundary s).2 = none) :
    step s = endStep (boundary s).2 (runInstruction (boundary s).2) := by
  simp only [step, runStep, snooped, running, pending, Bool.false_eq_true, if_false]

/-- A machine that waits for RST does nothing else (60_exceptions.md R751). -/
theorem step_stuck (stuck : (boundary s).2.stuck = true) : step s = .next (boundary s).2 := by
  simp only [step, runStep, stuck, if_true]

/-- Nothing happens at the boundary when nothing comes from outside. -/
theorem boundary_quiet (inputs : s.inputs = []) (snoop : s.snoopFault = none) :
    boundary s = (false, { s with lastExc := none }) := by
  simp [boundary, inputs, snoop]

theorem runFetched_decoded {w : Word} {i : Instr} (decoded : decodeWord w = .ok i) :
    runFetched w s = if s.halted ≠ none then .next s
      else if serializes i then exec i (issue i s) else waive s (exec i (issue i s)) := by
  simp only [runFetched, issuesAlone, runWord, decoded]
  cases s.halted <;> rfl

theorem waive_next (b t : State) :
    waive b (.next t) = .next (if t.lastExc = none then t else waivedLoads 11 b t) := by
  rw [waive]
  cases t.lastExc <;> rfl

theorem issue_cases (i : Instr) (u : State) : issue i u = u ∨ issue i u = { u with prefetched := [], ticFill := none } := by
  unfold issue; split
  · exact .inr rfl
  · exact .inl rfl

theorem endStep_running (b : State) {u : State} (running : u.halted = none) : endStep b (.next u) = .next u := by
  simp only [endStep, settleHalt, running]

theorem errorVectorLost_iff : errorVectorLost s = true ↔
    psrEfrz s = true ∧ s.xip = s.vbr.extractLsb' 12 20 ++ 10#9 ++ 0#3 := by
  rw [errorVectorLost, Bool.and_eq_true, beq_iff_eq, vectorAddress_eq, errorVector]

/-! ### The fetch straight from memory -/

/-- The instruction unit goes straight to memory at XIP, undisturbed: instruction MMU and cache disabled, nothing
supplied by the TIC or prefetched, memory alone at XIP, which names a word, and nothing from outside. -/
structure PlainFetch (s : State) : Prop where
  supply : s.ticSupply = []
  fill : s.ticFill = none
  prefetched : s.prefetched = []
  window : s.modeWindow = 0
  idle : s.script = Script.idle
  mmu : ctlMen s.imu.ctl = false
  cache : ctlCen s.imu.ctl = false
  memory : plainAt s s.xip = true
  aligned : s.xip &&& 3#32 = 0#32

/-- The first four bytes of a sequence are its first word. -/
theorem wordOfList_readBytes (a : Word) (n : Nat) : wordOfList (readBytes s a (n + 4)) = readWordBE s a := by
  have second : a + 1#32 + 1#32 = a + 2#32 := BitVec.add_assoc ..
  have third : a + 2#32 + 1#32 = a + 3#32 := BitVec.add_assoc ..
  simp only [readBytes, wordOfList, readWordBE, List.getD_cons_zero, List.getD_cons_succ, second, third]

/-- A word address is the lower or the upper word of its double word, as its bit 2 says. -/
theorem doubleWord_half {a : Word} (aligned : a &&& 3#32 = 0#32) :
    (a &&& 0xFFFFFFF8#32) + (if a.getLsbD 2 then 4#32 else 0#32) = a := by
  have half : a.getLsbD 2 = decide (a.toNat / 4 % 2 = 1) := Nat.testBit_eq_decide_div_mod_eq
  have start : a &&& 0xFFFFFFF8#32 = BitVec.ofNat 32 (a.toNat - a.toNat % 8) := and_not_lowMask a (k := 3) (by decide)
  have word := (aligned_iff a).1 aligned
  have bounded := a.isLt
  rw [half, start, ← BitVec.toNat_inj, BitVec.toNat_add, BitVec.toNat_ofNat]
  split
  · next h => rw [decide_eq_true_eq] at h; simp only [BitVec.toNat_ofNat]; omega
  · next h => rw [decide_eq_true_eq] at h; simp only [BitVec.toNat_ofNat]; omega

/-- The uncached fetch from plain memory keeps of the double word it reads the word asked for. -/
theorem fetchSingle_plain (idle : s.script = Script.idle) {x : Xlate} (memory : plainAt s x.pa = true)
    (aligned : x.pa &&& 3#32 = 0#32) (su : Bool) :
    ∃ log next, fetchSingle x su s = .ok ⟨readWordBE s x.pa, next⟩ { s with busLog := log } := by
  have half := doubleWord_half aligned
  have upper : (readBytes s (x.pa &&& 0xFFFFFFF8#32) 8).drop 4 = readBytes s ((x.pa &&& 0xFFFFFFF8#32) + 4#32) 4 := by
    rw [readBytes_add s _ 4 4, List.drop_left' (readBytes_length ..)]
  have read := busReadAt_plain idle (x := reqTxn ⟨x, su, tcCode su, 0#2, false⟩ true) memory
  simp only [fetchSingle, read, upper]
  split
  · next set =>
    rw [if_pos set] at half
    rw [wordOfList_readBytes _ 0, half]
    exact ⟨_, _, rfl⟩
  · next clear =>
    rw [if_neg clear, BitVec.add_zero] at half
    rw [half, wordOfList_readBytes _ 4]
    exact ⟨_, _, rfl⟩

section
variable (h : PlainFetch s)
include h

theorem PlainFetch.fetchMemory (su : Bool) :
    ∃ log next, Machine.fetchMemory su s.xip s = .ok ⟨readWordBE s s.xip, next⟩ { s with busLog := log } := by
  have off : iCacheOn s = false := by simp [iCacheOn, h.cache]
  obtain ⟨log, next, single⟩ := fetchSingle_plain h.idle (x := identity s.imu su s.xip) h.memory h.aligned su
  refine ⟨log, next, ?_⟩
  simp only [Machine.fetchMemory, translate, mmuOf, h.mmu, fetchWord, arbitrate_idle h.idle, fetchLookup, off,
    Bool.not_false, Bool.or_true, if_true, single]
  rfl

theorem PlainFetch.countWindow : Machine.countWindow s = s := by
  have window : s.modeWindow - 1 = s.modeWindow := by rw [h.window]
  rw [Machine.countWindow, window]

theorem PlainFetch.ticSee (a : Word) (f : Fetched) : Machine.ticSee a f s = s := by
  simp only [Machine.ticSee, h.fill]

/-- The fetch delivers the word at XIP, and only the bus log changes. -/
theorem PlainFetch.fetch : ∃ log, Machine.fetch s = .ok (readWordBE s s.xip) { s with busLog := log } := by
  obtain ⟨log, next, word⟩ := h.fetchMemory (psrMode s)
  have space : fetchSpace 0 s = (psrMode s, s) := if_pos (Nat.le_of_eq h.window)
  have after : PlainFetch { s with busLog := log } :=
    ⟨h.supply, h.fill, h.prefetched, h.window, h.idle, h.mmu, h.cache, h.memory, h.aligned⟩
  have new : fetchNew s = .ok (readWordBE s s.xip) { s with busLog := log } := by
    simp only [fetchNew, space, h.countWindow, word, settleFetch, after.ticSee]
  have ahead : fetchAhead s = fetchNew s := by simp only [fetchAhead, h.prefetched]
  have supply : ({ s with ticSupply := s.ticSupply.tail } : State) = s := by rw [h.supply, List.tail_nil, ← h.supply]
  refine ⟨log, ?_⟩
  unfold Machine.fetch
  split
  · next some => rw [h.supply] at some; cases some
  · rw [supply, ahead, new]

theorem PlainFetch.issue (i : Instr) : Machine.issue i s = s := by
  unfold Machine.issue; split
  · rw [← h.prefetched, ← h.fill]
  · rfl

end

/-- The word that four bytes decode as. -/
theorem decodeWord_of_decode {a : Word} {i : Instr}
    (h : decode [readByte s a, readByte s (a + 1#32), readByte s (a + 2#32), readByte s (a + 3#32)] = .ok (i, [])) :
    decodeWord (readWordBE s a) = .ok i := by
  have bytes : wordOfBytes (readByte s a) (readByte s (a + 1#32)) (readByte s (a + 2#32)) (readByte s (a + 3#32))
      = readWordBE s a := rfl
  simp only [decode, bytes] at h
  split at h
  · next decoded => cases h; exact decoded
  · cases h

/-- The step of the instruction whose bytes stand in memory at XIP. -/
theorem runInstruction_plain (h : PlainFetch s) (running : s.halted = none) {i : Instr}
    (decoded : decodeWord (readWordBE s s.xip) = .ok i) :
    ∃ log, runInstruction s = exec i { s with busLog := log } := by
  obtain ⟨log, fetched⟩ := h.fetch
  have after : PlainFetch { s with busLog := log } :=
    ⟨h.supply, h.fill, h.prefetched, h.window, h.idle, h.mmu, h.cache, h.memory, h.aligned⟩
  have waived : ({ s with busLog := log } : State).script.waived = [] := by rw [after.idle]; rfl
  have ahead : ({ s with busLog := log } : State).script.ahead = [] := by rw [after.idle]; rfl
  refine ⟨log, ?_⟩
  simp only [runInstruction, fetched]
  rw [lookAhead_quiet ahead, runFetched_decoded decoded, waive_quiet waived, after.issue, ite_self,
    if_neg fun cut => cut running]

end

/-- Settles O5: the step is taken apart into boundary, fetch, instruction and end, and a fetch straight from memory
delivers the word at XIP. -/
theorem stepRunsTheInstructionAtXip : Obligations.StepRunsTheInstructionAtXip := by
  unfold Obligations.StepRunsTheInstructionAtXip
  refine ⟨?byFetch, ?fromMemory, ?faults, ?stuck⟩
  case byFetch =>
    intro s s' w i snooped running pending fetched decoded u
    refine ⟨?_, lookAhead_quiet, fun b o quiet => waive_quiet quiet o, waive_next, issue_cases i,
      fun b t halted => endStep_running b halted⟩
    rw [step_instruction snooped running pending]
    simp only [runInstruction, fetched]
    rw [runFetched_decoded decoded]
  case fromMemory =>
    intro s i inputs halted snoop running pending supply fill prefetched window idle mmu cache memory aligned bytes
    have bound := boundary_quiet inputs snoop
    have plain : PlainFetch { s with lastExc := none } :=
      ⟨supply, fill, prefetched, window, idle, mmu, cache, memory, aligned⟩
    obtain ⟨log, ran⟩ := runInstruction_plain plain halted (decodeWord_of_decode bytes)
    refine ⟨log, ?_⟩
    rw [step_instruction (by rw [bound]) (by rw [bound]; exact running) (by rw [bound]; exact pending), bound]
    exact congrArg (endStep _) ran
  case faults =>
    intro s s' e snooped running pending faulted
    rw [step_instruction snooped running pending]
    simp only [runInstruction, faulted]
    rw [apply_ite Host.Outcome.next]
    exact congrArg (endStep _) (if_congr errorVectorLost_iff rfl rfl)
  case stuck =>
    intro s stuck inputs snoop
    have bound := boundary_quiet inputs snoop
    rw [step_stuck (by rw [bound]; exact stuck), bound]

end Sys2Proof.Machine


/-! ## The data cache: lines, operands in them, and bursts of plain memory -/

namespace Sys2Proof.Machine

/-! ### Operands inside a line -/

/-- An operand of one of the five sizes at an aligned address: it does not leave its line. -/
structure InLine (a : Word) (n : Nat) : Prop where
  size : n ≤ 8 ∨ n = 16
  within : a.toNat % 32 + n ≤ 32
  quad : n = 16 → a.toNat % 16 = 0

theorem inLine_of_alignAddr {s : State} {k : Nat} (hk : k ≤ 4) {ea a : Word} (h : alignAddr s (2 ^ k) ea = some a) :
    InLine a (2 ^ k) := by
  have aligned : a.toNat % 2 ^ k = 0 := by
    rw [alignAddr_pow s (by omega)] at h
    split at h
    · next h0 => cases h; exact h0
    · split at h
      · cases h
        have bounded := ea.isLt
        rw [BitVec.toNat_ofNat]
        interval_cases k <;> omega
      · cases h
  interval_cases k
  all_goals exact ⟨by omega, by omega, by omega⟩

theorem lineOffset_eq (a : Word) : lineOffset a = a.toNat % 32 := by
  rw [lineOffset, BitVec.extractLsb'_toNat, Nat.shiftRight_zero]

/-- The upper double word of an aligned quad word stands eight bytes further in the same line. -/
theorem upper_toNat {a : Word} (aligned : a.toNat % 16 = 0) :
    (a + 8#32).toNat / 32 = a.toNat / 32 ∧ (a + 8#32).toNat % 32 = a.toNat % 32 + 8 := by
  have bounded := a.isLt
  rw [BitVec.toNat_add]
  simp only [BitVec.toNat_ofNat]
  omega

theorem tagOf_toNat (a : Word) : (tagOf a).toNat = a.toNat / 4096 := by
  have bounded := a.isLt
  rw [tagOf, BitVec.extractLsb'_toNat, Nat.shiftRight_eq_div_pow]
  omega

theorem setOf_toNat (a : Word) : (a.extractLsb' 5 7).toNat = a.toNat / 32 % 128 := by
  rw [BitVec.extractLsb'_toNat, Nat.shiftRight_eq_div_pow]

section
variable {s t : State} {a b : Word} {way : Bool}

theorem tagOf_congr (h : b.toNat / 32 = a.toNat / 32) : tagOf b = tagOf a := by
  rw [← BitVec.toNat_inj, tagOf_toNat, tagOf_toNat]
  omega

theorem lineIndex_congr (h : b.toNat / 32 = a.toNat / 32) (w : Bool) : lineIndex b w = lineIndex a w := by
  have set : b.extractLsb' 5 7 = a.extractLsb' 5 7 := by rw [← BitVec.toNat_inj, setOf_toNat, setOf_toNat, h]
  rw [lineIndex, lineIndex, set]

theorem lineIndex_way {w : Bool} : lineIndex a w = lineIndex a way ↔ w = way := by
  refine ⟨fun h => ?_, fun h => by rw [h]⟩
  have low (v : Bool) : (lineIndex a v).getLsbD 0 = v := by
    rw [lineIndex, BitVec.getLsbD_append]
    cases v <;> rfl
  rw [← low w, h, low]

theorem dLine_congr (h : b.toNat / 32 = a.toNat / 32) (w : Bool) : dLine s b w = dLine s a w := by
  simp only [dLine, lineIndex_congr h]

theorem dLine_dcache (h : t.dcache = s.dcache) (w : Bool) : dLine t a w = dLine s a w := by simp only [dLine, h]

theorem setDLine_congr (h : b.toNat / 32 = a.toNat / 32) (l : DLine) : setDLine s b way l = setDLine s a way l := by
  simp only [setDLine, lineIndex_congr h]

theorem holds_congr (h : b.toNat / 32 = a.toNat / 32) (l : DLine) : l.holds b = l.holds a := by
  rw [DLine.holds, DLine.holds, tagOf_congr h]

theorem dHit_congr (h : b.toNat / 32 = a.toNat / 32) : dHit s b = dHit s a := by
  simp only [dHit, dLine_congr h, holds_congr h]

theorem dHit_dcache (h : t.dcache = s.dcache) : dHit t a = dHit s a := by simp only [dHit, dLine_dcache h]

/-! ### Which way holds an address -/

theorem holds_of_dHit (h : dHit s a = some way) : (dLine s a way).holds a = true := by
  simp only [dHit] at h
  split at h
  · next first => cases h; exact first
  · split at h
    · next second => cases h; exact second
    · cases h

/-- Line 0 does not hold the address, or it is the line meant. -/
theorem first_of_dHit (h : dHit s a = some way ∨ dHit s a = none) :
    way = false ∨ (dLine s a false).holds a = false := by
  by_cases first : (dLine s a false).holds a = true
  · rw [dHit, if_pos first] at h
    obtain h | h := h
    · cases h; exact .inl rfl
    · cases h
  · exact .inr (Bool.eq_false_of_not_eq_true first)

/-- A line that holds the address, put where the address was found or into a set that did not hold it, is found. -/
theorem dHit_setDLine (h : dHit s a = some way ∨ dHit s a = none) {l : DLine} (holds : l.holds a = true) :
    dHit (setDLine s a way l) a = some way := by
  simp only [dHit, dLine_setDLine, lineIndex_way]
  obtain rfl | other := first_of_dHit h
  · simp [holds]
  · cases way <;> simp [holds, other]

/-- A valid line in a set that does not hold the address has another tag. -/
theorem tag_ne_of_miss (h : dHit s a = none) (valid : (dLine s a way).state ≠ .invalid) :
    (dLine s a way).tag ≠ tagOf a := by
  have none : (dLine s a way).holds a = false := by
    simp only [dHit] at h
    split at h
    · cases h
    · next first =>
      split at h
      · cases h
      · next second => cases way <;> simp_all
  intro same
  simp [DLine.holds, valid, same] at none

end

/-! ### Bytes of a line -/

theorem toList_getD (d : Vector Byte 32) {j : Nat} (hj : j < 32) : d.toList.getD j 0#8 = d[j] := by
  rw [List.getD_eq_getElem _ _ (by simpa using hj)]
  simp

theorem mergeLine_getD (d : Vector Byte 32) (off : Nat) (bs : List Byte) {j : Nat} (hj : j < 32) :
    (mergeLine d off bs).toList.getD j 0#8
      = if off ≤ j ∧ j < off + bs.length then bs.getD (j - off) 0#8 else d.toList.getD j 0#8 := by
  rw [toList_getD _ hj, toList_getD d hj, mergeLine, Vector.getElem_ofFn]
  rfl

/-- Two sequences of bytes stored one behind the other are stored at once. -/
theorem mergeLine_append (d : Vector Byte 32) (off : Nat) (xs ys : List Byte) :
    mergeLine (mergeLine d off xs) (off + xs.length) ys = mergeLine d off (xs ++ ys) := by
  refine Vector.ext fun i hi => ?_
  simp only [mergeLine, Vector.getElem_ofFn, Fin.getElem_fin, List.length_append]
  by_cases second : off + xs.length ≤ i
  · rw [List.getD_append_right _ _ _ _ (by omega), Nat.sub_sub, if_neg (show ¬ (off ≤ i ∧ i < off + xs.length) by omega)]
    exact if_congr (by omega) rfl rfl
  · rw [if_neg fun h => second h.1]
    split
    · rw [List.getD_append _ _ _ _ (by omega), if_pos (by omega)]
    · rw [if_neg (by omega)]

theorem lineBytes_add (d : Vector Byte 32) (off m n : Nat) :
    lineBytes d off m ++ lineBytes d (off + m) n = lineBytes d off (m + n) := by
  rw [lineBytes, lineBytes, lineBytes, List.take_add, List.drop_drop]

theorem lineBytes_length (d : Vector Byte 32) {off n : Nat} (h : off + n ≤ 32) : (lineBytes d off n).length = n := by
  simp only [lineBytes, List.length_take, List.length_drop, Vector.length_toList]
  omega

theorem lineBytes_getD (d : Vector Byte 32) {off n k : Nat} (hk : k < n) :
    (lineBytes d off n).getD k 0#8 = d.toList.getD (off + k) 0#8 := by
  simp only [lineBytes, List.getD_eq_getElem?_getD, List.getElem?_take, List.getElem?_drop, if_pos hk]

end Sys2Proof.Machine


/-! ## Bursts of plain memory, and the line that a miss fills -/

namespace Sys2Proof.Machine

/-! ### Bursts where memory alone answers -/

section
variable {s : State} {a : Word} {way : Bool}

theorem plainAt_everywhere (board : s.env.regions = []) (a : Word) : plainAt s a = true := by
  rw [plainAt, board, List.all_nil]

/-- The bytes of memory at the line of an address. -/
def memLine (s : State) (a : Word) : Vector Byte 32 :=
  Vector.ofFn fun i => readByte s (lineAddr a + BitVec.ofNat 32 i.val)

theorem memLine_getD (s : State) (a : Word) {j : Nat} (hj : j < 32) :
    (memLine s a).toList.getD j 0#8 = readByte s (lineAddr a + BitVec.ofNat 32 j) := by
  rw [toList_getD _ hj, memLine, Vector.getElem_ofFn]

theorem goodBeats_plain (board : s.env.regions = []) (x : BusTxn) (js : List Nat) : goodBeats s x js = js.length := by
  induction js with
  | nil => rfl
  | cons j js ih =>
    rw [goodBeats, failsAt_plain (plainAt_everywhere board _), if_neg Bool.false_ne_true, ih, List.length_cons]

/-- A burst read of plain memory brings the whole line (80_bus_platform.md R883). -/
theorem burstRead_plain (idle : s.script = Script.idle) (board : s.env.regions = []) {x : BusTxn}
    (good : x.error = false) :
    burstRead s x = (⟨memLine s x.addr, 4, s.env.shd.getD false⟩, logTxn s x) := by
  have answer (b : Word) : deviceAt s x b = false := deviceAt_plain (plainAt_everywhere board b) x
  have four : goodBeats s x (beatOrder x.addr) = 4 := goodBeats_plain board x _
  have line : burstData s x = memLine s x.addr := by
    simp only [burstData, memLine, answer, Bool.false_eq_true, if_false]
  have memory : burstDevice s x = false := by simp [burstDevice, answer]
  have same : { x with error := decide (4 ≤ 4 ∧ 4 < 4) } = x := by
    rw [show decide (4 ≤ 4 ∧ 4 < 4) = x.error from good.symm]
  simp only [burstRead, takeEnd_idle idle, plain_cut, four, line, memory, beatsAllowed, plain_retry, same, shdLevel,
    plain_shd, closeTxn_plain, Bool.false_eq_true, if_false, Nat.min_self]

theorem beat_distance (line : Word) (i j : Nat) :
    line + BitVec.ofNat 32 i - beatAddr line j = BitVec.ofNat 32 i - BitVec.ofNat 32 (8 * j) := by
  rw [beatAddr]
  bv_omega

/-- A byte of a line stands in the beat of its double word. -/
theorem beat_inside (line : Word) {i j : Nat} (hi : i < 32) (hj : j < 4) :
    (line + BitVec.ofNat 32 i - beatAddr line j).toNat < 8 ↔ i / 8 = j := by
  rw [beat_distance, BitVec.toNat_sub, BitVec.toNat_ofNat, BitVec.toNat_ofNat]
  omega

theorem beat_offset (line : Word) {i j : Nat} (hj : i / 8 = j) :
    (line + BitVec.ofNat 32 i - beatAddr line j).toNat = i - 8 * j := by
  rw [beat_distance, BitVec.toNat_sub, BitVec.toNat_ofNat, BitVec.toNat_ofNat]
  omega

/-- A burst write of plain memory ends normally, and the double words written are the line's. -/
theorem burstWriteBeats_plain (board : s.env.regions = []) (wf : Memory.wf s.mem = true) (x : BusTxn)
    (d : Vector Byte 32) {js : List Nat} (order : ∀ j ∈ js, j < 4) :
    (burstWriteBeats s x d js).1 = true ∧ ∀ i, i < 32 →
      readByte (burstWriteBeats s x d js).2 (lineAddr x.addr + BitVec.ofNat 32 i)
        = if i / 8 ∈ js then d.toList.getD i 0#8 else readByte s (lineAddr x.addr + BitVec.ofNat 32 i) := by
  induction js generalizing s with
  | nil => exact ⟨rfl, fun i _ => (if_neg List.not_mem_nil).symm⟩
  | cons j js ih =>
    have hj : j < 4 := order j List.mem_cons_self
    have plain := plainAt_everywhere board (beatAddr (lineAddr x.addr) j)
    simp only [burstWriteBeats, failsAt_plain plain, deviceAt_plain plain, Bool.false_eq_true, if_false]
    have board' : (writeBytes s (beatAddr (lineAddr x.addr) j) (lineBytes d (8 * j) 8)).env.regions = [] := by
      rw [writeBytes_eq]; exact board
    obtain ⟨ends, bytes⟩ := ih board' (writeBytes_wf wf _ _) fun k hk => order k (List.mem_cons_of_mem j hk)
    have length : (lineBytes d (8 * j) 8).length = 8 := lineBytes_length d (by omega)
    refine ⟨ends, fun i hi => ?_⟩
    rw [bytes i hi, readByte_writeBytes wf _ _ (by omega), length]
    by_cases later : i / 8 ∈ js
    · rw [if_pos later, if_pos (List.mem_cons_of_mem j later)]
    · rw [if_neg later]
      by_cases now : i / 8 = j
      · rw [if_pos ((beat_inside _ hi hj).2 now), if_pos (by simp [now]), beat_offset _ now,
          lineBytes_getD d (by omega)]
        congr 1; omega
      · rw [if_neg (mt (beat_inside _ hi hj).1 now), if_neg (by simp [now, later])]

/-- The critical double word first, and then the others around: every double word of the line is there. -/
theorem mem_beatOrder (a : Word) {j : Nat} (hj : j < 4) : j ∈ beatOrder a := by
  simp only [beatOrder, List.mem_cons, List.not_mem_nil, or_false]
  omega

/-! ### The address of the line a victim stands for -/

theorem toNat_append_add {m n : Nat} (x : BitVec m) (y : BitVec n) : (x ++ y).toNat = x.toNat * 2 ^ n + y.toNat := by
  rw [BitVec.toNat_append, ← Nat.shiftLeft_add_eq_or_of_lt y.isLt, Nat.shiftLeft_eq]

theorem lineAddress_toNat (l : DLine) (a : Word) :
    (lineAddress l a).toNat = l.tag.toNat * 4096 + a.toNat % 4096 := by
  have low : (a &&& 0x00000FFF#32).toNat = a.toNat % 4096 := and_lowMask_toNat a (k := 12) (by decide)
  have high : (l.tag.setWidth 32 <<< 12).toNat = l.tag.toNat <<< 12 := by
    have bounded := l.tag.isLt
    rw [BitVec.toNat_shiftLeft, BitVec.toNat_setWidth, Nat.shiftLeft_eq, Nat.shiftLeft_eq]
    omega
  rw [lineAddress, BitVec.toNat_or, low, high, ← Nat.shiftLeft_add_eq_or_of_lt (Nat.mod_lt _ (by decide)),
    Nat.shiftLeft_eq]

/-- Byte j of the line that a victim at the place of a stands for (12_cache_mmu_state.md R111, R112). -/
theorem victimByte_address (l : DLine) (a : Word) (j : Fin 32) :
    l.tag ++ a.extractLsb' 5 7 ++ BitVec.ofNat 5 j.val
      = lineAddr (lineAddress l a) + BitVec.ofNat 32 j.val := by
  have tag := l.tag.isLt
  have offset := j.isLt
  rw [← BitVec.toNat_inj, toNat_append_add, toNat_append_add, setOf_toNat, BitVec.toNat_add, lineAddr_toNat,
    lineAddress_toNat, BitVec.toNat_ofNat, BitVec.toNat_ofNat]
  omega

theorem victim_line_iff (l : DLine) (a b : Word) :
    b.extractLsb' 5 27 = l.tag ++ a.extractLsb' 5 7 ↔ lineAddr b = lineAddr (lineAddress l a) := by
  have bounded := b.isLt
  rw [lineAddr_eq_iff, ← BitVec.toNat_inj, toNat_append_add, setOf_toNat, lineAddress_toNat, BitVec.extractLsb'_toNat,
    Nat.shiftRight_eq_div_pow]
  omega

/-! ### Room for a fill -/

/-- The transaction that copies line way of the set of a back (80_bus_platform.md R882). -/
def saveTxn (s : State) (a : Word) (way : Bool) : BusTxn :=
  { copybackTxn (lineAddress (dLine s a way) a) (tcData true) 0#2 way with data := (dLine s a way).data.toList }

/-- The memory once the line that a miss replaces has been copied back, if it is modified. -/
def roomMem (s : State) (a : Word) (way : Bool) : List Host.Cell :=
  if (dLine s a way).state = .exclusiveModified then
    (burstWriteBeats s (copybackTxn (lineAddress (dLine s a way) a) (tcData true) 0#2 way) (dLine s a way).data
      (beatOrder a)).2.mem
  else s.mem

/-- The bus log then. -/
def roomLog (s : State) (a : Word) (way : Bool) : List BusTxn :=
  if (dLine s a way).state = .exclusiveModified then saveTxn s a way :: s.busLog else s.busLog

theorem saveVictim_plain (idle : s.script = Script.idle) (board : s.env.regions = []) (wf : Memory.wf s.mem = true)
    (write : Bool) :
    saveVictim s a way write = .ok () { s with mem := roomMem s a way, busLog := roomLog s a way } := by
  unfold saveVictim roomMem roomLog
  split
  · have ends := (burstWriteBeats_plain board wf
      (copybackTxn (lineAddress (dLine s a way) a) (tcData true) 0#2 way) (dLine s a way).data (beatOrder_lt a)).1
    simp only [replaceCopyback, copyback, burstWrite, takeEnd_idle idle, plain_cut, closeTxn_plain, ends, if_true]
    rw [arbitrate_idle (by rw [logTxn_script, burstWriteBeats_eq]; exact idle), burstWriteBeats_eq]
    rfl
  · rfl

theorem makeRoom_plain (idle : s.script = Script.idle) (board : s.env.regions = []) (wf : Memory.wf s.mem = true)
    (write : Bool) :
    makeRoom s a way write
      = .ok () (dInvalidate { s with mem := roomMem s a way, busLog := roomLog s a way } a way) := by
  rw [makeRoom, saveVictim_plain idle board wf]

/-- The bytes of a modified victim reach memory. -/
theorem readByte_roomMem_saved (board : s.env.regions = []) (wf : Memory.wf s.mem = true)
    (modified : (dLine s a way).state = .exclusiveModified) {t : State} (ht : t.mem = roomMem s a way) (j : Fin 32) :
    readByte t ((dLine s a way).tag ++ a.extractLsb' 5 7 ++ BitVec.ofNat 5 j.val) = (dLine s a way).data[j] := by
  have bytes := (burstWriteBeats_plain board wf
    (copybackTxn (lineAddress (dLine s a way) a) (tcData true) 0#2 way) (dLine s a way).data (beatOrder_lt a)).2
    j.val j.isLt
  rw [roomMem, if_pos modified] at ht
  rw [readByte_congr ht, victimByte_address]
  refine bytes.trans ?_
  rw [if_pos (mem_beatOrder a (by omega)), toList_getD _ j.isLt]
  rfl

/-- Every other byte of memory is as before. -/
theorem readByte_roomMem_other (wf : Memory.wf s.mem = true) {t : State} (ht : t.mem = roomMem s a way) {b : Word}
    (outside : (dLine s a way).state = .exclusiveModified →
      b.extractLsb' 5 27 ≠ (dLine s a way).tag ++ a.extractLsb' 5 7) : readByte t b = readByte s b := by
  unfold roomMem at ht
  split at ht
  · next modified =>
    rw [readByte_congr ht]
    exact readByte_burstWriteBeats_outside wf (mt (victim_line_iff _ a b).2 (outside modified)) _ (beatOrder_lt a)
  · exact readByte_congr ht b

/-- The line that is to be filled is not the victim's. -/
theorem memLine_room (wf : Memory.wf s.mem = true) (miss : dHit s a = none) {t : State} (ht : t.mem = roomMem s a way) :
    memLine t a = memLine s a := by
  refine Vector.ext fun i hi => ?_
  simp only [memLine, Vector.getElem_ofFn]
  refine readByte_roomMem_other wf ht fun modified same => ?_
  have valid : (dLine s a way).state ≠ .invalid := by rw [modified]; decide
  have line : lineAddr (lineAddr a + BitVec.ofNat 32 i) = lineAddr a := by
    rw [lineAddr_eq_iff, BitVec.toNat_add, lineAddr_toNat, BitVec.toNat_ofNat]
    omega
  rw [victim_line_iff, line] at same
  exact tag_ne_of_miss miss valid (lineAddress_line same).1

/-! ### The line filled -/

/-- The state after a miss at a has filled line way with the bytes given. -/
def fillState (s : State) (a : Word) (way : Bool) (st : LineState) (d : Vector Byte 32) (fill : BusTxn) : State :=
  { setDLine s a way ⟨tagOf a, st, d⟩ with
    dbias := !s.dbias, mem := roomMem s a way, busLog := fill :: roomLog s a way }

theorem fillsLine_fillState (board : s.env.regions = []) (wf : Memory.wf s.mem = true) (intent : Bool) (st : LineState)
    {d : Vector Byte 32} {byte : Nat → Nat} (bytes : ∀ j, j < 32 → (d.toList.getD j 0#8).toNat = byte j) {q : Req}
    (hq : q.x.pa = a) : FillsLine a way intent st byte s (fillState s a way st d (fillTxn q intent way)) := by
  have line (b : Word) (w : Bool) : dLine (fillState s a way st d (fillTxn q intent way)) b w
      = if lineIndex b w = lineIndex a way then ⟨tagOf a, st, d⟩ else dLine s b w := dLine_setDLine s a b way w _
  have filled := (line a way).trans (if_pos rfl)
  refine ⟨by rw [filled], by rw [filled]; rfl, fun j hj => by rw [lineByte, filled, bytes j hj], fun b w other => ?_,
    rfl, ?_, ?_, ?_⟩
  · rw [line, if_neg other]
  · exact fun modified => readByte_roomMem_saved board wf modified rfl
  · exact fun b outside => readByte_roomMem_other wf rfl outside
  · refine ⟨fillTxn q intent way, hq, rfl, rfl, rfl, rfl, rfl, ?_⟩
    split
    · next modified => exact ⟨saveTxn s a way, by simp only [fillState, roomLog, if_pos modified], rfl, rfl, rfl, rfl, rfl⟩
    · next clean => simp only [fillState, roomLog, if_neg clean]

/-- Only the data cache, its bias bit, the memory and the bus log matter to what a miss filled. -/
theorem fillsLine_congr {intent : Bool} {st : LineState} {byte : Nat → Nat} {t u : State}
    (h : FillsLine a way intent st byte s t) (dcache : u.dcache = t.dcache) (dbias : u.dbias = t.dbias)
    (mem : u.mem = t.mem) (log : u.busLog = t.busLog) : FillsLine a way intent st byte s u where
  state := by rw [dLine_dcache dcache]; exact h.state
  tag := by rw [dLine_dcache dcache]; exact h.tag
  bytes j hj := by rw [lineByte, dLine_dcache dcache]; exact h.bytes j hj
  lines b w other := by rw [dLine_dcache dcache]; exact h.lines b w other
  bias := dbias.trans h.bias
  saved modified j := (readByte_congr mem _).trans (h.saved modified j)
  others b outside := (readByte_congr mem b).trans (h.others b outside)
  bus := by rw [log]; exact h.bus

end

end Sys2Proof.Machine


/-! ## Data accesses that the data cache serves -/

namespace Sys2Proof.Machine

section
variable {s t : State} {a : Word} {way : Bool} {q : Req} {x : Xlate} {su : Bool} {n : Nat} {bs : List Byte}

/-! ### Lookups -/

theorem dVictim_of_replaces (h : Replaces s a way) : dVictim s a = some way := by
  obtain ⟨frz0, frz1, rfl⟩ | ⟨frz0, frz1, rfl⟩ | ⟨frz0, frz1, rfl⟩ := h
  · simp only [dVictim, victim, frz0, frz1, Bool.false_eq_true, if_false]
    by_cases first : (dLine s a false).state = .invalid
    · simp [first]
    · by_cases second : (dLine s a true).state = .invalid <;> simp [first, second]
  · simp [dVictim, victim, frz0, frz1]
  · simp [dVictim, victim, frz0, frz1]

theorem dataRead_hit (idle : s.script = Script.idle) (on : dCacheOn s = true) (ci : q.x.attr.ci = false)
    (hit : dHit s q.x.pa = some way) (n : Nat) :
    dataRead q n s = .ok (lineBytes (dLine s q.x.pa way).data (lineOffset q.x.pa) n) s := by
  simp only [dataRead, arbitrate_idle idle, readLookup, ci, on, hit, Bool.not_true, Bool.or_self, Bool.false_eq_true,
    if_false]

/-- The victim with its copyback done and its line invalid. -/
def roomState (s : State) (a : Word) (way : Bool) : State :=
  dInvalidate { s with mem := roomMem s a way, busLog := roomLog s a way } a way

/-- Filling the line after room was made for it. -/
theorem setDLine_roomState (st : LineState) (d : Vector Byte 32) (fill : BusTxn) :
    setDLine { logTxn (roomState s a way) fill with dbias := !(logTxn (roomState s a way) fill).dbias } a way
      ⟨tagOf a, st, d⟩ = fillState s a way st d fill := by
  simp [fillState, roomState, dInvalidate, setDLine, logTxn]

/-- The burst read of a miss brings the line of memory, whatever was copied back before it. -/
theorem burstRead_room (idle : s.script = Script.idle) (board : s.env.regions = []) (wf : Memory.wf s.mem = true)
    (miss : dHit s q.x.pa = none) (intent : Bool) :
    burstRead (roomState s q.x.pa way) (fillTxn q intent way)
      = (⟨memLine s q.x.pa, 4, s.env.shd.getD false⟩, logTxn (roomState s q.x.pa way) (fillTxn q intent way)) := by
  have burst := burstRead_plain (s := roomState s q.x.pa way) idle board (x := fillTxn q intent way) rfl
  have line : memLine (roomState s q.x.pa way) q.x.pa = memLine s q.x.pa := memLine_room wf miss rfl
  rw [burst, show (fillTxn q intent way).addr = q.x.pa from rfl, line]
  rfl

/-- A miss that plain memory answers fills the line (22_caches.md R304). -/
theorem dataRead_miss (idle : s.script = Script.idle) (on : dCacheOn s = true) (ci : q.x.attr.ci = false)
    (board : s.env.regions = []) (wf : Memory.wf s.mem = true) (miss : dHit s q.x.pa = none)
    (room : Replaces s q.x.pa way) (n : Nat) :
    dataRead q n s = .ok (lineBytes (memLine s q.x.pa) (lineOffset q.x.pa) n)
      (fillState s q.x.pa way (filledState (s.env.shd.getD false)) (memLine s q.x.pa) (fillTxn q false way)) := by
  have made : makeRoom s q.x.pa way false = .ok () (roomState s q.x.pa way) := makeRoom_plain idle board wf false
  simp only [dataRead, arbitrate_idle idle, readLookup, ci, on, miss, dVictim_of_replaces room, readFill, made,
    burstRead_room idle board wf miss, Bool.not_true, Bool.or_self, Bool.false_eq_true, if_false]
  rw [if_neg (by decide), if_pos trivial, setDLine_roomState]

/-! ### Reads of operands -/

/-- What a hit and a fill leave of the address's place: it is found again. -/
theorem dHit_fillState (miss : dHit s a = none) {st : LineState} (valid : st ≠ .invalid) (d : Vector Byte 32)
    (fill : BusTxn) : dHit (fillState s a way st d fill) a = some way := by
  have holds : DLine.holds ⟨tagOf a, st, d⟩ a = true := by simp [DLine.holds, valid]
  exact (dHit_dcache rfl).trans (dHit_setDLine (.inr miss) holds)

theorem dLine_fillState (st : LineState) (d : Vector Byte 32) (fill : BusTxn) :
    dLine (fillState s a way st d fill) a way = ⟨tagOf a, st, d⟩ :=
  (dLine_setDLine s a a way way _).trans (if_pos rfl)

theorem fillState_script (st : LineState) (d : Vector Byte 32) (fill : BusTxn) :
    (fillState s a way st d fill).script = s.script := rfl

theorem dCacheOn_fillState (st : LineState) (d : Vector Byte 32) (fill : BusTxn) :
    dCacheOn (fillState s a way st d fill) = dCacheOn s := rfl

theorem lineOffset_upper (aligned : a.toNat % 16 = 0) : lineOffset (a + 8#32) = lineOffset a + 8 := by
  rw [lineOffset_eq, lineOffset_eq, (upper_toNat aligned).2]

/-- The upper double word of a quad word is read from the line that holds the lower one. -/
theorem dataRead_upper (idle : s.script = Script.idle) (on : dCacheOn s = true) (ci : x.attr.ci = false)
    (hit : dHit s x.pa = some way) (aligned : x.pa.toNat % 16 = 0) :
    dataRead (dataReq ⟨x.pa + 8#32, x.attr⟩ su 8 false) 8 s
      = .ok (lineBytes (dLine s x.pa way).data (lineOffset x.pa + 8) 8) s := by
  have same := (upper_toNat aligned).1
  have read := dataRead_hit (q := dataReq ⟨x.pa + 8#32, x.attr⟩ su 8 false) (way := way) idle on ci
    ((dHit_congr same).trans hit) 8
  rw [read]
  simp only [dataReq, dLine_congr same, lineOffset_upper aligned]

/-- A quad word whose lower double word was read out of a line, and left that line in the cache. -/
theorem readOperand_quad_line {d : Vector Byte 32} (idle : t.script = Script.idle) (on : dCacheOn t = true)
    (ci : x.attr.ci = false) (found : dHit t x.pa = some way) (line : (dLine t x.pa way).data = d)
    (aligned : x.pa.toNat % 16 = 0)
    (first : dataRead (dataReq x su 8 false) 8 s = .ok (lineBytes d (lineOffset x.pa) 8) t) :
    readOperand x su 16 s = .ok (lineBytes d (lineOffset x.pa) 16) t := by
  have second := dataRead_upper (su := su) idle on ci found aligned
  rw [line] at second
  rw [readOperand_quad first second, ← lineBytes_add d _ 8 8]

theorem readOperand_hit (idle : s.script = Script.idle) (on : dCacheOn s = true) (ci : x.attr.ci = false)
    (hit : dHit s x.pa = some way) (fits : InLine x.pa n) :
    readOperand x su n s = .ok (lineBytes (dLine s x.pa way).data (lineOffset x.pa) n) s := by
  have first (m : Nat) := dataRead_hit (q := dataReq x su m false) idle on ci hit m
  obtain small | rfl := fits.size
  · rw [readOperand, if_neg (by omega)]
    exact first n
  · exact readOperand_quad_line idle on ci hit rfl (fits.quad rfl) (first 8)

theorem filledState_valid (shd : Bool) : filledState shd ≠ .invalid := by cases shd <;> decide

theorem readOperand_miss (idle : s.script = Script.idle) (on : dCacheOn s = true) (ci : x.attr.ci = false)
    (board : s.env.regions = []) (wf : Memory.wf s.mem = true) (miss : dHit s x.pa = none) (room : Replaces s x.pa way)
    (fits : InLine x.pa n) :
    ∃ q : Req, q.x.pa = x.pa ∧ readOperand x su n s = .ok (lineBytes (memLine s x.pa) (lineOffset x.pa) n)
      (fillState s x.pa way (filledState (s.env.shd.getD false)) (memLine s x.pa) (fillTxn q false way)) := by
  have first (m : Nat) := dataRead_miss (q := dataReq x su m false) idle on ci board wf miss room m
  obtain small | rfl := fits.size
  · refine ⟨dataReq x su n false, rfl, ?_⟩
    rw [readOperand, if_neg (by omega)]
    exact first n
  · refine ⟨dataReq x su 8 false, rfl, ?_⟩
    refine readOperand_quad_line (way := way) ?_ ?_ ci ?_ ?_ (fits.quad rfl) (first 8)
    · rw [fillState_script, idle]
    · rw [dCacheOn_fillState, on]
    · exact dHit_fillState miss (filledState_valid _) _ _
    · rw [dLine_fillState]

/-! ### Single writes -/

/-- A write that goes to memory alone (22_caches.md R309). -/
theorem writeSingle_plain (idle : s.script = Script.idle) (plain : plainAt s q.x.pa = true) {first : Bool}
    (upper : first = true → plainAt s (q.x.pa + 8#32) = true) (bs : List Byte) :
    ∃ log, writeSingle first q bs s = .ok () { s with mem := (writeBytes s q.x.pa bs).mem, busLog := log } := by
  have lands : (first && failsAt s (reqTxn q.upper false) q.upper.x.pa) = false := by
    cases first
    · rfl
    · exact failsAt_plain (upper rfl) _
  obtain ⟨log, stored⟩ := busWrite_plain_frame idle (x := reqTxn q false) plain bs
  exact ⟨log, by simp only [writeSingle, lands, stored, if_true]; rfl⟩

/-- The line and the memory after a write-through hit, or with the memory of s a write-back hit. -/
def hitState (s : State) (a : Word) (way : Bool) (bs : List Byte) (st : LineState) (mem : List Host.Cell)
    (log : List BusTxn) : State :=
  { writeLine s a way bs st with mem := mem, busLog := log }

theorem dataWrite_hit_through (idle : s.script = Script.idle) (on : dCacheOn s = true) (ci : q.x.attr.ci = false)
    (through : writeThrough q s = true) (hit : dHit s q.x.pa = some way) (plain : plainAt s q.x.pa = true)
    {first : Bool} (upper : first = true → plainAt s (q.x.pa + 8#32) = true) (bs : List Byte) :
    ∃ log, dataWrite first q bs s
      = .ok () (hitState s q.x.pa way bs (dLine s q.x.pa way).state (writeBytes s q.x.pa bs).mem log) := by
  obtain ⟨log, stored⟩ := writeSingle_plain (s := writeLine s q.x.pa way bs (dLine s q.x.pa way).state) idle plain upper bs
  have mem : (writeBytes (writeLine s q.x.pa way bs (dLine s q.x.pa way).state) q.x.pa bs).mem
      = (writeBytes s q.x.pa bs).mem := writeBytes_mem_congr (setDLine_mem ..) _ _
  refine ⟨log, ?_⟩
  simp only [dataWrite, arbitrate_idle idle, writeLookup, ci, on, through, hit, stored, mem, Bool.not_true, Bool.or_self,
    Bool.false_eq_true, if_false, if_true]
  rfl

theorem dataWrite_miss_through (idle : s.script = Script.idle) (on : dCacheOn s = true) (ci : q.x.attr.ci = false)
    (through : writeThrough q s = true) (miss : dHit s q.x.pa = none) (plain : plainAt s q.x.pa = true)
    {first : Bool} (upper : first = true → plainAt s (q.x.pa + 8#32) = true) (bs : List Byte) :
    ∃ log, dataWrite first q bs s = .ok () { s with mem := (writeBytes s q.x.pa bs).mem, busLog := log } := by
  obtain ⟨log, stored⟩ := writeSingle_plain idle plain upper bs
  refine ⟨log, ?_⟩
  simp only [dataWrite, arbitrate_idle idle, writeLookup, ci, on, through, miss, stored, Bool.not_true, Bool.or_self,
    Bool.false_eq_true, if_false, if_true]

/-- The bus log after a write-back hit: a shared line of a global page is announced (22_caches.md R306). -/
def hitLog (s : State) (q : Req) (way : Bool) : List BusTxn :=
  if (dLine s q.x.pa way).state = .sharedUnmodified ∧ q.x.attr.g = true then invalidateTxn q way :: s.busLog
  else s.busLog

theorem dataWrite_hit_back (idle : s.script = Script.idle) (on : dCacheOn s = true) (ci : q.x.attr.ci = false)
    (back : writeThrough q s = false) (hit : dHit s q.x.pa = some way) (plain : plainAt s q.x.pa = true)
    (first : Bool) (bs : List Byte) :
    dataWrite first q bs s = .ok () (hitState s q.x.pa way bs .exclusiveModified s.mem (hitLog s q way)) := by
  have lands : failsAt s (invalidateTxn q way) (invalidateTxn q way).addr = false := failsAt_plain plain _
  simp only [dataWrite, arbitrate_idle idle, writeLookup, ci, on, back, hit, Bool.not_true, Bool.or_self,
    Bool.false_eq_true, if_false, writeBackHit, hitLog]
  split
  · simp only [busAddressOnly, takeEnd_idle idle, plain_cut, lands, closeTxn_plain, Bool.not_false, if_true]
    rfl
  · rfl

theorem dataWrite_miss_back (idle : s.script = Script.idle) (on : dCacheOn s = true) (ci : q.x.attr.ci = false)
    (back : writeThrough q s = false) (board : s.env.regions = []) (wf : Memory.wf s.mem = true)
    (miss : dHit s q.x.pa = none) (room : Replaces s q.x.pa way) (first : Bool) (bs : List Byte) :
    dataWrite first q bs s = .ok () (fillState s q.x.pa way .exclusiveModified
      (mergeLine (memLine s q.x.pa) (lineOffset q.x.pa) bs) (fillTxn q true way)) := by
  have made : makeRoom s q.x.pa way true = .ok () (roomState s q.x.pa way) := makeRoom_plain idle board wf true
  simp only [dataWrite, arbitrate_idle idle, writeLookup, ci, on, back, miss, dVictim_of_replaces room, writeAllocate,
    made, burstRead_room idle board wf miss, Bool.not_true, Bool.or_self, Bool.false_eq_true, if_false]
  rw [if_pos trivial, setDLine_roomState]

end

end Sys2Proof.Machine


/-! ## Writes of operands that the data cache serves -/

namespace Sys2Proof.Machine

section
variable {s : State} {a : Word} {way : Bool} {x : Xlate} {su wt : Bool} {n : Nat} {bs : List Byte}

/-! ### The line of a hit, once written -/

theorem dLine_hitState (bs : List Byte) (st : LineState) (mem : List Host.Cell) (log : List BusTxn) (b : Word) (w : Bool) :
    dLine (hitState s a way bs st mem log) b w
      = if lineIndex b w = lineIndex a way then
          { dLine s a way with data := mergeLine (dLine s a way).data (lineOffset a) bs, state := st }
        else dLine s b w :=
  (dLine_dcache rfl w).trans (dLine_setDLine s a b way w _)

theorem dLine_hitState_same (bs : List Byte) (st : LineState) (mem : List Host.Cell) (log : List BusTxn) :
    dLine (hitState s a way bs st mem log) a way
      = { dLine s a way with data := mergeLine (dLine s a way).data (lineOffset a) bs, state := st } := by
  rw [dLine_hitState, if_pos rfl]

theorem state_of_dHit (hit : dHit s a = some way) : (dLine s a way).state ≠ .invalid := by
  have holds := holds_of_dHit hit
  simp only [DLine.holds, Bool.and_eq_true, bne_iff_ne] at holds
  exact holds.1

/-- The line written is still found. -/
theorem dHit_hitState (hit : dHit s a = some way) {st : LineState} (valid : st ≠ .invalid) (bs : List Byte)
    (mem : List Host.Cell) (log : List BusTxn) : dHit (hitState s a way bs st mem log) a = some way := by
  have holds := holds_of_dHit hit
  simp only [DLine.holds, Bool.and_eq_true, bne_iff_ne] at holds
  refine (dHit_dcache rfl).trans (dHit_setDLine (.inl hit) ?_)
  simp [DLine.holds, valid, holds.2]

theorem dHit_upper {t : State} (found : dHit t a = some way) (aligned : a.toNat % 16 = 0) :
    dHit t (a + 8#32) = some way := (dHit_congr (upper_toNat aligned).1).trans found

theorem hitState_script (bs : List Byte) (st : LineState) (mem : List Host.Cell) (log : List BusTxn) :
    (hitState s a way bs st mem log).script = s.script := rfl

theorem dCacheOn_hitState (bs : List Byte) (st : LineState) (mem : List Host.Cell) (log : List BusTxn) :
    dCacheOn (hitState s a way bs st mem log) = dCacheOn s := rfl

theorem plainAt_hitState (bs : List Byte) (st : LineState) (mem : List Host.Cell) (log : List BusTxn) (b : Word) :
    plainAt (hitState s a way bs st mem log) b = plainAt s b := rfl

theorem writeThrough_hitState (q : Req) (bs : List Byte) (st : LineState) (mem : List Host.Cell) (log : List BusTxn) :
    writeThrough q (hitState s a way bs st mem log) = writeThrough q s := rfl

theorem fillState_env (st : LineState) (d : Vector Byte 32) (fill : BusTxn) :
    (fillState s a way st d fill).env = s.env := rfl

theorem writeThrough_fillState (q : Req) (st : LineState) (d : Vector Byte 32) (fill : BusTxn) :
    writeThrough q (fillState s a way st d fill) = writeThrough q s := rfl

/-- The two halves of a quad word written into one line are the quad word written into it. -/
theorem hitState_hitState (aligned : a.toNat % 16 = 0) {lo : List Byte} (length : lo.length = 8) (hi : List Byte)
    (st st' : LineState) (mem mem' : List Host.Cell) (log log' : List BusTxn) :
    hitState (hitState s a way lo st mem log) (a + 8#32) way hi st' mem' log'
      = hitState s a way (lo ++ hi) st' mem' log' := by
  have same := (upper_toNat aligned).1
  have merged := mergeLine_append (dLine s a way).data (lineOffset a) lo hi
  rw [length] at merged
  rw [hitState, writeLine, dLine_congr same, dLine_hitState_same, lineOffset_upper aligned, setDLine_congr same]
  simp only [merged, hitState, writeLine, setDLine, Vector.set_set]

/-- The upper double word written into the line that a miss filled and merged with the lower one. -/
theorem hitState_fillState (aligned : a.toNat % 16 = 0) {lo : List Byte} (length : lo.length = 8) (hi : List Byte)
    (st : LineState) (d : Vector Byte 32) (fill : BusTxn) :
    hitState (fillState s a way st (mergeLine d (lineOffset a) lo) fill) (a + 8#32) way hi st
        (roomMem s a way) (fill :: roomLog s a way)
      = fillState s a way st (mergeLine d (lineOffset a) (lo ++ hi)) fill := by
  have same := (upper_toNat aligned).1
  have merged := mergeLine_append d (lineOffset a) lo hi
  rw [length] at merged
  rw [hitState, writeLine, dLine_congr same, dLine_fillState, lineOffset_upper aligned, setDLine_congr same]
  simp only [merged, fillState, setDLine, Vector.set_set]

theorem hitLog_modified {q : Req} (h : (dLine s q.x.pa way).state = .exclusiveModified) : hitLog s q way = s.busLog := by
  rw [hitLog, if_neg (by rw [h]; exact fun shared => nomatch shared.1)]

theorem writeBytes_upper_mem {t : State} (length : bs.length = 16) (h : t.mem = (writeBytes s a (bs.take 8)).mem) :
    (writeBytes t (a + 8#32) (bs.drop 8)).mem = (writeBytes s a bs).mem := by
  rw [← writeBytes_halves length]
  exact writeBytes_mem_congr h _ _

/-! ### Whole operands -/

/-- A write-through hit writes the line and the memory (22_caches.md R307). -/
theorem writeOperand_hit_through (idle : s.script = Script.idle) (on : dCacheOn s = true) (ci : x.attr.ci = false)
    (through : (x.attr.wt || wt || ctlFwt s.dmu.ctl) = true) (hit : dHit s x.pa = some way)
    (plain : plainAt s x.pa = true) (upper : n = 16 → plainAt s (x.pa + 8#32) = true) (fits : InLine x.pa n)
    (length : bs.length = n) :
    ∃ log, writeOperand x su wt n bs s
      = .ok () (hitState s x.pa way bs (dLine s x.pa way).state (writeBytes s x.pa bs).mem log) := by
  obtain small | rfl := fits.size
  · rw [writeOperand_small small]
    exact dataWrite_hit_through (q := dataReq x su n wt) idle on ci through hit plain (first := false) nofun bs
  · have aligned := fits.quad rfl
    have low : (bs.take 8).length = 8 := by rw [List.length_take]; omega
    obtain ⟨log, first⟩ := dataWrite_hit_through (q := dataReq x su 8 wt) idle on ci through hit plain
      (first := true) (fun _ => upper rfl) (bs.take 8)
    have found := dHit_upper (dHit_hitState hit (state_of_dHit hit) (bs.take 8) (writeBytes s x.pa (bs.take 8)).mem log)
      aligned
    obtain ⟨log', second⟩ := dataWrite_hit_through (q := dataReq ⟨x.pa + 8#32, x.attr⟩ su 8 wt)
      ((hitState_script ..).trans idle) ((dCacheOn_hitState ..).trans on) ci ((writeThrough_hitState ..).trans through)
      found ((plainAt_hitState ..).trans (upper rfl)) (first := false) nofun (bs.drop 8)
    refine ⟨log', (writeOperand_quad first second).trans ?_⟩
    have state : (dLine (hitState s x.pa way (bs.take 8) (dLine s x.pa way).state (writeBytes s x.pa (bs.take 8)).mem log)
        (x.pa + 8#32) way).state = (dLine s x.pa way).state := by
      rw [dLine_congr (upper_toNat aligned).1, dLine_hitState_same]
    have mem : (writeBytes (hitState s x.pa way (bs.take 8) (dLine s x.pa way).state (writeBytes s x.pa (bs.take 8)).mem
        log) (x.pa + 8#32) (bs.drop 8)).mem = (writeBytes s x.pa bs).mem := writeBytes_upper_mem length rfl
    simp only [dataReq, state, mem, hitState_hitState aligned low, List.take_append_drop]

/-- A write-through miss goes to memory alone (22_caches.md R309). -/
theorem writeOperand_miss_through (idle : s.script = Script.idle) (on : dCacheOn s = true) (ci : x.attr.ci = false)
    (through : (x.attr.wt || wt || ctlFwt s.dmu.ctl) = true) (miss : dHit s x.pa = none)
    (plain : plainAt s x.pa = true) (upper : n = 16 → plainAt s (x.pa + 8#32) = true) (fits : InLine x.pa n)
    (length : bs.length = n) :
    ∃ log, writeOperand x su wt n bs s = .ok () { s with mem := (writeBytes s x.pa bs).mem, busLog := log } := by
  obtain small | rfl := fits.size
  · rw [writeOperand_small small]
    exact dataWrite_miss_through (q := dataReq x su n wt) idle on ci through miss plain (first := false) nofun bs
  · obtain ⟨log, first⟩ := dataWrite_miss_through (q := dataReq x su 8 wt) idle on ci through miss plain
      (first := true) (fun _ => upper rfl) (bs.take 8)
    have absent : dHit { s with mem := (writeBytes s x.pa (bs.take 8)).mem, busLog := log } (x.pa + 8#32) = none :=
      (dHit_congr (upper_toNat (fits.quad rfl)).1).trans ((dHit_dcache rfl).trans miss)
    obtain ⟨log', second⟩ := dataWrite_miss_through (q := dataReq ⟨x.pa + 8#32, x.attr⟩ su 8 wt)
      (s := { s with mem := (writeBytes s x.pa (bs.take 8)).mem, busLog := log }) idle on ci through absent (upper rfl)
      (first := false) nofun (bs.drop 8)
    have mem : (writeBytes { s with mem := (writeBytes s x.pa (bs.take 8)).mem, busLog := log } (x.pa + 8#32)
        (bs.drop 8)).mem = (writeBytes s x.pa bs).mem := writeBytes_upper_mem length rfl
    refine ⟨log', (writeOperand_quad first second).trans ?_⟩
    simp only [dataReq, mem]

/-- The size of the first access of an operand: the double word of a quad word. -/
def firstSize (n : Nat) : Nat := if n = 16 then 8 else n

/-- A write-back hit writes the line and leaves memory; the first access alone can be announced (22_caches.md R306). -/
theorem writeOperand_hit_back (idle : s.script = Script.idle) (on : dCacheOn s = true) (ci : x.attr.ci = false)
    (back : (x.attr.wt || wt || ctlFwt s.dmu.ctl) = false) (hit : dHit s x.pa = some way)
    (plain : plainAt s x.pa = true) (upper : n = 16 → plainAt s (x.pa + 8#32) = true) (fits : InLine x.pa n)
    (length : bs.length = n) :
    writeOperand x su wt n bs s = .ok () (hitState s x.pa way bs .exclusiveModified s.mem
      (hitLog s (dataReq x su (firstSize n) wt) way)) := by
  obtain small | rfl := fits.size
  · rw [writeOperand_small small, firstSize, if_neg (by omega)]
    exact dataWrite_hit_back (q := dataReq x su n wt) idle on ci back hit plain false bs
  · have aligned := fits.quad rfl
    have low : (bs.take 8).length = 8 := by rw [List.length_take]; omega
    have first := dataWrite_hit_back (q := dataReq x su 8 wt) idle on ci back hit plain true (bs.take 8)
    have found := dHit_upper (dHit_hitState hit (st := .exclusiveModified) (by decide) (bs.take 8) s.mem
      (hitLog s (dataReq x su 8 wt) way)) aligned
    have second := dataWrite_hit_back (q := dataReq ⟨x.pa + 8#32, x.attr⟩ su 8 wt)
      ((hitState_script ..).trans idle) ((dCacheOn_hitState ..).trans on) ci ((writeThrough_hitState ..).trans back)
      found ((plainAt_hitState ..).trans (upper rfl)) false (bs.drop 8)
    have modified : (dLine (hitState s x.pa way (bs.take 8) .exclusiveModified s.mem (hitLog s (dataReq x su 8 wt) way))
        (x.pa + 8#32) way).state = .exclusiveModified := by
      rw [dLine_congr (upper_toNat aligned).1, dLine_hitState_same]
    have log : hitLog (hitState s x.pa way (bs.take 8) .exclusiveModified s.mem (hitLog s (dataReq x su 8 wt) way))
        (dataReq ⟨x.pa + 8#32, x.attr⟩ su 8 wt) way = hitLog s (dataReq x su 8 wt) way := hitLog_modified modified
    refine (writeOperand_quad first second).trans ?_
    rw [log]
    simp only [dataReq, hitState_hitState aligned low, List.take_append_drop]
    rfl

/-- A write-back miss fills the line and merges the operand's bytes into it (22_caches.md R308). -/
theorem writeOperand_miss_back (idle : s.script = Script.idle) (on : dCacheOn s = true) (ci : x.attr.ci = false)
    (back : (x.attr.wt || wt || ctlFwt s.dmu.ctl) = false) (board : s.env.regions = [])
    (wf : Memory.wf s.mem = true) (miss : dHit s x.pa = none) (room : Replaces s x.pa way) (fits : InLine x.pa n)
    (length : bs.length = n) :
    ∃ q : Req, q.x.pa = x.pa ∧ writeOperand x su wt n bs s = .ok () (fillState s x.pa way .exclusiveModified
      (mergeLine (memLine s x.pa) (lineOffset x.pa) bs) (fillTxn q true way)) := by
  obtain small | rfl := fits.size
  · rw [writeOperand_small small]
    exact ⟨dataReq x su n wt, rfl,
      dataWrite_miss_back (q := dataReq x su n wt) idle on ci back board wf miss room false bs⟩
  · refine ⟨dataReq x su 8 wt, rfl, ?_⟩
    have aligned := fits.quad rfl
    have low : (bs.take 8).length = 8 := by rw [List.length_take]; omega
    have first := dataWrite_miss_back (q := dataReq x su 8 wt) idle on ci back board wf miss room true (bs.take 8)
    have found := dHit_upper (dHit_fillState (way := way) miss (st := .exclusiveModified) (by decide)
      (mergeLine (memLine s x.pa) (lineOffset x.pa) (bs.take 8)) (fillTxn (dataReq x su 8 wt) true way)) aligned
    have modified : (dLine (fillState s x.pa way .exclusiveModified
        (mergeLine (memLine s x.pa) (lineOffset x.pa) (bs.take 8)) (fillTxn (dataReq x su 8 wt) true way))
        (x.pa + 8#32) way).state = .exclusiveModified := by
      rw [dLine_congr (upper_toNat aligned).1, dLine_fillState]
    have second := dataWrite_hit_back (q := dataReq ⟨x.pa + 8#32, x.attr⟩ su 8 wt)
      (by rw [fillState_script, idle]) (by rw [dCacheOn_fillState, on]) ci (by rw [writeThrough_fillState]; exact back)
      found (plainAt_everywhere (by rw [fillState_env, board]) _) false (bs.drop 8)
    have log := hitLog_modified (q := dataReq ⟨x.pa + 8#32, x.attr⟩ su 8 wt) modified
    rw [log] at second
    refine (writeOperand_quad first second).trans (congrArg (MRes.ok ()) ?_)
    refine (hitState_fillState aligned low (bs.drop 8) ..).trans ?_
    rw [List.take_append_drop]

end

end Sys2Proof.Machine


/-! ## Loads and stores that the data cache serves -/

namespace Sys2Proof.Machine

section
variable {s t : State} {a ea : Word} {way su usr wt : Bool} {n v : Nat}

/-! ### The cached setting -/

theorem CachedData.dataAddress (h : CachedData s su) (write : Bool) (a : Word) :
    dataAddress su write a s = .ok (identity s.dmu su a) s := by
  simp [Machine.dataAddress, breakpointMatch, h.bp0, h.bp1, translate, mmuOf, h.mmu]

theorem CachedData.dCacheOn (h : CachedData s su) : dCacheOn s = true := by
  simp [Machine.dCacheOn, h.cache, h.dbug]

/-! ### The value of the bytes read -/

/-- Bytes that are an operand's, each in its place, read as its value. -/
theorem operandValue_of_bytes {bs : List Byte} (length : bs.length = n) (bound : v < 256 ^ n)
    (bytes : ∀ k, k < n → v / 256 ^ bytePlace s n k % 256 = (bs.getD k 0#8).toNat) : operandValue s bs = v := by
  have same : bs = operandBytes s n v := by
    refine List.ext_getElem (by rw [length, operandBytes_length]) fun k h1 h2 => BitVec.eq_of_toNat_eq ?_
    have hk : k < n := length ▸ h1
    rw [← List.getD_eq_getElem _ 0#8 h1, ← List.getD_eq_getElem _ 0#8 h2, operandBytes_getD s n v k hk, bytes k hk]
  rw [same, operandValue_operandBytes, Nat.mod_eq_of_lt bound]

theorem operandValue_fillState (st : LineState) (d : Vector Byte 32) (fill : BusTxn) (bs : List Byte) :
    operandValue (fillState s a way st d fill) bs = operandValue s bs := rfl

/-- A load is the read of its operand, where the address is its own translation. -/
theorem loadInto_of_read (h : CachedData s (spaceOf s usr)) (allowed : usr = true → psrMode s = true)
    (ha : alignAddr s n ea = some a) {bs : List Byte}
    (read : readOperand (identity s.dmu (spaceOf s usr) a) (spaceOf s usr) n s = .ok bs t)
    (value : operandValue t bs = v) (put : State → Nat → State) : loadInto usr n ea put s = .ok () (put t v) := by
  simp only [loadInto, loadValue, usrViolation_eq_false allowed, Bool.false_eq_true, if_false, ha, readAt, h.dataAddress,
    read, settle, value]

theorem loadInto_hit (h : CachedData s (spaceOf s usr)) (allowed : usr = true → psrMode s = true) (fits : InLine a n)
    (ha : alignAddr s n ea = some a) (hit : dHit s a = some way) (bound : v < 256 ^ n)
    (bytes : ∀ j, j < n → v / 256 ^ bytePlace s n j % 256 = (lineByte s a way (a.toNat % 32 + j)).toNat)
    (put : State → Nat → State) : loadInto usr n ea put s = .ok () (put s v) := by
  have within := fits.within
  refine loadInto_of_read h allowed ha
    (readOperand_hit (x := identity s.dmu (spaceOf s usr) a) h.idle h.dCacheOn h.inhibit hit fits) ?_ put
  refine operandValue_of_bytes (lineBytes_length _ (by rw [lineOffset_eq]; exact within)) bound fun k hk => ?_
  rw [bytes k hk, lineBytes_getD _ hk, lineOffset_eq]
  rfl

/-- The bytes of an operand inside the line of memory that holds it. -/
theorem memLine_operand (fits : InLine a n) {k : Nat} (hk : k < n) :
    (memLine s a).toList.getD (lineOffset a + k) 0#8 = readByte s (a + BitVec.ofNat 32 k) := by
  have within := fits.within
  have address : lineAddr a + BitVec.ofNat 32 (a.toNat % 32 + k) = a + BitVec.ofNat 32 k := by
    have bounded := a.isLt
    rw [← BitVec.toNat_inj, BitVec.toNat_add, BitVec.toNat_add, lineAddr_toNat, BitVec.toNat_ofNat, BitVec.toNat_ofNat]
    omega
  rw [lineOffset_eq, memLine_getD _ _ (by omega), address]

theorem loadInto_miss (h : CachedData s (spaceOf s usr)) (allowed : usr = true → psrMode s = true) (fits : InLine a n)
    (ha : alignAddr s n ea = some a) (board : s.env.regions = []) (wf : Memory.wf s.mem = true) (miss : dHit s a = none)
    (room : Replaces s a way) (held : HeldAt s a n v) (put : State → Nat → State) :
    ∃ q : Req, q.x.pa = a ∧ loadInto usr n ea put s
      = .ok () (put (fillState s a way (filledState (s.env.shd.getD false)) (memLine s a) (fillTxn q false way)) v) := by
  have within := fits.within
  obtain ⟨q, hq, read⟩ := readOperand_miss (x := identity s.dmu (spaceOf s usr) a) (su := spaceOf s usr) h.idle h.dCacheOn
    h.inhibit board wf miss room fits
  refine ⟨q, hq, loadInto_of_read h allowed ha read ?_ put⟩
  refine (operandValue_fillState ..).trans ?_
  refine operandValue_of_bytes (lineBytes_length _ (by rw [lineOffset_eq]; exact within)) held.bound fun k hk => ?_
  exact (held.bytes k hk).trans (congrArg BitVec.toNat ((lineBytes_getD _ hk).trans (memLine_operand fits hk)).symm)

/-! ### Stores -/

/-- A store is the write of its operand, where the address is its own translation. -/
theorem storeValue_of_write (h : CachedData s (spaceOf s usr)) (allowed : usr = true → psrMode s = true)
    (ha : alignAddr s n ea = some a)
    (written : writeOperand (identity s.dmu (spaceOf s usr) a) (spaceOf s usr) wt n (operandBytes s n v) s = .ok () t) :
    storeValue usr wt n ea v s = .ok () t := by
  simp only [storeValue, usrViolation_eq_false allowed, Bool.false_eq_true, if_false, ha, writeAt, h.dataAddress, written,
    settle]

/-- The bytes of a line once an operand was merged into it. -/
theorem mergeLine_operand (d : Vector Byte 32) (a : Word) {j : Nat} (hj : j < 32) :
    ((mergeLine d (lineOffset a) (operandBytes s n v)).toList.getD j 0#8).toNat
      = if a.toNat % 32 ≤ j ∧ j < a.toNat % 32 + n then v / 256 ^ bytePlace s n (j - a.toNat % 32) % 256
        else (d.toList.getD j 0#8).toNat := by
  rw [mergeLine_getD _ _ _ hj, lineOffset_eq, operandBytes_length]
  split
  · rw [operandBytes_getD s n v _ (by omega)]
  · rfl

/-- What a store leaves in the line it hits, in memory, and on the bus. -/
theorem storesInLine_hitState {through : Bool} {announced : Option BusTxn} {mem : List Host.Cell} {log : List BusTxn}
    (wf : Memory.wf s.mem = true) (hn : n ≤ 16)
    (hmem : mem = if through then (writeBytes s a (operandBytes s n v)).mem else s.mem)
    (hlog : through = false → log = announced.toList ++ s.busLog) :
    StoresInLine a way through announced n v s (advance (hitState s a way (operandBytes s n v)
      (if through then (dLine s a way).state else .exclusiveModified) mem log)) where
  state := by rw [dLine_dcache (advance_dcache _), dLine_hitState_same]
  tag := by rw [dLine_dcache (advance_dcache _), dLine_hitState_same]
  bytes j hj := by
    rw [lineByte, dLine_dcache (advance_dcache _), dLine_hitState_same]
    exact mergeLine_operand _ a hj
  lines b w other := by rw [dLine_dcache (advance_dcache _), dLine_hitState, if_neg other]
  stored on k hk := readByte_stored wf hn (by rw [on, if_pos rfl] at hmem; exact hmem) hk
  others b outside := by
    cases through
    · exact readByte_congr hmem b
    · exact readByte_beside wf hn hmem (outside.resolve_left nofun)
  bus back := hlog back
  frame := rfl

/-! ### Stores by policy -/

/-- The write policy of a store to its own address is write-through (22_caches.md R301). -/
def storesThrough (s : State) (su wt : Bool) : Bool := (areaOf s.dmu su).getLsbD 9 || wt || ctlFwt s.dmu.ctl

/-- The transaction that announces a write-back store to a shared line of a global page (22_caches.md R306). -/
def announcedStore (s : State) (a : Word) (way su : Bool) (n : Nat) : Option BusTxn :=
  if (areaOf s.dmu su).getLsbD 7 = true ∧ (dLine s a way).state = .sharedUnmodified then
    some (announcement a su n way) else none

theorem tsizOf_firstSize (n : Nat) : tsizOf (firstSize n) = tsizOf n := by
  unfold firstSize
  split
  · next quad => rw [quad]; rfl
  · rfl

theorem invalidateTxn_announcement :
    invalidateTxn (dataReq (identity s.dmu su a) su (firstSize n) wt) way = announcement a su n way := by
  rw [invalidateTxn, dataReq, tsizOf_firstSize]
  rfl

theorem hitLog_announced :
    hitLog s (dataReq (identity s.dmu su a) su (firstSize n) wt) way
      = (announcedStore s a way su n).toList ++ s.busLog := by
  rw [hitLog, invalidateTxn_announcement, announcedStore]
  by_cases shared : (areaOf s.dmu su).getLsbD 7 = true ∧ (dLine s a way).state = .sharedUnmodified
  · rw [if_pos shared]
    exact if_pos shared.symm
  · rw [if_neg shared]
    exact if_neg (mt And.symm shared)

theorem storeValue_hit (h : CachedData s (spaceOf s usr)) (allowed : usr = true → psrMode s = true) (fits : InLine a n)
    (ha : alignAddr s n ea = some a) (hit : dHit s a = some way) (wf : Memory.wf s.mem = true)
    (plain : plainAt s a = true) (upper : n = 16 → plainAt s (a + 8#32) = true) :
    ∃ t, storeValue usr wt n ea v s = .ok () t
      ∧ StoresInLine a way (storesThrough s (spaceOf s usr) wt) (announcedStore s a way (spaceOf s usr) n) n v s
          (advance t) := by
  have size : n ≤ 16 := by have := fits.size; omega
  have length := operandBytes_length s n v
  cases policy : storesThrough s (spaceOf s usr) wt
  · exact ⟨_, storeValue_of_write h allowed ha (writeOperand_hit_back (x := identity s.dmu (spaceOf s usr) a) h.idle
      h.dCacheOn h.inhibit policy hit plain upper fits length),
      storesInLine_hitState (through := false) wf size rfl fun _ => hitLog_announced⟩
  · obtain ⟨log, written⟩ := writeOperand_hit_through (x := identity s.dmu (spaceOf s usr) a) (su := spaceOf s usr)
      h.idle h.dCacheOn h.inhibit policy hit plain upper fits length
    exact ⟨_, storeValue_of_write h allowed ha written, storesInLine_hitState (through := true) wf size rfl nofun⟩

theorem storeValue_miss_through (h : CachedData s (spaceOf s usr)) (allowed : usr = true → psrMode s = true)
    (fits : InLine a n) (ha : alignAddr s n ea = some a) (miss : dHit s a = none) (wf : Memory.wf s.mem = true)
    (policy : storesThrough s (spaceOf s usr) wt = true) (plain : plainAt s a = true)
    (upper : n = 16 → plainAt s (a + 8#32) = true) :
    ∃ t, storeValue usr wt n ea v s = .ok () t ∧ Stores a n v s (advance t) := by
  have size : n ≤ 16 := by have := fits.size; omega
  obtain ⟨log, written⟩ := writeOperand_miss_through (x := identity s.dmu (spaceOf s usr) a) (su := spaceOf s usr)
    h.idle h.dCacheOn h.inhibit policy miss plain upper fits (operandBytes_length s n v)
  exact ⟨_, storeValue_of_write h allowed ha written, stores_advance wf size log⟩

theorem storeValue_miss_back (h : CachedData s (spaceOf s usr)) (allowed : usr = true → psrMode s = true)
    (fits : InLine a n) (ha : alignAddr s n ea = some a) (miss : dHit s a = none) (room : Replaces s a way)
    (wf : Memory.wf s.mem = true) (policy : storesThrough s (spaceOf s usr) wt = false) (board : s.env.regions = []) :
    ∃ q : Req, q.x.pa = a ∧ storeValue usr wt n ea v s = .ok () (fillState s a way .exclusiveModified
      (mergeLine (memLine s a) (lineOffset a) (operandBytes s n v)) (fillTxn q true way)) := by
  obtain ⟨q, hq, written⟩ := writeOperand_miss_back (x := identity s.dmu (spaceOf s usr) a) (su := spaceOf s usr)
    h.idle h.dCacheOn h.inhibit policy board wf miss room fits (operandBytes_length s n v)
  exact ⟨q, hq, storeValue_of_write h allowed ha written⟩

end

end Sys2Proof.Machine


/-! ## Accesses that the data cache serves, every form -/

namespace Sys2Proof.Machine

section
variable {s : State} {a ea : Word} {way usr wt space : Bool} {n k v : Nat} {i : Instr} {put : State → Nat → State}

/-! ### Register writes leave the cache and the memory alone -/

/-- The state with another data cache, bias bit, memory and bus log. -/
def withCache (s : State) (dcache : Vector DLine 256) (dbias : Bool) (mem : List Host.Cell) (log : List BusTxn) : State :=
  { s with dcache := dcache, dbias := dbias, mem := mem, busLog := log }

/-- The write of a load's register neither reads nor changes the data cache, the memory and the bus log. -/
def LeavesCache (put : State → Nat → State) : Prop :=
  ∀ s v dcache dbias mem log,
    put (withCache s dcache dbias mem log) v = withCache (put s v) dcache dbias mem log

theorem leavesCache_writeReg (d : RegNum) (f : Nat → Word) : LeavesCache fun t v => writeReg t d (f v) := by
  intro s v dcache dbias mem log
  simp only [writeReg]
  split <;> rfl

theorem leavesCache_writePair (d : RegNum) (f : Nat → DWord) : LeavesCache fun t v => writePair t d (f v) := by
  intro s v dcache dbias mem log
  have high := leavesCache_writeReg d (fun v => (f v).extractLsb' 32 32) s v dcache dbias mem log
  exact (congrArg (writeReg · (d + 1#5) ((f v).extractLsb' 0 32)) high).trans
    (leavesCache_writeReg (d + 1#5) (fun v => (f v).extractLsb' 0 32) _ v dcache dbias mem log)

theorem leavesCache_writeX (d : RegNum) (f : Nat → XWord) : LeavesCache fun t v => writeX t d (f v) := by
  intro s v dcache dbias mem log
  simp only [writeX]
  split <;> rfl

theorem leavesCache_writeXNarrow (d : RegNum) (low : XWord) (f : Nat → XWord) :
    LeavesCache fun t v => writeXNarrow t d low (f v) := by
  intro s v dcache dbias mem log
  simp only [writeXNarrow, writeX]
  split <;> rfl

theorem LeavesCache.same (h : LeavesCache put) (s : State) (v : Nat) :
    put s v = withCache (put s v) s.dcache s.dbias s.mem s.busLog := h s v s.dcache s.dbias s.mem s.busLog

theorem LeavesCache.keeps (h : LeavesCache put) (s : State) (v : Nat) :
    (put s v).dcache = s.dcache ∧ (put s v).dbias = s.dbias ∧ (put s v).mem = s.mem ∧ (put s v).busLog = s.busLog := by
  rw [h.same]
  exact ⟨rfl, rfl, rfl, rfl⟩

theorem fillState_withCache (st : LineState) (d : Vector Byte 32) (fill : BusTxn) :
    fillState s a way st d fill
      = withCache s (fillState s a way st d fill).dcache (!s.dbias) (roomMem s a way) (fill :: roomLog s a way) := rfl

/-- But for the cache and the bus, a load that misses leaves what the load alone leaves. -/
theorem LeavesCache.restore (h : LeavesCache put) (st : LineState) (d : Vector Byte 32) (fill : BusTxn) :
    withCache (advance (put (fillState s a way st d fill) v)) s.dcache s.dbias s.mem s.busLog = advance (put s v) := by
  rw [fillState_withCache, h, h.same s]
  rfl

/-! ### Loads -/

/-- The byte of memory that a miss at a brings to offset j of the line. -/
def fetchedByte (s : State) (a : Word) (j : Nat) : Nat := (readByte s ((a &&& 0xFFFFFFE0#32) + BitVec.ofNat 32 j)).toNat

theorem memLine_fetchedByte {j : Nat} (hj : j < 32) : ((memLine s a).toList.getD j 0#8).toNat = fetchedByte s a j :=
  congrArg BitVec.toNat (memLine_getD s a hj)

theorem filledState_shd (shd : Option Bool) :
    filledState (shd.getD false) = if shd = some true then .sharedUnmodified else .exclusiveUnmodified := by
  cases shd with
  | none => rfl
  | some shd => cases shd <;> rfl

/-- The line that a load or store miss at the address a replaces, where plain memory answers. -/
def Missed (s : State) (a : Word) (way : Bool) : Prop :=
  dHit s a = none ∧ Replaces s a way ∧ Memory.wf s.mem = true ∧ s.env.regions = []

/-- A load of an operand that the data cache serves, on a hit and on a miss. -/
theorem does_load {out : State → Prop} (size : n = 2 ^ k) (hk : k ≤ 4) (leaves : LeavesCache put)
    (executed : exec i s = finish (loadInto usr n ea put s)) (allowed : usr = true → psrMode s = true)
    (bound : v < 256 ^ n) (written : out (advance (put s v))) (inSpace : spaceOf s usr = space)
    (h : CachedData s space) (ha : alignAddr s n ea = some a) :
    (dHit s a = some way →
        (∀ j, j < n → v / 256 ^ bytePlace s n j % 256 = (lineByte s a way (a.toNat % 32 + j)).toNat) → Does i s out)
      ∧ (Missed s a way → HeldAt s a n v →
        Does i s fun t => FillsLine a way false
            (if s.env.shd = some true then .sharedUnmodified else .exclusiveUnmodified) (fetchedByte s a) s t
          ∧ out { t with dcache := s.dcache, dbias := s.dbias, mem := s.mem, busLog := s.busLog }) := by
  subst inSpace
  have fits : InLine a n := by subst size; exact inLine_of_alignAddr hk ha
  constructor
  · intro hit bytes
    exact ⟨_, executed.trans (congrArg finish (loadInto_hit h allowed fits ha hit bound bytes put)), written⟩
  · rintro ⟨miss, room, wf, board⟩ held
    obtain ⟨q, hq, loaded⟩ := loadInto_miss h allowed fits ha board wf miss room held put
    obtain ⟨dcache, dbias, mem, log⟩ := leaves.keeps
      (fillState s a way (filledState (s.env.shd.getD false)) (memLine s a) (fillTxn q false way)) v
    refine ⟨_, executed.trans (congrArg finish loaded), ?_, ?_⟩
    · rw [← filledState_shd]
      exact fillsLine_congr (fillsLine_fillState board wf false _ (fun _ => memLine_fetchedByte) hq) dcache dbias mem log
    · have restored := leaves.restore (s := s) (a := a) (way := way) (v := v) (filledState (s.env.shd.getD false))
        (memLine s a) (fillTxn q false way)
      rw [withCache] at restored
      rw [restored]
      exact written

/-! ### Stores -/

/-- The byte at offset j of a line that a store miss fills and merges with the operand. -/
def mergedByte (s : State) (a : Word) (n v j : Nat) : Nat :=
  if a.toNat % 32 ≤ j ∧ j < a.toNat % 32 + n then v / 256 ^ bytePlace s n (j - a.toNat % 32) % 256
  else fetchedByte s a j

/-- A store of an operand that the data cache serves: on a hit, and on a miss under each policy. -/
theorem does_store (size : n = 2 ^ k) (hk : k ≤ 4) (executed : exec i s = finish (storeValue usr wt n ea v s))
    (allowed : usr = true → psrMode s = true) (inSpace : spaceOf s usr = space) (h : CachedData s space)
    (ha : alignAddr s n ea = some a) (wf : Memory.wf s.mem = true) (plain : plainAt s a = true)
    (upper : n = 16 → plainAt s (a + 8#32) = true) :
    (dHit s a = some way → Does i s (StoresInLine a way (storesThrough s space wt) (announcedStore s a way space n) n v s))
      ∧ (Missed s a way → storesThrough s space wt = false →
        Does i s fun t => FillsLine a way true .exclusiveModified (mergedByte s a n v) s t
          ∧ t = { s with dcache := t.dcache, dbias := t.dbias, mem := t.mem, busLog := t.busLog,
                         xip := s.nip, nip := s.nip + 4#32, ds := false })
      ∧ (dHit s a = none → storesThrough s space wt = true → Does i s (Stores a n v s)) := by
  subst inSpace
  have fits : InLine a n := by subst size; exact inLine_of_alignAddr hk ha
  refine ⟨fun hit => ?_, ?_, fun miss policy => ?_⟩
  · obtain ⟨t, stored, result⟩ := storeValue_hit (v := v) (wt := wt) h allowed fits ha hit wf plain upper
    exact ⟨_, executed.trans (congrArg finish stored), result⟩
  · rintro ⟨miss, room, -, board⟩ policy
    obtain ⟨q, hq, stored⟩ := storeValue_miss_back (v := v) h allowed fits ha miss room wf policy board
    refine ⟨_, executed.trans (congrArg finish stored), ?_, rfl⟩
    have bytes (j : Nat) (hj : j < 32) :
        ((mergeLine (memLine s a) (lineOffset a) (operandBytes s n v)).toList.getD j 0#8).toNat = mergedByte s a n v j := by
      rw [mergeLine_operand _ a hj, memLine_fetchedByte hj]
      rfl
    exact fillsLine_congr (fillsLine_fillState board wf true _ bytes hq) rfl rfl rfl rfl
  · obtain ⟨t, stored, result⟩ := storeValue_miss_through (v := v) h allowed fits ha miss wf policy plain upper
    exact ⟨_, executed.trans (congrArg finish stored), result⟩

end

theorem spaceOf_false (s : State) : spaceOf s false = psrMode s := Bool.true_and _

theorem spaceOf_eq (s : State) (usr : Bool) : spaceOf s usr = (psrMode s && !usr) := Bool.and_comm ..

/-- Settles O50: each form is a load or a store of an aligned operand inside one line, which is hit or filled. -/
theorem cacheHitsAndMisses : Obligations.CacheHitsAndMisses := by
  unfold Obligations.CacheHitsAndMisses
  intro s d s1 s2 scaled usr wt imm a way allowed su through announced next missed read fetched merged from_ outX into
  have load {n k : Nat} {iImm iReg : Instr} {out : Nat → State → Prop} (put : State → Nat → State) (size : n = 2 ^ k)
      (hk : k ≤ 4) (leaves : LeavesCache put) (written : ∀ v, v < 256 ^ n → out v (advance (put s v)))
      (hImm : exec iImm s = finish (loadInto false n (eaImm s s1 imm) put s))
      (hReg : exec iReg s = finish (loadInto usr n (eaReg s s1 s2 scaled k) put s)) : from_ n k iImm iReg out := by
    intro v bound does
    refine ⟨fun h ha => ?_, fun h ha => ?_⟩
    · exact does_load size hk leaves hImm nofun bound (written v bound) (spaceOf_false s) h ha
    · exact does_load size hk leaves hReg allowed bound (written v bound) (spaceOf_eq s usr) h ha
  have store {n k v : Nat} {iImm iReg : Instr} (size : n = 2 ^ k) (hk : k ≤ 4)
      (hImm : exec iImm s = finish (storeValue false false n (eaImm s s1 imm) v s))
      (hReg : exec iReg s = finish (storeValue usr wt n (eaReg s s1 s2 scaled k) v s)) : into n k v iImm iReg := by
    refine ⟨fun h ha wf plain upper => ?_, fun h ha wf plain upper => ?_⟩
    · exact does_store size hk hImm nofun (spaceOf_false s) h ha wf plain upper
    · exact does_store size hk hReg allowed (spaceOf_eq s usr) h ha wf plain upper
  have extended {w v : Nat} {t : State} (h : FallsThroughX d w v s t) : outX w v t :=
    ⟨h.writes, h.registers, h.memory, h.frame⟩
  refine ⟨fun hd => ?_, ?_, fun hd => ?_, ?_, fun hd => ?_, fun even => ?_, ?_, ?_, ?_, ?_, ?_, ?_, fun even => ?_,
    ?_, ?_, ?_⟩
  · exact load _ rfl (by decide) (leavesCache_writeReg d _) (fun _ _ => sets_advance_writeReg s d _)
      (congrArg finish (loadB_eq hd)) (congrArg finish (loadB_eq hd))
  · exact load _ rfl (by decide) (leavesCache_writeReg d _) (fun _ _ => sets_advance_writeReg s d _) rfl rfl
  · exact load _ rfl (by decide) (leavesCache_writeReg d _) (fun _ _ => sets_advance_writeReg s d _)
      (congrArg finish (loadH_eq hd)) (congrArg finish (loadH_eq hd))
  · exact load _ rfl (by decide) (leavesCache_writeReg d _) (fun _ _ => sets_advance_writeReg s d _) rfl rfl
  · exact load _ rfl (by decide) (leavesCache_writeReg d _) (fun _ _ => sets_advance_writeReg s d _)
      (congrArg finish (loadW_eq hd)) (congrArg finish (loadW_eq hd))
  · refine load _ rfl (by decide) (leavesCache_writePair d _) (fun v _ => ?_) (congrArg finish (loadD_eq even nofun))
      (congrArg finish (loadD_eq even allowed))
    rw [← ofNat_high_half, ← ofNat_low_half]
    exact setsPair_advance_writePair s d _ even
  · refine load (fun t v => writeXSingle t d (BitVec.ofNat 32 v)) rfl (by decide) (leavesCache_writeXNarrow d _ _)
      (fun v bound => extended ?_) rfl rfl
    have h := fallsThroughX_writeXSingle s d (BitVec.ofNat 32 v)
    rwa [BitVec.toNat_ofNat, Nat.mod_eq_of_lt (bound.trans_eq (by norm_num))] at h
  · refine load (fun t v => writeXDouble t d (BitVec.ofNat 64 v)) rfl (by decide) (leavesCache_writeXNarrow d _ _)
      (fun v bound => extended ?_) rfl rfl
    have h := fallsThroughX_writeXDouble s d (BitVec.ofNat 64 v)
    rwa [BitVec.toNat_ofNat, Nat.mod_eq_of_lt (bound.trans_eq (by norm_num))] at h
  · refine load (fun t v => writeX t d (BitVec.ofNat 80 (v / 2 ^ 48))) rfl (by decide) (leavesCache_writeX d _)
      (fun v bound => extended ?_) rfl rfl
    have h := fallsThroughX_writeX s d (BitVec.ofNat 80 (v / 2 ^ 48))
    rwa [BitVec.toNat_ofNat, Nat.mod_eq_of_lt (show v / 2 ^ 48 < 2 ^ 80 by omega)] at h
  · exact store rfl (by decide) rfl rfl
  · exact store rfl (by decide) rfl rfl
  · exact store rfl (by decide) rfl rfl
  · have pair : (readPair s d).toNat = pairValue s d := readPair_toNat s d
    rw [← pair]
    exact store rfl (by decide) (congrArg finish (storeD_eq even nofun)) (congrArg finish (storeD_eq even allowed))
  · rw [← extractLsb'_top_toNat (readX s d) (k := 48) (w := 32) rfl]
    exact store rfl (by decide) rfl rfl
  · rw [← extractLsb'_top_toNat (readX s d) (k := 16) (w := 64) rfl]
    exact store rfl (by decide) rfl rfl
  · exact store rfl (by decide) rfl rfl

end Sys2Proof.Machine


/-! ## Address translation -/

namespace Sys2Proof.Machine

/-! ### One descriptor that hits, or none -/

theorem batcMatches_nodup (m : Mmu) (su : Bool) (la : Word) : (batcMatches m su la).Nodup :=
  (List.nodup_finRange 8).filter _

theorem patcMatches_nodup (m : Mmu) (su : Bool) (la : Word) : (patcMatches m su la).Nodup :=
  (List.nodup_finRange 32).filter _

section
variable {n : Nat} {l : List (Fin n)} (s : State)

/-- A single match is used, and no free value is drawn (21_mmu.md R229, R244). -/
theorem pickOne_single (nodup : l.Nodup) {j : Fin n} (only : ∀ i, i ∈ l ↔ i = j) : pickOne l s = (some j, s) := by
  have same : l.Perm [j] :=
    (List.perm_ext_iff_of_nodup nodup (List.nodup_singleton j)).mpr fun i => (only i).trans List.mem_singleton.symm
  rw [List.perm_singleton.mp same, pickOne]

theorem pickOne_nothing (nothing : ∀ i, i ∉ l) : pickOne l s = (none, s) := by
  rw [List.eq_nil_iff_forall_not_mem.mpr nothing, pickOne]

end

/-! ### Physical addresses -/

/-- A page address with twelve bits below it. -/
theorem page_or_low (v : Word) (y : BitVec 12) :
    (v &&& 0xFFFFF000#32) ||| y.setWidth 32 = v.extractLsb' 12 20 ++ y := by
  refine BitVec.eq_of_getLsbD_eq fun i hi => ?_
  rw [BitVec.getLsbD_or, and_lit_bit (p := (12 ≤ ·)) (by decide) v hi, BitVec.getLsbD_setWidth, BitVec.getLsbD_append,
    BitVec.getLsbD_extractLsb']
  by_cases low : i < 12
  · simp [low, hi]
  · simp [low, hi, show 12 ≤ i by omega, show i - 12 < 20 by omega, show 12 + (i - 12) = i by omega]

/-- The page of the descriptor, the offset of the logical address (21_mmu.md R241). -/
theorem patcPa_eq (la : Word) (e : PatcEntry) : patcPa la e = e.lower.extractLsb' 12 20 ++ la.extractLsb' 0 12 := by
  have offset : la &&& 0x00000FFF#32 = (la.extractLsb' 0 12).setWidth 32 := by
    rw [← BitVec.toNat_inj]
    refine (and_lowMask_toNat la (k := 12) (by decide)).trans ?_
    rw [BitVec.toNat_setWidth, BitVec.extractLsb'_toNat]
    omega
  rw [patcPa, offset, page_or_low]

/-- The bits that the size mask leaves untranslated come from the logical address, those above them from the descriptor
(21_mmu.md R227). -/
theorem batcPa_toNat {k : Nat} (hk : k ≤ 7) (la : Word) (e : BatcEntry) :
    (batcPa k la e).toNat = e.port.toNat / 64 % 8192 / 2 ^ k * 2 ^ (19 + k) + la.toNat % 2 ^ (19 + k) := by
  have lowMask : ~~~((0xFFFFFFFF#32 >>> (19 + k)) <<< (19 + k)) = BitVec.ofNat 32 (2 ^ (19 + k) - 1) := by
    interval_cases k <;> rfl
  have field : (e.port.extractLsb' 6 13).toNat = e.port.toNat / 64 % 8192 := by
    rw [BitVec.extractLsb'_toNat, Nat.shiftRight_eq_div_pow]
  have base : ((e.port.extractLsb' 6 13).setWidth 32 <<< 19).toNat = e.port.toNat / 64 % 8192 * 2 ^ 19 := by
    rw [BitVec.toNat_shiftLeft, BitVec.toNat_setWidth, field, Nat.shiftLeft_eq]
    omega
  have block : (e.port.toNat / 64 % 8192 * 2 ^ 19) / 2 ^ (19 + k) = e.port.toNat / 64 % 8192 / 2 ^ k := by
    rw [pow_add, Nat.mul_comm, Nat.mul_div_mul_left _ _ (by decide)]
  have fits : e.port.toNat / 64 % 8192 / 2 ^ k * 2 ^ (19 + k) < 2 ^ 32 := by
    have := Nat.div_mul_le_self (e.port.toNat / 64 % 8192) (2 ^ k)
    rw [pow_add, Nat.mul_comm (2 ^ 19), ← Nat.mul_assoc]
    omega
  rw [batcPa, lowMask, BitVec.toNat_or, and_lowMask_toNat la (by omega), BitVec.toNat_shiftLeft,
    BitVec.toNat_ushiftRight, base, Nat.shiftRight_eq_div_pow, block, Nat.shiftLeft_eq, Nat.mod_eq_of_lt fits,
    ← Nat.shiftLeft_eq, Nat.shiftLeft_add_eq_or_of_lt (Nat.mod_lt _ (by positivity))]

/-! ### The translation chosen (21_mmu.md R223) -/

/-- A hit on a protected page or block faults a write (R228, R242). -/
theorem applyHit_protected {write : Bool} {x : Xlate} (h : write = true ∧ x.attr.wp = true) (s : State) :
    applyHit write x s = .fail protectFault s := by
  rw [applyHit, if_pos]
  rwa [Bool.and_eq_true]

theorem applyHit_open {write : Bool} {x : Xlate} (h : ¬ (write = true ∧ x.attr.wp = true)) (s : State) :
    applyHit write x s = .ok x s := by
  rw [applyHit, if_neg]
  rwa [Bool.and_eq_true]

section
variable {side : Side} {su write : Bool} {la : Word} {s : State}

theorem translatePage_hit {j : Fin 32} (only : ∀ i, i ∈ patcMatches (mmuOf side s) su la ↔ i = j) :
    translatePage side su write la s
      = applyHit write ⟨patcPa la (mmuOf side s).patc[j], patcAttr (mmuOf side s).patc[j]⟩ s := by
  simp [translatePage, pickOne_single s (patcMatches_nodup _ _ _) only]

/-- A page miss under software table search (R243). -/
theorem translatePage_miss (noPage : ∀ i, i ∉ patcMatches (mmuOf side s) su la)
    (software : ctlHten (mmuOf side s).ctl = false) :
    translatePage side su write la s = .fail (missFault side write) s := by
  simp [translatePage, pickOne_nothing s noPage, translateMiss, software]

theorem translate_off (off : s.env.dbug = true ∨ ctlMen (mmuOf side s).ctl = false) :
    translate side su write la s = .ok (identity (mmuOf side s) su la) s := by
  have disabled : (s.env.dbug || !ctlMen (mmuOf side s).ctl) = true := by simpa using off
  exact if_pos disabled

section
variable (enabled : s.env.dbug = false ∧ ctlMen (mmuOf side s).ctl = true)
include enabled

theorem translate_block {j : Fin 8} (only : ∀ i, i ∈ batcMatches (mmuOf side s) su la ↔ i = j) :
    let m := mmuOf side s
    translate side su write la s
      = applyHit write ⟨batcPa (blockBits (ctlMask m.ctl)) la m.batc[j], batcAttr m.batc[j]⟩ s := by
  simp [translate, enabled, pickOne_single s (batcMatches_nodup _ _ _) only]

theorem translate_noBlock (noBlock : ∀ i, i ∉ batcMatches (mmuOf side s) su la) :
    translate side su write la s = if areaTe (areaOf (mmuOf side s) su) then translatePage side su write la s
      else .ok (identity (mmuOf side s) su la) s := by
  simp [translate, enabled, pickOne_nothing s noBlock]

end

end

/-- Settles O51: in each mode the translation is the identity, the one descriptor that hits, or the miss. -/
theorem translationModes : Obligations.TranslationModes := by
  unfold Obligations.TranslationModes
  intro side su write la k s m on block page isIdentity protected_
  have identical : isIdentity (.ok (identity m su la) s) := ⟨_, rfl, rfl, rfl, rfl, rfl, rfl⟩
  have isProtected : protected_ (.fail protectFault s) := ⟨_, rfl, rfl, rfl⟩
  have running (enabled : on) : s.env.dbug = false ∧ ctlMen m.ctl = true := by
    obtain ⟨dbug, men, -, -⟩ := enabled
    exact ⟨dbug, men⟩
  have legalBits (enabled : on) : k ≤ 7 ∧ blockBits (ctlMask m.ctl) = k := by
    obtain ⟨-, -, bound, mask⟩ := enabled
    exact ⟨bound, blockBits_of_mask bound mask⟩
  have blockIff (enabled : on) (i : Fin 8) : i ∈ batcMatches m su la ↔ block m.batc[i] := by
    obtain ⟨-, bits⟩ := legalBits enabled
    rw [mem_batcMatches, bits]
    exact batcHits_iff
  have pageIff (i : Fin 32) : i ∈ patcMatches m su la ↔ page m.patc[i] := mem_patcMatches.trans patcHits_iff
  have unblocked (enabled : on) (noBlock : ∀ i : Fin 8, ¬ block m.batc[i]) :
      translate side su write la s = if areaTe (areaOf m su) then translatePage side su write la s
        else .ok (identity m su la) s :=
    translate_noBlock (running enabled) fun i hit => noBlock i ((blockIff enabled i).mp hit)
  refine ⟨fun off => ?_, fun enabled noBlock noPages => ?_, fun enabled j only => ?_, fun enabled noBlock pages =>
    ⟨fun j only => ?_, fun noPage software => ?_⟩⟩
  · rwa [translate_off off]
  · rwa [unblocked enabled noBlock, noPages]
  · have hit := translate_block (write := write) (running enabled) fun i => (blockIff enabled i).trans (only i)
    rw [hit]
    split
    · next h => rwa [applyHit_protected h]
    · next h =>
      obtain ⟨bound, bits⟩ := legalBits enabled
      have address := batcPa_toNat bound la m.batc[j]
      have offset : la.toNat % 2 ^ (19 + k) < 2 ^ (19 + k) := Nat.mod_lt _ (by positivity)
      refine ⟨_, applyHit_open h s, ?_, ?_, rfl⟩
      · rw [bits, address, Nat.mul_comm, Nat.mul_add_div (by positivity), Nat.div_eq_of_lt offset, Nat.add_zero]
      · rw [bits, address, Nat.mul_comm, Nat.mul_add_mod, Nat.mod_mod]
  · have hit := translatePage_hit (write := write) fun i => (pageIff i).trans (only i)
    rw [unblocked enabled noBlock, if_pos pages, hit]
    split
    · next h => rwa [applyHit_protected h]
    · next h => exact ⟨_, applyHit_open h s, patcPa_eq la _, rfl, rfl, rfl, rfl⟩
  · rw [unblocked enabled noBlock, if_pos pages,
      translatePage_miss (fun i hit => noPage i ((pageIff i).mp hit)) software]
    exact ⟨_, rfl, rfl, by cases side <;> rfl⟩

end Sys2Proof.Machine


/-! ## The hardware table search -/

namespace Sys2Proof.Machine

/-! ### Descriptors -/

/-- The address of a descriptor: its table, its number, a whole word (21_mmu.md R250). -/
theorem descriptorAddress_eq (v : Word) (x : BitVec 10) :
    (v &&& 0xFFFFF000#32) ||| (x.setWidth 32 <<< 2) = v.extractLsb' 12 20 ++ x ++ 0#2 := by
  have number : x.setWidth 32 <<< 2 = (x ++ 0#2).setWidth 32 := by
    have bounded := x.isLt
    rw [← BitVec.toNat_inj, BitVec.toNat_setWidth, toNat_append_zero, BitVec.toNat_shiftLeft, BitVec.toNat_setWidth,
      Nat.shiftLeft_eq]
    omega
  rw [number, page_or_low, BitVec.append_assoc]
  rfl

/-- The number of the segment that holds a logical address. -/
theorem segmentNumber_eq (la : Word) : la >>> 22 = (la.extractLsb' 22 10).setWidth 32 := by
  have bounded := la.isLt
  rw [← BitVec.toNat_inj, BitVec.toNat_ushiftRight, BitVec.toNat_setWidth, BitVec.extractLsb'_toNat,
    Nat.shiftRight_eq_div_pow]
  omega

/-- A descriptor in plain memory is fetched by one transaction when nothing comes from outside. -/
theorem readDescriptor_plain {s : State} (idle : s.script = Script.idle) {a : Word} (memory : plainAt s a = true)
    (side : Side) (user : BitVec 2) :
    readDescriptor side user a s = (some (readWordBE s a), logTxn s (descriptorTxn side user a)) := by
  have once : s.script.ends.length = 0 := by rw [idle]; rfl
  have second : a + 1#32 + 1#32 = a + 2#32 := BitVec.add_assoc ..
  have third : a + 2#32 + 1#32 = a + 3#32 := BitVec.add_assoc ..
  have read := busReadAt_plain idle (x := descriptorTxn side user a) memory a 4
  simp only [readBytes, second, third] at read
  simp only [readDescriptor, arbitrate_idle idle, once, readAgain, busRead]
  rw [show (descriptorTxn side user a).addr = a from rfl, read]
  rfl

/-! ### The entry that is loaded -/

theorem flag_bit (b : Bool) (c : Word) (i : Nat) : (if b then c else 0#32).getLsbD i = (b && c.getLsbD i) := by
  cases b <;> simp

/-- The upper word of the entry: the page of the logical address, S/U (12_cache_mmu_state.md R104). -/
theorem searchEntry_upper (su : Bool) (la : Word) (acc : Attr) (pd : Word) :
    (searchEntry su la acc pd).upper = la.extractLsb' 12 20 ++ (if su then 0x40#12 else 0#12) := by
  rw [← page_or_low]
  cases su <;> rfl

/-- The bits of the entry's lower word: the page and U1, U0 of the descriptor, the attributes gathered, and V. -/
theorem searchEntry_lower_bit (su : Bool) (la : Word) (acc : Attr) (pd : Word) {i : Nat} (hi : i < 32) :
    (searchEntry su la acc pd).lower.getLsbD i = ((decide (10 ≤ i) && pd.getLsbD i) || (acc.wt && decide (i = 9))
      || (acc.g && decide (i = 7)) || (acc.ci && decide (i = 6)) || (acc.wp && decide (i = 2)) || decide (i = 0)) := by
  have high := and_lit_bit (p := (10 ≤ ·)) (c := 0xFFFFFC00#32) (by decide) pd hi
  have b9 : (0x200#32 : Word).getLsbD i = decide (i = 9) := getLsbD_twoPow_lit 9 i (by decide)
  have b7 : (0x80#32 : Word).getLsbD i = decide (i = 7) := getLsbD_twoPow_lit 7 i (by decide)
  have b6 : (0x40#32 : Word).getLsbD i = decide (i = 6) := getLsbD_twoPow_lit 6 i (by decide)
  have b2 : (0x4#32 : Word).getLsbD i = decide (i = 2) := getLsbD_twoPow_lit 2 i (by decide)
  have b0 : (1#32 : Word).getLsbD i = decide (i = 0) := getLsbD_twoPow_lit 0 i (by decide)
  simp only [searchEntry, BitVec.getLsbD_or, high, flag_bit, b9, b7, b6, b2, b0]

theorem searchEntry_page (su : Bool) (la : Word) (acc : Attr) (pd : Word) :
    (searchEntry su la acc pd).lower.extractLsb' 12 20 = pd.extractLsb' 12 20 := by
  refine BitVec.eq_of_getLsbD_eq fun i hi => ?_
  rw [BitVec.getLsbD_extractLsb', BitVec.getLsbD_extractLsb', searchEntry_lower_bit su la acc pd (by omega)]
  simp [show 10 ≤ 12 + i by omega, show ¬ 12 + i = 9 by omega, show ¬ 12 + i = 7 by omega, show ¬ 12 + i = 6 by omega,
    show ¬ 12 + i = 2 by omega]

/-! ### The search -/

section
variable {side : Side} {su write : Bool} {la pd : Word} {s : State}

/-- What a successful search leaves: the entry that the FIFO pointer names is replaced, and the pointer moves on. -/
def searchLoaded (side : Side) (e : PatcEntry) (s : State) : State :=
  setMmu side s { mmuOf side s with
    patc := (mmuOf side s).patc.set (mmuOf side s).fifo.val e (mmuOf side s).fifo.isLt
    fifo := (mmuOf side s).fifo + 1 }

/-- The SP test of a descriptor that is open to the access. -/
theorem passes_sp (isOpen : su = false → pd.getLsbD 8 = false) : ¬ (!su && pd.getLsbD 8) = true := by
  cases su
  · rw [isOpen rfl]; decide
  · exact Bool.false_ne_true

theorem searchLoad_open (isOpen : su = false → pd.getLsbD 8 = false) (acc : Attr) (pda : Word) :
    searchLoad side su write la acc pd pda s
      = .ok (searchEntry su la acc pd) (searchLoaded side (searchEntry su la acc pd) s) :=
  if_neg (passes_sp isOpen)

theorem searchPage_plain (idle : s.script = Script.idle) {pda : Word} (memory : plainAt s pda = true)
    (valid : (readWordBE s pda).extractLsb' 0 2 = 1#2) (isOpen : su = false → (readWordBE s pda).getLsbD 8 = false)
    (user : BitVec 2) (acc : Attr) :
    let e := searchEntry su la (descriptorBits acc (readWordBE s pda)) (readWordBE s pda)
    searchPage side su write la user acc pda s
      = .ok e (searchLoaded side e (logTxn s (descriptorTxn side user pda))) := by
  simp only [searchPage, readDescriptor_plain idle memory, valid]
  exact searchLoad_open isOpen _ pda

/-- The attributes gathered from the area, the segment and the page descriptor (21_mmu.md R251). -/
def searchAttr (area sd pd : Word) : Attr := descriptorBits (descriptorBits (areaAttr area) sd) pd

/-- The search through two valid descriptors in plain memory, both open to the access (21_mmu.md R250). -/
theorem tableSearch_plain (idle : s.script = Script.idle) {sda pda : Word}
    (hsda : sda = (areaOf (mmuOf side s) su).extractLsb' 12 20 ++ la.extractLsb' 22 10 ++ 0#2)
    (hpda : pda = (readWordBE s sda).extractLsb' 12 20 ++ la.extractLsb' 12 10 ++ 0#2)
    (segment : plainAt s sda = true) (page : plainAt s pda = true) (segmentValid : (readWordBE s sda).getLsbD 0 = true)
    (pageValid : (readWordBE s pda).extractLsb' 0 2 = 1#2)
    (segmentOpen : su = false → (readWordBE s sda).getLsbD 8 = false)
    (pageOpen : su = false → (readWordBE s pda).getLsbD 8 = false) :
    let area := areaOf (mmuOf side s) su
    let e := searchEntry su la (searchAttr area (readWordBE s sda) (readWordBE s pda)) (readWordBE s pda)
    tableSearch side su write la s = .ok e (searchLoaded side e
      (logTxn (logTxn s (descriptorTxn side (areaUser area) sda)) (descriptorTxn side (areaUser area) pda))) := by
  have next (x : BusTxn) := searchPage_plain (side := side) (write := write) (la := la) (s := logTxn s x) idle page
    pageValid pageOpen
  simp only [tableSearch, segmentNumber_eq, descriptorAddress_eq, ← hsda, readDescriptor_plain idle segment,
    segmentValid, Bool.not_true, Bool.false_eq_true, if_false, passes_sp segmentOpen, ← hpda]
  exact next _ _ _

theorem mmuOf_logTxn (x : BusTxn) : mmuOf side (logTxn s x) = mmuOf side s := by cases side <;> rfl

theorem searchLoaded_mem (e : PatcEntry) : (searchLoaded side e s).mem = s.mem := by cases side <;> rfl

theorem searchLoaded_patc (e : PatcEntry) (j : Fin 32) :
    (mmuOf side (searchLoaded side e s)).patc[j] = if j = (mmuOf side s).fifo then e else (mmuOf side s).patc[j] := by
  rw [searchLoaded, mmuOf_setMmu]
  simp only [Fin.getElem_fin, Vector.getElem_set, Fin.ext_iff, eq_comm]

theorem searchLoaded_fifo (e : PatcEntry) : (mmuOf side (searchLoaded side e s)).fifo = (mmuOf side s).fifo + 1 := by
  rw [searchLoaded, mmuOf_setMmu]

end

/-- Settles O52: two descriptor fetches from plain memory, then the entry at the FIFO pointer is replaced. -/
theorem tableSearchLoadsThePage : Obligations.TableSearchLoadsThePage := by
  unfold Obligations.TableSearchLoadsThePage
  intro side su write la s m sda sd pda pd segment page idle segmentValid pageValid isOpen
  have found := tableSearch_plain (write := write) idle rfl rfl segment page segmentValid pageValid
    (fun user => (isOpen user).1) (fun user => (isOpen user).2)
  have lower {i : Nat} (hi : i < 32) := searchEntry_lower_bit su la (searchAttr (areaOf m su) sd pd) pd hi
  refine ⟨_, _, found, ?_, ?_, searchEntry_page .., ?_, fun i hi => ?_, ?_, fun j => ?_, ?_,
    readByte_congr (searchLoaded_mem _)⟩
  · rw [searchEntry_upper, slice_high _ _ _ _ (le_refl 12)]
    exact slice_all _
  · rw [searchEntry_upper, BitVec.getLsbD_append]
    cases su <;> rfl
  · rw [lower (by decide)]
    exact Bool.or_true _
  · simp only [List.mem_cons, List.not_mem_nil, or_false] at hi
    rcases hi with rfl | rfl | rfl
    all_goals
      rw [lower (by decide)]
      simp [searchAttr, descriptorBits, areaAttr]
  · rw [lower (by decide)]; simp [searchAttr, descriptorBits, areaAttr]
  · rw [searchLoaded_patc, mmuOf_logTxn, mmuOf_logTxn]
  · rw [searchLoaded_fifo, mmuOf_logTxn, mmuOf_logTxn]

end Sys2Proof.Machine


/-! ## Data breakpoints -/

namespace Sys2Proof.Machine

/-! ### Which accesses a breakpoint matches -/

/-- Both words agree in every bit that the mask does not exclude. -/
theorem xor_and_not_eq_zero {a b mask : Word} :
    (a ^^^ b) &&& ~~~mask = 0#32 ↔ ∀ j, j < 32 → mask.getLsbD j = true ∨ b.getLsbD j = a.getLsbD j := by
  have bit {j : Nat} (hj : j < 32) : ((a ^^^ b) &&& ~~~mask).getLsbD j = false
      ↔ mask.getLsbD j = true ∨ b.getLsbD j = a.getLsbD j := by
    rw [BitVec.getLsbD_and, BitVec.getLsbD_xor, BitVec.getLsbD_not, decide_eq_true hj, Bool.true_and,
      Bool.and_eq_false_iff, Bool.not_eq_false', or_comm, eq_comm (a := b.getLsbD j)]
    exact or_congr_right bne_eq_false_iff_eq
  refine ⟨fun h j hj => (bit hj).mp (by rw [h, BitVec.getLsbD_zero]), fun h => ?_⟩
  refine BitVec.eq_of_getLsbD_eq fun j hj => ?_
  rw [(bit hj).mpr (h j hj), BitVec.getLsbD_zero]

/-- A breakpoint matches by space, by direction, and by the address bits that its control word does not exclude
(21_mmu.md R260). -/
theorem breakpointHits_iff {b : Breakpoint} {su write : Bool} {la : Word} : breakpointHits b su write la = true ↔
    (b.control.getLsbD 14 = true ∨ b.control.getLsbD 15 = su)
      ∧ (b.control.getLsbD 12 = true ∨ b.control.getLsbD 13 = !write)
      ∧ ∀ j, j < 32 → (j < 12 ∧ b.control.getLsbD j = true) ∨ la.getLsbD j = b.lba.getLsbD j := by
  have excluded {j : Nat} (hj : j < 32) :
      (b.control &&& 0x00000FFF#32).getLsbD j = true ↔ j < 12 ∧ b.control.getLsbD j = true := by
    rw [and_lit_bit (p := (· < 12)) (by decide) b.control hj, Bool.and_eq_true, decide_eq_true_eq]
  have address := xor_and_not_eq_zero (a := b.lba) (b := la) (mask := b.control &&& 0x00000FFF#32)
  simp only [breakpointHits, Bool.and_eq_true, Bool.or_eq_true, beq_iff_eq, and_assoc, address]
  exact and_congr_right' (and_congr_right' (forall₂_congr fun j hj => or_congr_left (excluded hj)))

section
variable {s : State} {su write : Bool} {la : Word}

/-- A match stops the access before its translation (R261). -/
theorem dataAddress_breakpoint (h : breakpointMatch s su write la = true) :
    dataAddress su write la s = .fail (breakpointFault write) s := if_pos h

/-! ### What the exception records -/

/-- The state in which the exception of a data breakpoint is entered. -/
def breakpointRecorded (su write : Bool) (la : Word) (s : State) : State :=
  recordFault .data su la (breakpointFault write) s

/-- One bit of a word written both ways. -/
theorem writeBit_bit {one others : Word} {k : Nat} (hone : ∀ j : Fin 32, one.getLsbD j.val = decide (j.val = k))
    (hothers : ∀ j : Fin 32, others.getLsbD j.val = decide (j.val ≠ k)) (b : Bool) (v : Word) {j : Nat} (hj : j < 32) :
    (if b then v ||| one else v &&& others).getLsbD j = if j = k then b else v.getLsbD j := by
  have kept := and_lit_bit (p := (· ≠ k)) hothers v hj
  have written : one.getLsbD j = decide (j = k) := hone ⟨j, hj⟩
  simp only [apply_ite (BitVec.getLsbD · j), BitVec.getLsbD_or, kept, written]
  by_cases h : j = k
  · cases b <;> simp [h]
  · simp [h]

/-- BPE is set, S/U and R/W describe the access, the other bits of DSR stay (12_cache_mmu_state.md R107). -/
theorem statusAfter_breakpoint_bit (su write : Bool) (old : Word) {j : Nat} (hj : j < 32) :
    (statusAfter .data su (breakpointFault write) old).getLsbD j
      = if j = 16 then true else if j = 7 then su else if j = 6 then !write else old.getLsbD j := by
  have space := writeBit_bit (k := 7) (one := 0x80#32) (others := 0xFFFFFF7F#32) (by decide) (by decide) su old hj
  have direction := writeBit_bit (k := 6) (one := 0x40#32) (others := 0xFFFFFFBF#32) (by decide) (by decide) (!write)
    (if su then old ||| 0x80#32 else old &&& 0xFFFFFF7F#32) hj
  have mark : bitBpe.getLsbD j = decide (j = 16) := getLsbD_twoPow_lit 16 j (by decide)
  have parts : statusAfter .data su (breakpointFault write) old
      = (if !write then (if su then old ||| 0x80#32 else old &&& 0xFFFFFF7F#32) ||| 0x40#32
        else (if su then old ||| 0x80#32 else old &&& 0xFFFFFF7F#32) &&& 0xFFFFFFBF#32) ||| bitBpe := by
    cases write <;> rfl
  rw [parts, BitVec.getLsbD_or, direction, space, mark]
  by_cases h16 : j = 16
  · simp [h16]
  · by_cases h6 : j = 6
    · simp [h6]
    · simp [h16, h6]

/-- With PSR.EFRZ 0 the data unit's status and address registers are written, and nothing else of the machine. -/
theorem breakpointRecorded_open (h : psrEfrz s = false) (su write : Bool) (la : Word) :
    breakpointRecorded su write la s = { s with
      draws := s.draws + 2
      dmu := { s.dmu with
        status := statusAfter .data su (breakpointFault write) s.dmu.status, lar := la
        par := Config.freeWord (s.draws + 1) } } := by
  simp only [breakpointRecorded, recordFault, h]
  rfl

/-- The data access exception of a breakpoint, its registers recorded unless PSR.EFRZ freezes them (60_exceptions.md
R746, R750). -/
def BreakpointEntered (su write : Bool) (la : Word) (s t : State) : Prop :=
  if psrEfrz s then Enters 3#9 s t
  else ∃ m : Mmu, Enters 3#9 { s with dmu := m, draws := t.draws } t
    ∧ m = { s.dmu with status := m.status, lar := la, par := m.par }
    ∧ ∀ j, j < 32 → m.status.getLsbD j =
        if j = 16 then true else if j = 7 then su else if j = 6 then !write else s.dmu.status.getLsbD j

theorem breakpointEntered_takeException (su write : Bool) (la : Word) (s : State) :
    BreakpointEntered su write la s (takeException .dataAccess (breakpointRecorded su write la s)) := by
  have entered := enters_takeException .dataAccess (breakpointRecorded su write la s)
  unfold BreakpointEntered
  split
  · next frozen =>
    rw [breakpointRecorded, recordFault_frozen .data su la (breakpointFault write) frozen] at entered ⊢
    exact entered
  · next notFrozen =>
    rw [breakpointRecorded_open (Bool.eq_false_of_not_eq_true notFrozen)] at entered ⊢
    exact ⟨_, entered, rfl, fun j hj => statusAfter_breakpoint_bit su write s.dmu.status hj⟩

/-! ### Every kind of access is stopped -/

/-- An access that a matching breakpoint stops, whatever it would go on to do: the part of an instruction that makes it
traps at its aligned address. -/
def StoppedByBreakpoint (s : State) (write usr : Bool) (n : Nat) (ea : Word) (r : Res Unit) : Prop :=
  ∀ la, alignAddr s n ea = some la → breakpointMatch s (spaceOf s usr) write la = true →
    r = .trap .dataAccess (breakpointRecorded (spaceOf s usr) write la s)

section
variable {usr : Bool} (allowed : usr = true → psrMode s = true) (n : Nat) (ea : Word)
include allowed

theorem loadInto_stopped (put : State → Nat → State) :
    StoppedByBreakpoint s false usr n ea (loadInto usr n ea put s) := by
  intro la ha hit
  simp only [loadInto, loadValue, usrViolation_eq_false allowed, Bool.false_eq_true, if_false, ha, readAt,
    dataAddress_breakpoint hit]
  rfl

theorem storeValue_stopped (wt : Bool) (v : Nat) :
    StoppedByBreakpoint s true usr n ea (storeValue usr wt n ea v s) := by
  intro la ha hit
  simp only [storeValue, usrViolation_eq_false allowed, Bool.false_eq_true, if_false, ha, writeAt,
    dataAddress_breakpoint hit]
  rfl

theorem exchangeReg_stopped (d : RegNum) : StoppedByBreakpoint s true usr n ea (exchangeReg d usr n ea s) := by
  intro la ha hit
  simp only [exchangeReg, exchangeAt, usrViolation_eq_false allowed, Bool.false_eq_true, if_false, ha,
    dataAddress_breakpoint hit]
  rfl

/-- ld of r0 is the flush load, which is stopped like any other access (45_load_store.md R621). -/
theorem loadW_stopped (d : RegNum) : StoppedByBreakpoint s false usr 4 ea (loadW d usr ea s) := by
  by_cases hd : d = 0#5
  · intro la ha hit
    simp only [loadW, hd, if_true, flushLoad, usrViolation_eq_false allowed, Bool.false_eq_true, if_false, ha,
      dataAddress_breakpoint hit]
    rfl
  · rw [loadW_eq hd]
    exact loadInto_stopped allowed 4 ea _

end

end

/-- Settles O53: every form is a load, a store or an exchange at its aligned address, which the match stops. -/
theorem breakpointStopsTheAccess : Obligations.BreakpointStopsTheAccess := by
  unfold Obligations.BreakpointStopsTheAccess
  intro s d s1 s2 scaled usr wt imm dbug allowed matches_ stops both
  have stop {write opt : Bool} {n : Nat} {ea : Word} {i : Instr} {r : Res Unit}
      (stopped : StoppedByBreakpoint s write opt n ea r) (executed : exec i s = finish r) :
      stops write (spaceOf s opt) n ea i := by
    intro la ha armed
    have hit : breakpointMatch s (spaceOf s opt) write la = true := by
      simp only [breakpointMatch, dbug, Bool.not_false, Bool.true_and, Bool.or_eq_true, Bool.and_eq_true,
        breakpointHits_iff]
      exact armed
    exact ⟨_, executed.trans (congrArg finish (stopped la ha hit)), breakpointEntered_takeException _ write la s⟩
  have forms {write : Bool} {n k : Nat} {iImm iReg : Instr} {rImm rReg : Res Unit}
      (hImm : exec iImm s = finish rImm) (hReg : exec iReg s = finish rReg)
      (stoppedImm : StoppedByBreakpoint s write false n (eaImm s s1 imm) rImm)
      (stoppedReg : StoppedByBreakpoint s write usr n (eaReg s s1 s2 scaled k) rReg) : both write n k iImm iReg := by
    have viaImm := stop stoppedImm hImm
    have viaReg := stop stoppedReg hReg
    rw [spaceOf_false] at viaImm
    rw [spaceOf_eq] at viaReg
    exact ⟨viaImm, viaReg⟩
  have load {n k : Nat} {iImm iReg : Instr} (put : State → Nat → State)
      (hImm : exec iImm s = finish (loadInto false n (eaImm s s1 imm) put s))
      (hReg : exec iReg s = finish (loadInto usr n (eaReg s s1 s2 scaled k) put s)) : both false n k iImm iReg :=
    forms hImm hReg (loadInto_stopped (usr := false) nofun n _ put) (loadInto_stopped allowed n _ put)
  have store {n k v : Nat} {iImm iReg : Instr}
      (hImm : exec iImm s = finish (storeValue false false n (eaImm s s1 imm) v s))
      (hReg : exec iReg s = finish (storeValue usr wt n (eaReg s s1 s2 scaled k) v s)) : both true n k iImm iReg :=
    forms hImm hReg (storeValue_stopped (usr := false) nofun n _ false v) (storeValue_stopped allowed n _ wt v)
  have exchange {n : Nat} {ea : Word} {i : Instr} (executed : exec i s = finish (exchangeReg d usr n ea s)) :
      stops true (psrMode s && !usr) n ea i := by
    rw [← spaceOf_eq]
    exact stop (exchangeReg_stopped allowed n ea d) executed
  refine ⟨fun hd => ⟨?_, ?_⟩, load _ rfl rfl, load _ rfl rfl, ?_, fun even => ⟨?_, ?_⟩, load _ rfl rfl,
    load _ rfl rfl, load _ rfl rfl, store rfl rfl, store rfl rfl, store rfl rfl, store rfl rfl, store rfl rfl,
    store rfl rfl, exchange rfl, exchange rfl⟩
  · exact load _ (congrArg finish (loadB_eq hd)) (congrArg finish (loadB_eq hd))
  · exact load _ (congrArg finish (loadH_eq hd)) (congrArg finish (loadH_eq hd))
  · exact forms rfl rfl (loadW_stopped (usr := false) nofun _ d) (loadW_stopped allowed _ d)
  · exact load _ (congrArg finish (loadD_eq even nofun)) (congrArg finish (loadD_eq even allowed))
  · exact store (congrArg finish (storeD_eq even nofun)) (congrArg finish (storeD_eq even allowed))

end Sys2Proof.Machine


/-! ## Copybacks to plain memory -/

namespace Sys2Proof.Machine

/-- A line of data has been written to memory at the address line: its bytes stand there, every other byte is as before,
and only memory and the bus log may differ (22_caches.md R332). -/
structure CopiedBack (line : Word) (d : Vector Byte 32) (s t : State) : Prop where
  frame : t = { s with mem := t.mem, busLog := t.busLog }
  canonical : Memory.wf t.mem = true
  bytes : ∀ k : Fin 32, readByte t (line + BitVec.ofNat 32 k.val) = d[k]
  others : ∀ b : Word, 32 ≤ (b - line).toNat → readByte t b = readByte s b

/-- A byte that is 32 or more bytes above the start of a line is outside it. -/
theorem lineAddr_ne_of_far {a b : Word} (far : 32 ≤ (b - lineAddr a).toNat) : lineAddr b ≠ lineAddr a := by
  have line := lineAddr_toNat a
  rw [ne_eq, lineAddr_eq_iff]
  rw [BitVec.toNat_sub, line] at far
  omega

section
variable {s : State} {a : Word} {way : Bool}

/-- A copyback of all four double words to plain memory (80_bus_platform.md R882, R883). -/
theorem copyback_plain (idle : s.script = Script.idle) (board : s.env.regions = []) (wf : Memory.wf s.mem = true)
    (tc : BitVec 4) (tsiz : BitVec 2) {order : List Nat} (within : ∀ j ∈ order, j < 4) (complete : ∀ j < 4, j ∈ order) :
    ∃ t, copyback s a way tc tsiz order = (true, t)
      ∧ CopiedBack (lineAddr (lineAddress (dLine s a way) a)) (dLine s a way).data s t := by
  obtain ⟨ends, bytes⟩ := burstWriteBeats_plain board wf (copybackTxn (lineAddress (dLine s a way) a) tc tsiz way)
    (dLine s a way).data within
  refine ⟨_, by simp only [copyback, burstWrite, takeEnd_idle idle, plain_cut, closeTxn_plain, ends]; rfl, ?_, ?_,
    fun k => ?_, fun b far => ?_⟩
  · rw [burstWriteBeats_eq]; rfl
  · exact burstWriteBeats_wf wf _ _ _
  · refine (readByte_congr (logTxn_mem _ _) _).trans ((bytes k.val k.isLt).trans ?_)
    rw [if_pos (complete _ (by omega)), toList_getD _ k.isLt]
    rfl
  · exact (readByte_congr (logTxn_mem _ _) b).trans
      (readByte_burstWriteBeats_outside (x := copybackTxn (lineAddress (dLine s a way) a) tc tsiz way) wf
        (lineAddr_ne_of_far far) _ within)

/-- A line that holds an address stands for the addresses of that address's line. -/
theorem lineAddress_of_hit (hit : dHit s a = some way) : lineAddress (dLine s a way) a = a := by
  have held := holds_of_dHit hit
  simp only [DLine.holds, Bool.and_eq_true, beq_iff_eq] at held
  rw [← BitVec.toNat_inj, lineAddress_toNat, held.2, tagOf_toNat]
  omega

end

end Sys2Proof.Machine


/-! ## The flush commands -/

namespace Sys2Proof.Machine

/-! ### Places in the data cache -/

/-- The place in the data cache of line way of the set of an address. -/
def lineSlot (a : Word) (way : Bool) : Fin 256 := (lineIndex a way).toFin

/-- The address that the line at place j stands for (12_cache_mmu_state.md R111, R112). -/
def slotLine (s : State) (j : Fin 256) : Word := s.dcache[j].tag ++ BitVec.ofNat 7 (j.val / 2) ++ 0#5

theorem lineSlot_val (a : Word) (way : Bool) : (lineSlot a way).val = (a.extractLsb' 5 7).toNat * 2 + way.toNat := by
  refine (toNat_append_add (a.extractLsb' 5 7) (BitVec.ofBool way)).trans ?_
  rw [BitVec.toNat_ofBool, pow_one]

section
variable {s t : State} {a : Word} {way : Bool}

theorem setDLine_slot (l : DLine) (j : Fin 256) :
    (setDLine s a way l).dcache[j] = if j = lineSlot a way then l else s.dcache[j] := by
  have place : (lineIndex a way).toNat = j.val ↔ j = lineSlot a way := by rw [Fin.ext_iff, eq_comm]; rfl
  simp only [setDLine, Fin.getElem_fin, Vector.getElem_set, place]

/-- Where a flush command looks for set n. -/
theorem lineSlot_set {n : Nat} (hn : n < 128) (way : Bool) :
    (lineSlot (BitVec.ofNat 32 (32 * n)) way).val = 2 * n + way.toNat := by
  rw [lineSlot_val, setOf_toNat, BitVec.toNat_ofNat]
  omega

/-- The places of a set are its two lines. -/
theorem slot_of_set {n : Nat} (hn : n < 128) (j : Fin 256) :
    j.val / 2 = n ↔ j = lineSlot (BitVec.ofNat 32 (32 * n)) false ∨ j = lineSlot (BitVec.ofNat 32 (32 * n)) true := by
  rw [Fin.ext_iff, Fin.ext_iff, lineSlot_set hn, lineSlot_set hn]
  simp only [Bool.toNat_false, Bool.toNat_true]
  omega

/-- The address of a copyback of the line at a place. -/
theorem slotLine_eq (s : State) (a : Word) (way : Bool) :
    slotLine s (lineSlot a way) = lineAddr (lineAddress (dLine s a way) a) := by
  have set : BitVec.ofNat 7 ((lineSlot a way).val / 2) = a.extractLsb' 5 7 := by
    rw [lineSlot_val, ← BitVec.toNat_inj, BitVec.toNat_ofNat]
    have small : way.toNat < 2 := Bool.toNat_lt way
    have bounded := (a.extractLsb' 5 7).isLt
    omega
  rw [slotLine, set]
  exact (victimByte_address (dLine s a way) a 0).trans (BitVec.add_zero _)

theorem slotLine_congr {j : Fin 256} (same : t.dcache[j] = s.dcache[j]) : slotLine t j = slotLine s j := by
  rw [slotLine, slotLine, same]

/-- A byte of one line is outside every other line. -/
theorem slotLine_far {j j' : Fin 256} (other : slotLine t j' ≠ slotLine s j) (k : Fin 32) :
    32 ≤ (slotLine s j + BitVec.ofNat 32 k.val - slotLine t j').toNat := by
  have start (u : State) (i : Fin 256) : (slotLine u i).toNat % 32 = 0 := by
    rw [slotLine, toNat_append_add]
    simp
  have here := start s j
  have there := start t j'
  have offset := k.isLt
  rw [ne_eq, ← BitVec.toNat_inj] at other
  rw [BitVec.toNat_sub, BitVec.toNat_add, BitVec.toNat_ofNat]
  omega

end

/-! ### What a flush does -/

/-- A line that a flush has taken: invalid with inv, else no longer modified (22_caches.md R332). -/
def flushedLine (inv : Bool) (l : DLine) : DLine :=
  { l with
    state := if inv then .invalid else if l.state = .exclusiveModified then .exclusiveUnmodified else l.state }

/-- An invalid line stays as it is. -/
theorem flushedLine_invalid (inv : Bool) {l : DLine} (invalid : l.state = .invalid) : flushedLine inv l = l := by
  obtain ⟨tag, st, d⟩ := l
  subst invalid
  cases inv <;> rfl

theorem flushedLine_modified {l : DLine} (modified : l.state = .exclusiveModified) :
    (flushedLine false l).state = .exclusiveUnmodified := by
  simp only [flushedLine, Bool.false_eq_true, if_false, modified, if_true]

theorem cleanLine_eq (inv : Bool) (s : State) (a : Word) (way : Bool) :
    cleanLine inv s a way = setDLine s a way (flushedLine inv (dLine s a way)) := rfl

/-- A flush of the places given takes the line at place j. -/
def Takes (sel : DLine → Bool) (places : Set (Fin 256)) (s : State) (j : Fin 256) : Prop :=
  j ∈ places ∧ sel s.dcache[j] = true

/-- It takes a modified line there. -/
def Saves (sel : DLine → Bool) (places : Set (Fin 256)) (s : State) (j : Fin 256) : Prop :=
  Takes sel places s j ∧ s.dcache[j].state = .exclusiveModified

/-- A flush of the places given, of the lines there that sel chooses: those are flushed, the modified ones are copied
back (one whose address no other of them has keeps its bytes in memory), and nothing else changes but the bus log. -/
structure Flushes (inv : Bool) (sel : DLine → Bool) (places : Set (Fin 256)) (s t : State) : Prop where
  frame : t = { s with dcache := t.dcache, mem := t.mem, busLog := t.busLog }
  canonical : Memory.wf t.mem = true
  taken : ∀ j, Takes sel places s j → t.dcache[j] = flushedLine inv s.dcache[j]
  left : ∀ j, ¬ Takes sel places s j → t.dcache[j] = s.dcache[j]
  saved : ∀ j, Saves sel places s j → (∀ j', Saves sel places s j' → slotLine s j' = slotLine s j → j' = j) →
    ∀ k : Fin 32, readByte t (slotLine s j + BitVec.ofNat 32 k.val) = s.dcache[j].data[k]
  others : ∀ b, (∀ j, Saves sel places s j → 32 ≤ (b - slotLine s j).toNat) → readByte t b = readByte s b

section
variable {inv : Bool} {sel : DLine → Bool} {p q : Set (Fin 256)} {s t u : State} {a : Word} {way : Bool}

/-- A flush that takes nothing. -/
theorem Flushes.nothing (wf : Memory.wf s.mem = true) (none : ∀ j, ¬ Takes sel p s j) : Flushes inv sel p s s where
  frame := rfl
  canonical := wf
  taken j takes := absurd takes (none j)
  left _ _ := rfl
  saved j saves := absurd saves.1 (none j)
  others _ _ := rfl

/-- Two flushes of different places, one after the other: the second finds its lines as they were. -/
theorem Flushes.trans (h : Flushes inv sel p s t) (k : Flushes inv sel q t u) (apart : Disjoint p q) :
    Flushes inv sel (p ∪ q) s u := by
  have fresh {j : Fin 256} (later : j ∈ q) : t.dcache[j] = s.dcache[j] :=
    h.left j fun takes => Set.disjoint_left.1 apart takes.1 later
  have first {j : Fin 256} (takes : Takes sel p s j) : Takes sel (p ∪ q) s j := ⟨.inl takes.1, takes.2⟩
  have second {j : Fin 256} : Takes sel q t j ↔ j ∈ q ∧ Takes sel (p ∪ q) s j :=
    ⟨fun takes => ⟨takes.1, .inr takes.1, fresh takes.1 ▸ takes.2⟩,
      fun ⟨later, takes⟩ => ⟨later, (fresh later).symm ▸ takes.2⟩⟩
  have secondSaves {j : Fin 256} (saves : Saves sel q t j) : Saves sel (p ∪ q) s j :=
    ⟨(second.1 saves.1).2, fresh saves.1.1 ▸ saves.2⟩
  have keeps {j : Fin 256} (early : j ∈ p) : u.dcache[j] = t.dcache[j] :=
    k.left j fun takes => Set.disjoint_left.1 apart early takes.1
  refine ⟨by rw [k.frame, h.frame], k.canonical, fun j takes => ?_, fun j leaves => ?_, fun j saves only byte => ?_,
    fun b far => ?_⟩
  · obtain ⟨early | later, chosen⟩ := takes
    · rw [keeps early, h.taken j ⟨early, chosen⟩]
    · rw [k.taken j (second.2 ⟨later, .inr later, chosen⟩), fresh later]
  · rw [k.left j fun takes => leaves (second.1 takes).2, h.left j fun takes => leaves (first takes)]
  · obtain ⟨⟨early | later, chosen⟩, modified⟩ := saves
    · rw [k.others, h.saved j ⟨⟨early, chosen⟩, modified⟩ fun j' saves' => only j' ⟨first saves'.1, saves'.2⟩]
      intro j' saves'
      refine slotLine_far (fun same => ?_) byte
      rw [slotLine_congr (fresh saves'.1.1)] at same
      exact Set.disjoint_left.1 apart early (only j' (secondSaves saves') same ▸ saves'.1.1)
    · have alone (j' : Fin 256) (saves' : Saves sel q t j') (same : slotLine t j' = slotLine t j) : j' = j :=
        only j' (secondSaves saves') (by rwa [slotLine_congr (fresh saves'.1.1), slotLine_congr (fresh later)] at same)
      have here := k.saved j ⟨second.2 ⟨later, .inr later, chosen⟩, (fresh later).symm ▸ modified⟩ alone byte
      rwa [slotLine_congr (fresh later), fresh later] at here
  · rw [k.others b fun j saves => slotLine_congr (fresh saves.1.1) ▸ far j (secondSaves saves),
      h.others b fun j saves => far j ⟨first saves.1, saves.2⟩]

/-! ### One line -/

/-- A line that is not modified is at most made invalid. -/
theorem flushOne_clean (clean : (dLine s a way).state ≠ .exclusiveModified) :
    flushOne inv a way s = .ok () (setDLine s a way (flushedLine inv (dLine s a way))) := by
  have same : setDLine s a way (dLine s a way) = s := by simp [setDLine, dLine]
  have kept : (if inv then dInvalidate s a way else s) = setDLine s a way (flushedLine inv (dLine s a way)) := by
    cases inv
    · simp [flushedLine, clean, same]
    · rfl
  cases state : (dLine s a way).state with
  | invalid => simp only [flushOne, state, flushedLine_invalid inv state, same]
  | exclusiveModified => exact absurd state clean
  | sharedUnmodified => simp only [flushOne, state, kept]
  | exclusiveUnmodified => simp only [flushOne, state, kept]

/-- A modified line is copied back first. -/
theorem flushOne_modified (idle : s.script = Script.idle) (board : s.env.regions = []) (wf : Memory.wf s.mem = true)
    (modified : (dLine s a way).state = .exclusiveModified) :
    ∃ u, flushOne inv a way s = .ok () (setDLine u a way (flushedLine inv (dLine s a way)))
      ∧ CopiedBack (slotLine s (lineSlot a way)) (dLine s a way).data s u := by
  obtain ⟨u, copied, saved⟩ := copyback_plain (a := a) (way := way) idle board wf (tcData true) 0#2
    (order := [0, 1, 2, 3]) (by decide) (by decide)
  have line : dLine u a way = dLine s a way := dLine_dcache (by rw [saved.frame]) way
  refine ⟨u, ?_, by rwa [slotLine_eq]⟩
  simp only [flushOne, modified, copied, if_true, cleanLine_eq, line]

/-- The lines after one of them was flushed. -/
theorem dcache_flushed (same : u.dcache = s.dcache) (chosen : sel (dLine s a way) = true) (j : Fin 256) :
    (Takes sel {lineSlot a way} s j → (setDLine u a way (flushedLine inv (dLine s a way))).dcache[j]
        = flushedLine inv s.dcache[j])
      ∧ (¬ Takes sel {lineSlot a way} s j →
        (setDLine u a way (flushedLine inv (dLine s a way))).dcache[j] = s.dcache[j]) := by
  rw [setDLine_slot]
  by_cases here : j = lineSlot a way
  · subst here
    exact ⟨fun _ => if_pos rfl, fun leaves => absurd ⟨rfl, chosen⟩ leaves⟩
  · exact ⟨fun takes => absurd takes.1 here, fun _ => by rw [if_neg here, same]⟩

/-- One line, if sel chooses it. -/
theorem flushWay_plain (idle : s.script = Script.idle) (board : s.env.regions = []) (wf : Memory.wf s.mem = true) :
    ∃ t, flushWay inv sel a way s = .ok () t ∧ Flushes inv sel {lineSlot a way} s t := by
  rw [flushWay, arbitrate_idle idle]
  by_cases chosen : sel (dLine s a way) = true
  · simp only [if_pos chosen]
    by_cases modified : (dLine s a way).state = .exclusiveModified
    · obtain ⟨u, flushed, saved⟩ := flushOne_modified (inv := inv) idle board wf modified
      have lines := dcache_flushed (inv := inv) (u := u) (by rw [saved.frame]) chosen
      refine ⟨_, flushed, by rw [saved.frame]; rfl, saved.canonical, fun j => (lines j).1, fun j => (lines j).2, ?_, ?_⟩
      · rintro j ⟨⟨rfl, -⟩, -⟩ - byte
        exact saved.bytes byte
      · exact fun b far => saved.others b (far _ ⟨⟨rfl, chosen⟩, modified⟩)
    · have lines := dcache_flushed (inv := inv) (u := s) rfl chosen
      refine ⟨_, flushOne_clean modified, rfl, wf, fun j => (lines j).1, fun j => (lines j).2, ?_, fun _ _ => rfl⟩
      rintro j ⟨⟨rfl, -⟩, saves⟩
      exact absurd saves modified
  · refine ⟨s, by simp only [if_neg chosen], .nothing wf ?_⟩
    rintro j ⟨rfl, takes⟩
    exact chosen takes

/-! ### Many lines -/

/-- The places of the sets given. -/
def slotsOf (ns : List Nat) : Set (Fin 256) := { j | j.val / 2 ∈ ns }

theorem slotsOf_cons {n : Nat} (hn : n < 128) (ns : List Nat) :
    slotsOf (n :: ns)
      = {lineSlot (BitVec.ofNat 32 (32 * n)) false} ∪ {lineSlot (BitVec.ofNat 32 (32 * n)) true} ∪ slotsOf ns := by
  ext j
  simp only [slotsOf, Set.mem_ofPred_eq, List.mem_cons, slot_of_set hn, Set.mem_union, Set.mem_singleton_iff]

/-- A flush leaves the setting as it found it. -/
theorem Flushes.plain (h : Flushes inv sel p s t) (idle : s.script = Script.idle) (board : s.env.regions = []) :
    t.script = Script.idle ∧ t.env.regions = [] := by
  rw [h.frame]
  exact ⟨idle, board⟩

/-- The sets given, each once: line 0 and line 1 of the first, then the others (22_caches.md R332, entry 63). -/
theorem flushSets_plain (idle : s.script = Script.idle) (board : s.env.regions = []) (wf : Memory.wf s.mem = true)
    {ns : List Nat} (sets : ∀ n ∈ ns, n < 128) (once : ns.Nodup) :
    ∃ t, flushSets inv sel ns s = .ok () t ∧ Flushes inv sel (slotsOf ns) s t := by
  induction ns generalizing s with
  | nil => exact ⟨s, rfl, .nothing wf fun j takes => List.not_mem_nil takes.1⟩
  | cons n ns ih =>
    have hn : n < 128 := sets n List.mem_cons_self
    obtain ⟨fresh, once⟩ := List.nodup_cons.1 once
    obtain ⟨s1, first, h1⟩ := flushWay_plain (inv := inv) (sel := sel) (a := BitVec.ofNat 32 (32 * n)) (way := false)
      idle board wf
    obtain ⟨idle1, board1⟩ := h1.plain idle board
    obtain ⟨s2, second, h2⟩ := flushWay_plain (inv := inv) (sel := sel) (a := BitVec.ofNat 32 (32 * n)) (way := true)
      idle1 board1 h1.canonical
    obtain ⟨idle2, board2⟩ := h2.plain idle1 board1
    obtain ⟨t, rest, h3⟩ := ih idle2 board2 h2.canonical (fun k hk => sets k (List.mem_cons_of_mem n hk)) once
    refine ⟨t, by simp only [flushSets, first, second, rest], ?_⟩
    rw [slotsOf_cons hn]
    refine (h1.trans h2 ?_).trans h3 ?_
    · rw [Set.disjoint_singleton, ne_eq, Fin.ext_iff, lineSlot_set hn, lineSlot_set hn]
      simp
    · refine Set.disjoint_left.2 fun j here later => fresh ?_
      rw [← (slot_of_set hn j).2 here]
      exact later

end

/-- Settles O27: every command is a flush of sets, each of them once. -/
theorem cacheFlushCommands : Obligations.CacheFlushCommands := by
  unfold Obligations.CacheFlushCommands
  intro s s1 supervisor idle board wf line flushes all page one
  have flush {code : Word} {inv : Bool} {takes : Fin 256 → Prop} {sel : DLine → Bool} {ns : List Nat}
      (command : dataCommand code s = flushed (flushSets inv sel ns s)) (sets : ∀ n ∈ ns, n < 128) (once : ns.Nodup)
      (meaning : ∀ j, Takes sel (slotsOf ns) s j ↔ takes j) : flushes code inv takes := by
    intro held
    obtain ⟨t, ran, done⟩ := flushSets_plain (inv := inv) (sel := sel) idle board wf sets once
    have saves (j : Fin 256) :
        Saves sel (slotsOf ns) s j ↔ takes j ∧ s.dcache[j].state = .exclusiveModified :=
      and_congr_left fun _ => meaning j
    refine does_of_dataCommand supervisor held (u := t) (by rw [command, ran]; rfl) ⟨fun r => ?_, fun j takes => ?_,
      fun j leaves => ?_, fun j saving only byte => ?_, fun b far => ?_, ?_⟩
    · exact readReg_congr (by rw [done.frame]; rfl) r
    · exact done.taken j ((meaning j).2 takes)
    · exact done.left j (mt (meaning j).1 leaves)
    · exact done.saved j ((saves j).2 saving) (fun j' saving' => only j' ((saves j').1 saving')) byte
    · exact done.others b fun j saving => far j ((saves j).1 saving)
    · rw [done.frame]; rfl
  have every (j : Fin 256) : j ∈ slotsOf (List.range 128) := List.mem_range.2 (by omega)
  have range : ∀ n ∈ List.range 128, n < 128 := fun n => List.mem_range.1
  have ofPage (j : Fin 256) : Takes (fun l => l.tag == tagOf s.dmu.sar) (slotsOf (List.range 128)) s j ↔ page j :=
    (and_iff_right (every j)).trans beq_iff_eq
  have ofLine (j : Fin 256) :
      Takes (fun l => l.tag == tagOf s.dmu.sar) (slotsOf [(s.dmu.sar.extractLsb' 5 7).toNat]) s j ↔ one j :=
    and_comm.trans (and_congr beq_iff_eq List.mem_singleton)
  have ofAll (j : Fin 256) : Takes (fun _ => true) (slotsOf (List.range 128)) s j ↔ all j :=
    (and_iff_right (every j)).trans (iff_of_true rfl trivial)
  have single : ∀ n ∈ [(s.dmu.sar.extractLsb' 5 7).toNat], n < 128 := by
    intro n hn
    rw [List.mem_singleton.1 hn]
    exact (s.dmu.sar.extractLsb' 5 7).isLt
  exact ⟨flush rfl range List.nodup_range ofAll, flush rfl range List.nodup_range ofAll,
    flush rfl range List.nodup_range ofPage, flush rfl range List.nodup_range ofPage,
    flush rfl single (List.nodup_singleton _) ofLine, flush rfl single (List.nodup_singleton _) ofLine⟩

end Sys2Proof.Machine


/-! ## The flush load -/

namespace Sys2Proof.Machine

section
variable {s : State} {usr : Bool} {ea a : Word} {x : Xlate} {way : Bool} {q : Req}

/-- A flush load whose address is translated, with nothing from outside. -/
theorem flushLoad_translated (idle : s.script = Script.idle) (allowed : usr = true → psrMode s = true)
    (aligned : alignAddr s 4 ea = some a) (translated : dataAddress (spaceOf s usr) false a s = .ok x s) :
    flushLoad usr ea s = settle (spaceOf s usr) a (flushLookup (controlReq x (spaceOf s usr) 1#2) s) := by
  simp only [flushLoad, usrViolation_eq_false allowed, Bool.false_eq_true, if_false, aligned, translated, flushLine,
    arbitrate_idle idle]

theorem flushLookup_off (off : dCacheOn s = false) : flushLookup q s = .ok () s := by
  simp only [flushLookup, off, Bool.false_eq_true, if_false]

/-- The flush load of a modified line that hits (22_caches.md R323). -/
theorem flushLookup_modified (on : dCacheOn s = true) (idle : s.script = Script.idle) (board : s.env.regions = [])
    (wf : Memory.wf s.mem = true) (hit : dHit s q.x.pa = some way)
    (modified : (dLine s q.x.pa way).state = .exclusiveModified) :
    ∃ u, flushLookup q s = .ok () (setDLine u q.x.pa way (flushedLine false (dLine s q.x.pa way)))
      ∧ CopiedBack (lineAddr q.x.pa) (dLine s q.x.pa way).data s u := by
  obtain ⟨u, copied, saved⟩ := copyback_plain (a := q.x.pa) (way := way) idle board wf q.tc 1#2
    (beatOrder_lt q.x.pa) fun _ => mem_beatOrder q.x.pa
  rw [lineAddress_of_hit hit] at saved
  have line : dLine u q.x.pa way = dLine s q.x.pa way := dLine_dcache (by rw [saved.frame]) way
  refine ⟨u, ?_, saved⟩
  simp only [flushLookup, on, if_true, hit, modified, copied, cleanLine_eq, line]

/-- With the MMU disabled and no breakpoint armed the address is its own translation (21_mmu.md R225). -/
theorem dataAddress_identity (mmu : ctlMen s.dmu.ctl = false) (bp0 : ctlBpen0 s.dmu.ctl = false)
    (bp1 : ctlBpen1 s.dmu.ctl = false) (su write : Bool) :
    dataAddress su write a s = .ok (identity s.dmu su a) s := by
  simp [dataAddress, breakpointMatch, bp0, bp1, translate, mmuOf, mmu]

end

/-- Settles O48: in both settings the address is its own translation, and the lookup decides. -/
theorem flushLoadCopiesTheLineBack : Obligations.FlushLoadCopiesTheLineBack := by
  unfold Obligations.FlushLoadCopiesTheLineBack
  intro s s1 s2 scaled usr imm a allowed wf both
  have forms {P : State → Prop} (load : ∀ {opt : Bool} {ea : Word}, (opt = true → psrMode s = true) →
      alignAddr s 4 ea = some a → ∃ t, flushLoad opt ea s = .ok () t ∧ P (advance t)) : both P := by
    refine ⟨fun aligned => ?_, fun aligned => ?_⟩
    · obtain ⟨t, loaded, after⟩ := load (opt := false) nofun aligned
      exact ⟨_, congrArg finish loaded, after⟩
    · obtain ⟨t, loaded, after⟩ := load allowed aligned
      exact ⟨_, congrArg finish loaded, after⟩
  refine ⟨fun plain => forms fun opt aligned => ⟨s, ?_, fallsThrough_advance s⟩, ?_⟩
  · rw [flushLoad_translated plain.idle opt aligned (plain.dataAddress _ _), flushLookup_off plain.dCacheOff]
    rfl
  · intro way mmu bp0 bp1 cache dbug board idle hit modified
    refine forms fun {opt ea} permitted aligned => ?_
    have on : dCacheOn s = true := by simp [dCacheOn, cache, dbug]
    obtain ⟨u, looked, saved⟩ := flushLookup_modified
      (q := controlReq (identity s.dmu (spaceOf s opt) a) (spaceOf s opt) 1#2) on idle board wf hit modified
    have line : dLine (advance (setDLine u a way (flushedLine false (dLine s a way)))) a way
        = flushedLine false (dLine s a way) := (dLine_setDLine u a a way way _).trans (if_pos rfl)
    refine ⟨setDLine u a way (flushedLine false (dLine s a way)), ?_, fun r => ?_, ?_, ?_, saved.bytes, saved.others,
      ?_⟩
    · rw [flushLoad_translated idle permitted aligned (dataAddress_identity mmu bp0 bp1 _ _), looked]
      rfl
    · exact readReg_congr (by rw [saved.frame]; rfl) r
    · exact (congrArg DLine.state line).trans (flushedLine_modified modified)
    · exact (congrArg DLine.data line).trans rfl
    · rw [saved.frame]; rfl

end Sys2Proof.Machine


/-! ## Decoding and encoding undo each other -/

namespace Sys2Proof

/-! ### Decoding an encoding -/

/-- The five major opcodes that have decoders of their own. -/
theorem decodeWord_wordOf (d s1 : BitVec 5) (lo : BitVec 16) :
    decodeWord (wordOf 32#6 d s1 lo) = decodeCr d s1 lo ∧ decodeWord (wordOf 33#6 d s1 lo) = decodeFp d s1 lo
      ∧ decodeWord (wordOf 34#6 d s1 lo) = decodeGfx d s1 lo ∧ decodeWord (wordOf 60#6 d s1 lo) = decodeF0 d s1 lo
      ∧ decodeWord (wordOf 61#6 d s1 lo) = decodeF1 d s1 lo := by
  simp [decodeWord]

@[simp] theorem flag_one : flag 1#1 = true := rfl

@[simp] theorem flag_zero : flag 0#1 = false := rfl

@[simp] theorem need_true (space : OpcodeSpace) (i : Instr) : need true space i = .ok i := rfl

/-- An instruction's word decodes to it: format by format, each field is read back and each constant is as the decoder
wants it. -/
theorem decodeWord_encode (i : Instr) : decodeWord (encode i) = .ok i := by
  cases i <;> unfold encode
  case ldcr | stcr | xcr | fldcr | fstcr | fxcr => simp [decodeWord_wordOf, decodeCr]
  case br n _ | bsr n _ | bb0 n _ _ _ | bb1 n _ _ _ | bcnd n _ _ _ => cases n <;> simp [decodeWord, opBr16]
  case fmul | fadd | fsub | fdiv | fcvt | fsqrt | fcmp | fcmpu | int | nint | trnc | movXrf =>
    simp [decodeWord_wordOf, decodeFp]
  case flt _ b _ _ | movToGrf _ b _ | movToXrf _ b _ => cases b <;> simp [decodeWord_wordOf, decodeFp]
  case pmul | padd | paddsU | paddsUs | paddsS | psub | psubsU | psubsUs | psubsS | pcmp | ppack | punpk | protImm
    | protReg => simp [decodeWord_wordOf, decodeGfx]
  case clrImm | setImm | extImm | extuImm | makImm | rotImm | tb0 | tb1 | tcnd | ldXrfD | ldXrf | ldXrfX | stXrfD
    | stXrf | stXrfX => simp [decodeWord_wordOf, decodeF0]
  case andReg _ _ b _ | xorReg _ _ b _ | orReg _ _ b _ | jmp b _ | jsr b _ =>
    cases b <;> simp [decodeWord_wordOf, decodeF1]
  case xmemBu | xmem | ldHu | ldBu | ldD | ld | ldH | ldB | stD | st | stH | stB | ldaD | lda | ldaH | ldaX | adduReg
    | subuReg | addReg | subReg | divuReg | divuD | muluReg | muluD | muls | divsReg | cmpReg | clrReg | setReg | extReg
    | extuReg | makReg | rotReg | ff1 | ff0 | tbndReg | rte | illop1 | illop2 | illop3 =>
    simp [decodeWord_wordOf, decodeF1]
  all_goals simp [decodeWord]

/-- What the four bytes of a word decode to. -/
theorem decode_bytesOfWord {w : Word} {i : Instr} (h : decodeWord w = .ok i) (rest : List Byte) :
    decode (bytesOfWord w ++ rest) = .ok (i, rest) := by
  simp [bytesOfWord, decode, h]

/-- Settles O1: the four bytes are the word again, and the word decodes to the instruction. -/
theorem decodeUndoesEncode : Obligations.DecodeUndoesEncode := by
  unfold Obligations.DecodeUndoesEncode
  exact fun i rest => decode_bytesOfWord (decodeWord_encode i) rest

/-! ### A word is its fields -/

/-- Two slices that meet are one slice. -/
theorem slice_append_slice {n : Nat} (x : BitVec n) (k a b : Nat) :
    x.extractLsb' (k + b) a ++ x.extractLsb' k b = x.extractLsb' k (a + b) := by
  refine BitVec.eq_of_getLsbD_eq fun i hi => ?_
  simp only [BitVec.getLsbD_append, BitVec.getLsbD_extractLsb', hi, decide_true, Bool.true_and]
  split
  · next low => simp [low]
  · next high =>
    have bit : k + b + (i - b) = k + i := by omega
    have inside : i - b < a := by omega
    simp [bit, inside]

theorem eq_ofNat_of_toNat_eq {n k : Nat} {x : BitVec n} (h : x.toNat = k) : x = BitVec.ofNat n k := by
  rw [← h, BitVec.ofNat_toNat, BitVec.setWidth_eq]

theorem ofBool_flag (b : BitVec 1) : BitVec.ofBool (flag b) = b := by revert b; decide

theorem wordOf_fields (w : Word) : wordOf (opField w) (dField w) (s1Field w) (loField w) = w := by
  have join := slice_append_slice w
  rw [wordOf, opField, dField, s1Field, loField, join 21 6 5, join 16 11 5, join 0 16 16, slice_all]

theorem loTri_fields (lo : BitVec 16) : loTri (subField lo) (midField lo) (s2Field lo) = lo := by
  have join := slice_append_slice lo
  rw [loTri, subField, midField, s2Field, join 5 6 5, join 0 11 5, slice_all]

theorem loVec_fields (lo : BitVec 16) :
    loVec (subField lo ++ BitVec.ofBool (scaledBit (midField lo))) (vecField lo) = lo := by
  have join := slice_append_slice lo
  have bit : BitVec.ofBool (scaledBit (midField lo)) = lo.extractLsb' 9 1 := by
    refine BitVec.eq_of_getLsbD_eq fun i hi => ?_
    obtain rfl : i = 0 := by omega
    simp [scaledBit, midField]
  rw [loVec, bit, subField, vecField, join 9 6 1, join 0 7 9, slice_all]

theorem loCr_fields (lo : BitVec 16) : loCr (crOpField lo) (crSfuField lo) (crField lo) (s2Field lo) = lo := by
  have join := slice_append_slice lo
  rw [loCr, crOpField, crSfuField, crField, s2Field, join 11 2 3, join 5 5 6, join 0 11 5, slice_all]

theorem loFp_fields (lo : BitVec 16) :
    loFp (flag (fpFileField lo)) (fpOpField lo) (t1Field lo) (t2Field lo) (tdField lo) (s2Field lo) = lo := by
  have join := slice_append_slice lo
  rw [loFp, ofBool_flag, fpFileField, fpOpField, t1Field, t2Field, tdField, s2Field, join 11 1 4, join 9 5 2,
    join 7 7 2, join 5 9 2, join 0 11 5, slice_all]

theorem loGfx_fields (lo : BitVec 16) : loGfx (gfxOpField lo) (gfxRotField lo) (tdField lo) (s2Field lo) = lo := by
  have join := slice_append_slice lo
  rw [loGfx, gfxOpField, gfxRotField, tdField, s2Field, join 7 5 4, join 5 9 2, join 0 11 5, slice_all]

/-! ### The same bits in another format -/

theorem midLoad_bits {m : BitVec 5} (h : low3Zero m = true) : midLoad (scaledBit m) (usrBit m) = m := by
  revert m; decide

theorem midStore_bits {m : BitVec 5} (h : low2Zero m = true) : midStore (scaledBit m) (usrBit m) (wtBit m) = m := by
  revert m; decide

theorem oneBit_code {t : BitVec 2} (h : t = 0#2 ∨ t = 1#2) : 0#1 ++ BitVec.ofBool (t == 1#2) = t := by
  revert t; decide

/-- A TRI word whose S bit is clear is the VEC9 word of the same bits. -/
theorem loVec_of_loTri {op : BitVec 7} {sub : BitVec 6} {m s2 : BitVec 5} (constant : sub ++ 0#1 = op)
    (clear : scaledBit m = false) : loVec op (vecField (loTri sub m s2)) = loTri sub m s2 := by
  have h := loVec_fields (loTri sub m s2)
  rwa [subField_loTri, midField_loTri, clear, show BitVec.ofBool false = 0#1 from rfl, constant] at h

/-- The major opcode of a BR26 word is its 5-bit opcode with N. -/
theorem wordBr26_of_wordOf {op : BitVec 5} {n : Bool} {k : BitVec 6} {d s1 : BitVec 5} {lo : BitVec 16}
    (major : opBr16 op n = k) : wordBr26 op n (d26Field (wordOf k d s1 lo)) = wordOf k d s1 lo := by
  have join := slice_append_slice (wordOf k d s1 lo) 0 6 26
  have high : (wordOf k d s1 lo).extractLsb' 26 6 = op ++ BitVec.ofBool n := (opField_wordOf k d s1 lo).trans major.symm
  rwa [slice_all, Nat.zero_add, high] at join

/-! ### Encoding a decoding

Every branch of a decoder fixes a sub-opcode and asks for the constants that remain; the operands are fields of the word.
So the word of the branch's instruction, put together again from those fields, is the word that was decoded. The proofs
unfold encode at the branch's constructor: as a rewrite rule it would stand for 130 equations. -/

/-- If a decoder's answer is an instruction, w is the instruction's word. -/
def Encodes (w : Word) (r : Except Reject Instr) : Prop := ∀ i, r = .ok i → encode i = w

@[simp] theorem encodes_ok {w : Word} {i : Instr} : Encodes w (.ok i) ↔ encode i = w := by simp [Encodes]

@[simp] theorem encodes_error (w : Word) (e : Reject) : Encodes w (.error e) := nofun

@[simp] theorem encodes_need {w : Word} {ok : Bool} {space : OpcodeSpace} {i : Instr} :
    Encodes w (need ok space i) ↔ (ok = true → encode i = w) := by cases ok <;> simp [need]

@[simp] theorem encodes_ite {w : Word} {c : Prop} [Decidable c] {a b : Except Reject Instr} :
    Encodes w (if c then a else b) ↔ (c → Encodes w a) ∧ (¬ c → Encodes w b) := by
  split <;> simp [*]

@[simp] theorem encodes_decodeCr (d s1 : BitVec 5) (lo : BitVec 16) :
    Encodes (wordOf 32#6 d s1 lo) (decodeCr d s1 lo) := by
  rw [← loCr_fields lo]
  generalize crOpField lo = op, crSfuField lo = sfu, crField lo = cr, s2Field lo = s2
  simp only [decodeCr, crOpField_loCr, crSfuField_loCr, crField_loCr, s2Field_loCr]
  split
  case h_1 h | h_2 h =>
    obtain rfl := eq_ofNat_of_toNat_eq h
    split
    case h_4 => exact encodes_error _ _
    all_goals rename_i h; obtain rfl := eq_ofNat_of_toNat_eq h
    all_goals simp only [encodes_need, encodes_ok]; unfold encode
    all_goals simp +contextual
  all_goals exact encodes_error _ _

@[simp] theorem encodes_decodeFp (d s1 : BitVec 5) (lo : BitVec 16) :
    Encodes (wordOf 33#6 d s1 lo) (decodeFp d s1 lo) := by
  rw [← loFp_fields lo]
  generalize flag (fpFileField lo) = x, fpOpField lo = op, t1Field lo = t1, t2Field lo = t2, tdField lo = td,
    s2Field lo = s2
  simp only [decodeFp, fpFileField_loFp, flag_ofBool, fpOpField_loFp, t1Field_loFp, t2Field_loFp, tdField_loFp,
    s2Field_loFp]
  split
  case h_13 => exact encodes_error _ _
  all_goals rename_i h; obtain rfl := eq_ofNat_of_toNat_eq h
  all_goals simp only [encodes_need, encodes_ok, encodes_ite]; unfold encode
  all_goals simp +contextual [oneBit_code]

@[simp] theorem encodes_decodeGfx (d s1 : BitVec 5) (lo : BitVec 16) :
    Encodes (wordOf 34#6 d s1 lo) (decodeGfx d s1 lo) := by
  rw [← loGfx_fields lo]
  generalize gfxOpField lo = op, gfxRotField lo = r, tdField lo = t, s2Field lo = s2
  simp only [decodeGfx, gfxOpField_loGfx, gfxRotField_loGfx, tdField_loGfx, s2Field_loGfx]
  split
  case h_9 => exact encodes_error _ _
  all_goals rename_i h; obtain rfl := eq_ofNat_of_toNat_eq h
  case h_2 | h_3 =>
    split
    case h_5 => exact encodes_error _ _
    all_goals rename_i h; obtain rfl := eq_ofNat_of_toNat_eq h
    all_goals rw [encodes_ok]; unfold encode; simp
  all_goals simp only [encodes_need, encodes_ok]; unfold encode
  all_goals simp +contextual

@[simp] theorem encodes_decodeF0 (d s1 : BitVec 5) (lo : BitVec 16) :
    Encodes (wordOf 60#6 d s1 lo) (decodeF0 d s1 lo) := by
  rw [← loTri_fields lo]
  generalize subField lo = sub, midField lo = m, s2Field lo = s2
  simp only [decodeF0, subField_loTri, midField_loTri, s2Field_loTri]
  split
  case h_16 => exact encodes_error _ _
  all_goals rename_i h; obtain rfl := eq_ofNat_of_toNat_eq h
  all_goals simp only [encodes_need, encodes_ok]; unfold encode
  all_goals simp +contextual [midLoad_bits, midStore_bits, loVec_of_loTri]

@[simp] theorem encodes_decodeF1 (d s1 : BitVec 5) (lo : BitVec 16) :
    Encodes (wordOf 61#6 d s1 lo) (decodeF1 d s1 lo) := by
  rw [← loTri_fields lo]
  generalize subField lo = sub, midField lo = m, s2Field lo = s2
  simp only [decodeF1, subField_loTri, midField_loTri, s2Field_loTri]
  split
  case h_45 => exact encodes_error _ _
  all_goals rename_i h; obtain rfl := eq_ofNat_of_toNat_eq h
  case h_44 =>
    refine encodes_ite.2 ⟨?_, fun _ => encodes_error _ _⟩
    rintro ⟨rfl, rfl, rfl⟩
    split
    case h_5 => exact encodes_error _ _
    all_goals rename_i h; obtain rfl := eq_ofNat_of_toNat_eq h
    all_goals rw [encodes_ok]; unfold encode; simp
  all_goals simp only [encodes_need, encodes_ok, encodes_ite]; unfold encode
  all_goals simp +contextual [midLoad_bits, midStore_bits]

/-- A word that decodes is the word of what it decodes to: each branch of the decoder fixes the major opcode and asks
for the other constants, and what is left are the operands. -/
theorem encodes_decodeWord (w : Word) : Encodes w (decodeWord w) := by
  rw [← wordOf_fields w]
  generalize opField w = op, dField w = d, s1Field w = s1, loField w = lo
  simp only [decodeWord, opField_wordOf, dField_wordOf, s1Field_wordOf, loField_wordOf]
  split
  case h_54 => exact encodes_error _ _
  all_goals rename_i h; obtain rfl := eq_ofNat_of_toNat_eq h
  all_goals simp only [encodes_need, encodes_ok, encodes_error, encodes_decodeCr, encodes_decodeFp, encodes_decodeGfx,
    encodes_decodeF0, encodes_decodeF1]
  all_goals unfold encode; simp +contextual [opBr16, wordBr26_of_wordOf]

/-- Settles O2, branch by branch of the decoder. -/
theorem encodeUndoesDecode : Obligations.EncodeUndoesDecode := by
  unfold Obligations.EncodeUndoesDecode
  exact fun w i h => encodes_decodeWord w i h

end Sys2Proof


/-! ## Reserved words -/

namespace Sys2Proof

/-- The number of the special function unit whose opcode space it is; 0 for the base processor's. -/
@[simp] def OpcodeSpace.number : OpcodeSpace → Nat
  | .base => 0
  | .sfu1 => 1
  | .sfu2 => 2
  | .sfu3 => 3
  | .sfu4 => 4
  | .sfu5 => 5
  | .sfu6 => 6
  | .sfu7 => 7

/-- If a decoder's answer is a rejection, it names the opcode space of that number. -/
def RejectsInto (n : Nat) (r : Except Reject Instr) : Prop :=
  ∀ e, r = .error e → ∃ space : OpcodeSpace, e = .reserved space ∧ space.number = n

@[simp] theorem rejectsInto_ok (n : Nat) (i : Instr) : RejectsInto n (.ok i) := nofun

@[simp] theorem rejectsInto_error {n : Nat} {space : OpcodeSpace} :
    RejectsInto n (.error (.reserved space)) ↔ space.number = n := by simp [RejectsInto]

@[simp] theorem rejectsInto_need {n : Nat} {ok : Bool} {space : OpcodeSpace} {i : Instr} :
    RejectsInto n (need ok space i) ↔ (ok = false → space.number = n) := by cases ok <;> simp [need]

@[simp] theorem rejectsInto_ite {n : Nat} {c : Prop} [Decidable c] {a b : Except Reject Instr} :
    RejectsInto n (if c then a else b) ↔ (c → RejectsInto n a) ∧ (¬ c → RejectsInto n b) := by
  split <;> simp [*]

@[simp] theorem rejectsInto_decodeFp (d s1 : BitVec 5) (lo : BitVec 16) : RejectsInto 1 (decodeFp d s1 lo) := by
  simp only [decodeFp]
  split <;> simp

@[simp] theorem rejectsInto_decodeGfx (d s1 : BitVec 5) (lo : BitVec 16) : RejectsInto 2 (decodeGfx d s1 lo) := by
  simp only [decodeGfx]
  split
  case h_2 | h_3 => split <;> simp
  all_goals simp

@[simp] theorem rejectsInto_decodeF0 (d s1 : BitVec 5) (lo : BitVec 16) : RejectsInto 0 (decodeF0 d s1 lo) := by
  simp only [decodeF0]
  split <;> simp

@[simp] theorem rejectsInto_decodeF1 (d s1 : BitVec 5) (lo : BitVec 16) : RejectsInto 0 (decodeF1 d s1 lo) := by
  simp only [decodeF1]
  split
  case h_44 =>
    refine rejectsInto_ite.2 ⟨fun _ => ?_, fun _ => by simp⟩
    split <;> simp
  all_goals simp

/-- The format CR: the space is that of the SFU field, of SFU1 only where OP is 00 (30_encoding.md R385). -/
theorem rejectsInto_decodeCr (d s1 : BitVec 5) {lo : BitVec 16} {n : Nat}
    (number : (if (crSfuField lo).toNat = 1 ∧ crOpField lo ≠ 0#2 then 0 else (crSfuField lo).toNat) = n) :
    RejectsInto n (decodeCr d s1 lo) := by
  have bound := (crSfuField lo).isLt
  simp only [decodeCr]
  split
  case h_1 h => split <;> simp [← number, h]
  case h_2 h =>
    split
    case h_4 op1 op2 op3 =>
      have clear : crOpField lo = 0#2 := by
        simp only [imp_false] at op1 op2 op3
        have := (crOpField lo).isLt
        exact BitVec.eq_of_toNat_eq (show (crOpField lo).toNat = 0 by omega)
      simp [← number, h, clear]
    all_goals rename_i op; simp [← number, h, eq_ofNat_of_toNat_eq op]
  case h_8 =>
    have sfu7 : (crSfuField lo).toNat = 7 := by simp only [imp_false] at *; omega
    simp [← number, sfu7]
  all_goals rename_i h; simp [← number, h]

/-- The number of the special function unit in whose opcode space a word is, 0 for the base processor's (30_encoding.md
R364, R385). -/
def sfuOfWord (w : Word) : Nat :=
  let op := (w.extractLsb' 26 6).toNat
  let field := (w.extractLsb' 11 3).toNat
  if op = 32 then (if field = 1 ∧ w.extractLsb' 14 2 ≠ 0#2 then 0 else field)
  else if 33 ≤ op ∧ op ≤ 39 then op - 32 else 0

/-- The space of a word by its fields. -/
theorem sfuOfWord_wordOf (op : BitVec 6) (d s1 : BitVec 5) (lo : BitVec 16) :
    sfuOfWord (wordOf op d s1 lo)
      = if op.toNat = 32 then
          (if (crSfuField lo).toNat = 1 ∧ crOpField lo ≠ 0#2 then 0 else (crSfuField lo).toNat)
        else if 33 ≤ op.toNat ∧ op.toNat ≤ 39 then op.toNat - 32 else 0 := by
  have major : (wordOf op d s1 lo).extractLsb' 26 6 = op := opField_wordOf op d s1 lo
  have sfu : (wordOf op d s1 lo).extractLsb' 11 3 = crSfuField lo := slice_low _ lo 11 3 (by decide)
  have kind : (wordOf op d s1 lo).extractLsb' 14 2 = crOpField lo := slice_low _ lo 14 2 (by decide)
  simp only [sfuOfWord, major, sfu, kind]

/-- A rejected word is rejected into its own space. -/
theorem rejectsInto_decodeWord (w : Word) : RejectsInto (sfuOfWord w) (decodeWord w) := by
  rw [← wordOf_fields w]
  generalize opField w = op, dField w = d, s1Field w = s1, loField w = lo
  generalize number : sfuOfWord (wordOf op d s1 lo) = n
  rw [sfuOfWord_wordOf] at number
  simp only [decodeWord, opField_wordOf, dField_wordOf, s1Field_wordOf, loField_wordOf]
  split
  case h_33 h => exact rejectsInto_decodeCr d s1 ((if_pos h).symm.trans number)
  case h_54 =>
    simp only [imp_false] at *
    rw [if_neg (by omega), if_neg (by omega)] at number
    simp [← number]
  all_goals rename_i h; simp [← number, h]

end Sys2Proof

namespace Sys2Proof.Machine

/-- A reserved word enters the exception of its space (60_exceptions.md R703). -/
theorem enters_raiseReserved (space : OpcodeSpace) (s : State) : ∃ t, raiseReserved space s = .next t
    ∧ (space.number = 0 → Enters 5#9 s t) ∧ (space.number = 1 → EntersUnimplemented s t)
    ∧ (2 ≤ space.number → Enters (BitVec.ofNat 9 (112 + 2 * space.number)) s t) := by
  cases space
  case base => exact ⟨_, rfl, fun _ => enters_takeException .unimplementedOpcode s, by simp, by simp⟩
  case sfu1 => exact ⟨_, rfl, by simp, fun _ => entersUnimplemented_setFunimp s, by simp⟩
  case sfu2 => exact ⟨_, rfl, by simp, by simp, fun _ => enters_takeException .sfu2 s⟩
  case sfu3 => exact ⟨_, rfl, by simp, by simp, fun _ => enters_takeException .sfu3 s⟩
  case sfu4 => exact ⟨_, rfl, by simp, by simp, fun _ => enters_takeException .sfu4 s⟩
  case sfu5 => exact ⟨_, rfl, by simp, by simp, fun _ => enters_takeException .sfu5 s⟩
  case sfu6 => exact ⟨_, rfl, by simp, by simp, fun _ => enters_takeException .sfu6 s⟩
  case sfu7 => exact ⟨_, rfl, by simp, by simp, fun _ => enters_takeException .sfu7 s⟩

/-- Settles O4: the decoder rejects a word into its own space, and the rejection raises that space's exception. -/
theorem reservedWordsRaiseTheExceptionOfTheirSpace : Obligations.ReservedWordsRaiseTheExceptionOfTheirSpace := by
  unfold Obligations.ReservedWordsRaiseTheExceptionOfTheirSpace
  intro w r s rejected
  obtain ⟨space, rfl, number⟩ := rejectsInto_decodeWord w r rejected
  have run : runWord w s = raiseReserved space s := by simp only [runWord, rejected]
  have enters := enters_raiseReserved space s
  rw [number, ← run] at enters
  exact enters

end Sys2Proof.Machine


/-! ## Bit fields -/

namespace Sys2Proof.Machine

/-! ### Widths and masks -/

/-- The width of a bit field, 32 where W5 is zero (30_encoding.md R372). -/
theorem fieldWidth_eq (w : BitVec 5) : fieldWidth w = if w.toNat = 0 then 32 else w.toNat := by
  simp only [fieldWidth, ← BitVec.toNat_inj, BitVec.toNat_ofNat, Nat.zero_mod]

theorem fieldWidth_pos (w : BitVec 5) : 0 < fieldWidth w := by
  rw [fieldWidth_eq]; split <;> omega

theorem lowMask_bit (n : Nat) {i : Nat} (hi : i < 32) : (lowMask n).getLsbD i = decide (i < n) := by
  simp only [lowMask, BitVec.getLsbD_ofNat, Nat.testBit_two_pow_sub_one, hi, decide_true, Bool.true_and]

/-- FMASK has the bits of the field that lie in the word (42_bitfield.md R470). -/
theorem fieldMask_bit (w o : BitVec 5) {i : Nat} (hi : i < 32) :
    (fieldMask w o).getLsbD i = (decide (o.toNat ≤ i) && decide (i < o.toNat + fieldWidth w)) := by
  rw [fieldMask, BitVec.getLsbD_shiftLeft, lowMask_bit _ (by omega), Bool.eq_iff_iff]
  simp only [Bool.and_eq_true, Bool.not_eq_true', decide_eq_true_iff, decide_eq_false_iff_not]
  omega

/-! ### The operations bit by bit -/

section
variable (v : Word) (w o : BitVec 5) {i : Nat} (hi : i < 32)
include hi

theorem clearField_bit : (clearField v w o).getLsbD i
    = (v.getLsbD i && !(decide (o.toNat ≤ i) && decide (i < o.toNat + fieldWidth w))) := by
  simp only [clearField, BitVec.getLsbD_and, BitVec.getLsbD_not, fieldMask_bit w o hi, hi, decide_true, Bool.true_and]

theorem setField_bit : (setField v w o).getLsbD i
    = (v.getLsbD i || (decide (o.toNat ≤ i) && decide (i < o.toNat + fieldWidth w))) := by
  simp only [setField, BitVec.getLsbD_or, fieldMask_bit w o hi]

/-- The arithmetic shift repeats the bit that the left shift brought to the top, the field's highest inside the word. -/
theorem extractSigned_bit : (extractSigned v w o).getLsbD i
    = v.getLsbD (min (o.toNat + i) (min (o.toNat + fieldWidth w - 1) 31)) := by
  have positive := fieldWidth_pos w
  have offset := o.isLt
  simp only [extractSigned]
  generalize top : min (o.toNat + fieldWidth w - 1) 31 = t
  generalize up : 32 - (t - o.toNat + 1) = k
  have width : k + t + 1 = 32 + o.toNat := by omega
  rw [BitVec.getLsbD_sshiftRight, decide_eq_false (show ¬ 32 ≤ i by omega), Bool.not_false, Bool.true_and,
    BitVec.msb_eq_getLsbD_last, BitVec.getLsbD_shiftLeft, BitVec.getLsbD_shiftLeft]
  by_cases inside : o.toNat + i ≤ t
  · have place : k + i - (k - o.toNat) = o.toNat + i := by omega
    have fits : k + i < 32 := by omega
    have above : ¬ k + i < k - o.toNat := by omega
    rw [min_eq_left inside, if_pos fits, place]
    simp only [fits, above, decide_true, decide_false, Bool.not_false, Bool.true_and]
  · have place : 32 - 1 - (k - o.toNat) = t := by omega
    have above : ¬ 32 - 1 < k - o.toNat := by omega
    rw [min_eq_right (by omega), if_neg (by omega), place]
    simp only [above, decide_false, Bool.not_false, Bool.true_and, Nat.reduceSub, Nat.reduceLT, decide_true]

theorem extractUnsigned_bit : (extractUnsigned v w o).getLsbD i
    = (decide (o.toNat + i ≤ min (o.toNat + fieldWidth w - 1) 31) && v.getLsbD (o.toNat + i)) := by
  have positive := fieldWidth_pos w
  rw [extractUnsigned, BitVec.getLsbD_and, BitVec.getLsbD_ushiftRight, lowMask_bit _ hi, Bool.and_comm]
  by_cases inside : o.toNat + i < 32
  · congr 1
    rw [decide_eq_decide]
    omega
  · simp [BitVec.getLsbD_of_ge v _ (Nat.le_of_not_lt inside)]

theorem makeField_bit : (makeField v w o).getLsbD i
    = (decide (o.toNat ≤ i) && decide (i < o.toNat + fieldWidth w) && v.getLsbD (i - o.toNat)) := by
  rw [makeField, BitVec.getLsbD_shiftLeft, BitVec.getLsbD_and, lowMask_bit _ (by omega), Bool.eq_iff_iff]
  simp only [Bool.and_eq_true, Bool.not_eq_true', decide_eq_true_iff, decide_eq_false_iff_not]
  constructor
  · rintro ⟨⟨_, above⟩, bit, below⟩
    exact ⟨⟨by omega, by omega⟩, bit⟩
  · rintro ⟨⟨above, below⟩, bit⟩
    exact ⟨⟨hi, by omega⟩, bit, by omega⟩

/-- The bits that leave at the bottom enter at the top. -/
theorem rotateRight_bit : (rotateRight v o).getLsbD i = v.getLsbD ((i + o.toNat) % 32) := by
  have offset := o.isLt
  rw [rotateRight, BitVec.getLsbD_or, BitVec.getLsbD_ushiftRight, BitVec.getLsbD_shiftLeft]
  by_cases inside : i + o.toNat < 32
  · have low : i < 32 - o.toNat := by omega
    simp [low, Nat.mod_eq_of_lt inside, Nat.add_comm]
  · have wrapped : (i + o.toNat) % 32 = i - (32 - o.toNat) := by omega
    have high : ¬ i < 32 - o.toNat := by omega
    have gone : v.getLsbD (o.toNat + i) = false := BitVec.getLsbD_of_ge _ _ (by omega)
    simp [wrapped, high, gone, hi]

end

/-! ### The highest bit set -/

/-- Below n the search finds the highest bit set, or 32 when none is (42_bitfield.md R477). -/
theorem highestSet_spec (v : Word) (n : Nat) :
    (highestSet v n < n ∧ v.getLsbD (highestSet v n) = true ∧ ∀ i, highestSet v n < i → i < n → v.getLsbD i = false)
      ∨ (highestSet v n = 32 ∧ ∀ i, i < n → v.getLsbD i = false) := by
  induction n with
  | zero => exact .inr ⟨rfl, nofun⟩
  | succ n ih =>
    rw [highestSet]
    by_cases bit : v.getLsbD n = true
    · rw [if_pos bit]
      exact .inl ⟨by omega, bit, fun i _ _ => by omega⟩
    · rw [if_neg bit]
      have step {i : Nat} (hi : i < n + 1) (below : i < n → v.getLsbD i = false) : v.getLsbD i = false := by
        by_cases last : i = n
        · simpa [last] using bit
        · exact below (by omega)
      obtain ⟨found, top, above⟩ | ⟨nothing, clear⟩ := ih
      · exact .inl ⟨by omega, top, fun i hi hn => step hn (above i hi)⟩
      · exact .inr ⟨nothing, fun i hi => step hi (clear i)⟩

theorem isHighest_highestSet (v : Word) : IsHighest v true (highestSet v 32) := by
  obtain ⟨found, bit, above⟩ | ⟨nothing, clear⟩ := highestSet_spec v 32
  · exact .inl ⟨found, bit, fun i hi hn => by simp [above i hi hn]⟩
  · exact .inr ⟨nothing, fun i hi => by simp [clear i hi]⟩

/-- The highest bit clear is the highest set bit of the complement. -/
theorem IsHighest.of_not {v : Word} {n : Nat} (h : IsHighest (~~~v) true n) : IsHighest v false n := by
  have flip {i : Nat} (hi : i < 32) : (~~~v).getLsbD i = !v.getLsbD i := by simp [hi]
  obtain ⟨found, bit, above⟩ | ⟨nothing, clear⟩ := h
  · exact .inl ⟨found, by simpa [flip found] using bit, fun i hi hn => by simpa [flip hn] using above i hi hn⟩
  · exact .inr ⟨nothing, fun i hi => by simpa [flip hi] using clear i hi⟩

/-- A number that is some word's highest bit is a word's number. -/
theorem IsHighest.toNat_ofNat {v : Word} {b : Bool} {n : Nat} (h : IsHighest v b n) :
    IsHighest v b (BitVec.ofNat 32 n).toNat := by
  have small : n < 2 ^ 32 := by
    obtain ⟨found, -⟩ | ⟨nothing, -⟩ := h <;> omega
  rwa [BitVec.toNat_ofNat, Nat.mod_eq_of_lt small]

/-- Settles O13: each instruction writes its operation's word, whose bits are those of the field. -/
theorem bitFieldClearSetAndExtract : Obligations.BitFieldClearSetAndExtract := by
  unfold Obligations.BitFieldClearSetAndExtract
  simp only [← fieldWidth_eq]
  intro s d s1 s2 w o
  exact ⟨⟨_, fun _ => clearField_bit _ w o, does_of_result rfl⟩, ⟨_, fun _ => clearField_bit _ _ _, does_of_result rfl⟩,
    ⟨_, fun _ => setField_bit _ w o, does_of_result rfl⟩, ⟨_, fun _ => setField_bit _ _ _, does_of_result rfl⟩,
    ⟨_, fun _ => extractSigned_bit _ w o, does_of_result rfl⟩,
    ⟨_, fun _ => extractSigned_bit _ _ _, does_of_result rfl⟩,
    ⟨_, fun _ => extractUnsigned_bit _ w o, does_of_result rfl⟩,
    ⟨_, fun _ => extractUnsigned_bit _ _ _, does_of_result rfl⟩⟩

/-- Settles O14: likewise, and the search from the top finds the highest bit. -/
theorem bitFieldMakeRotateAndFindFirst : Obligations.BitFieldMakeRotateAndFindFirst := by
  unfold Obligations.BitFieldMakeRotateAndFindFirst
  simp only [← fieldWidth_eq]
  intro s d s1 s2 w o
  exact ⟨⟨_, fun _ => makeField_bit _ w o, does_of_result rfl⟩, ⟨_, fun _ => makeField_bit _ _ _, does_of_result rfl⟩,
    ⟨_, fun _ => rotateRight_bit _ o, does_of_result rfl⟩, ⟨_, fun _ => rotateRight_bit _ _, does_of_result rfl⟩,
    ⟨_, (isHighest_highestSet _).toNat_ofNat, does_of_result rfl⟩,
    ⟨_, (isHighest_highestSet _).of_not.toNat_ofNat, does_of_result rfl⟩⟩

end Sys2Proof.Machine


/-! ## Conditional branches -/

namespace Sys2Proof.Machine

/-! ### Targets and conditions -/

/-- The target of a conditional branch in signed arithmetic (46_flow_control.md R660). -/
theorem target16_eq (a : Word) (disp : BitVec 16) : target16 a disp = BitVec.ofInt 32 (a.toInt + 4 * disp.toInt) := by
  have four : BitVec.twoPow 32 2 = BitVec.ofInt 32 4 := by decide
  rw [target16, BitVec.shiftLeft_eq_mul_twoPow, four, BitVec.signExtend, BitVec.mul_comm, ← BitVec.ofInt_mul,
    BitVec.ofInt_add, BitVec.ofInt_toInt]

theorem sign_bit (v : Word) : v.getLsbD 31 = decide (v.toInt < 0) := by
  rw [← BitVec.msb_eq_toInt]; rfl

theorem magnitude_zero (v : Word) :
    (v &&& 0x7FFFFFFF#32 == 0#32) = decide (v.toInt = -2147483648 ∨ v.toInt = 0) := by
  have low : (v &&& 0x7FFFFFFF#32).toNat = v.toNat % 2147483648 := by
    rw [BitVec.toNat_and]
    exact Nat.and_two_pow_sub_one_eq_mod v.toNat 31
  have signed := BitVec.toInt_eq_toNat_cond v
  have bounded := v.isLt
  rw [Bool.eq_iff_iff, beq_iff_eq, decide_eq_true_iff, ← BitVec.toNat_inj, low]
  rw [signed]
  split <;> simp <;> omega

/-- The class of a word picks its bit of the condition mask (30_encoding.md R378). -/
theorem condHolds_eq (m : BitVec 5) (v : Word) : condHolds m v
    = m.getLsbD (if v.toInt = -2147483648 then 3 else if v.toInt < 0 then 2 else if v.toInt = 0 then 1 else 0) := by
  simp only [condHolds, sign_bit, magnitude_zero]
  by_cases least : v.toInt = -2147483648
  · simp [least]
  · by_cases negative : v.toInt < 0
    · have nonzero : v.toInt ≠ 0 := by omega
      simp [least, negative, nonzero]
    · by_cases zero : v.toInt = 0
      · simp [zero]
      · simp [least, negative, zero]

/-! ### What a wrongly predicted path leaves -/

theorem BusKeeps.dbias {s t : State} (h : BusKeeps s t) : t.dbias = s.dbias := by
  have frame := h.frame
  unfold BusFrame at frame
  rw [frame]

theorem translate_instr_dbias (su : Bool) (a : Word) (s : State) :
    (translate .instr su false a s).last.dbias = s.dbias := by
  rw [(translateKeeps_translate .instr su false a s).frame]; rfl

/-- A fetch replaces lines of the instruction cache alone. -/
theorem fetchWord_dbias (x : Xlate) (su : Bool) (s : State) : (fetchWord x su s).last.dbias = s.dbias := by
  have single : ∀ u, (fetchSingle x su u).last.dbias = u.dbias := by
    intro u
    have h := (busKeeps_busReadAt u (reqTxn ⟨x, su, tcCode su, 0#2, false⟩ true) (x.pa &&& 0xFFFFFFF8#32) 8).dbias
    simp only [fetchSingle]; split <;> exact h
  have fill : ∀ way u, (fetchFill x su way u).last.dbias = u.dbias := by
    intro way u
    have h := (busKeeps_burstRead u (fillTxn ⟨x, su, tcCode su, 0#2, false⟩ false way)).dbias
    simp only [fetchFill]; split
    · exact h
    · simp only [MRes.last_ok]; split <;> exact h
  have look : ∀ u, (fetchLookup x su u).last.dbias = u.dbias := by
    intro u
    unfold fetchLookup; split
    · exact single u
    · split
      · rfl
      · split
        · exact fill _ u
        · exact single u
  exact (look _).trans (busKeeps_arbitrate s).dbias

theorem prefetchWord_dbias (k : Nat) (a : Word) (s : State) : (prefetchWord k a s).2.dbias = s.dbias := by
  have space : (fetchSpace k s).2.dbias = s.dbias := by unfold fetchSpace; split <;> rfl
  have translated := translate_instr_dbias (fetchSpace k s).1 a (fetchSpace k s).2
  simp only [prefetchWord]; split
  · rfl
  · next x u hu =>
    rw [hu] at translated
    split
    · have fetched := fetchWord_dbias x (fetchSpace k s).1 u
      split <;> next hw => rw [hw] at fetched; exact fetched.trans (translated.trans space)
    · rfl

theorem fetchPath_dbias (us : List Turn) (k : Nat) (p : Path) (s : State) : (fetchPath us k p s).dbias = s.dbias := by
  have word : ∀ (k : Nat) (p : Path) (u : State), (p.word k u).2.dbias = u.dbias := by
    intro k p u
    unfold Path.word; split
    · rfl
    · exact prefetchWord_dbias k p.here u
  induction us generalizing k p s with
  | nil => rfl
  | cons u us ih =>
    simp only [fetchPath]; split
    · exact word k p s
    · exact (ih _ _ _).trans (word k p s)

theorem wrongPath_dbias (predicted taken n : Bool) (t : Word) (s : State) :
    (wrongPath predicted taken n t s).dbias = s.dbias := by
  unfold wrongPath; split
  · split
    · rfl
    · exact fetchPath_dbias _ _ _ _
  · rfl

/-- What the words fetched along a wrongly predicted path leave (46_flow_control.md R668). -/
theorem wrongPath_frame (predicted taken n : Bool) (t : Word) (s : State) :
    let u := wrongPath predicted taken n t s
    u = { s with
      icache := u.icache, ibias := u.ibias, dcache := u.dcache, mem := u.mem, busLog := u.busLog, script := u.script,
      draws := u.draws, halted := u.halted, snoopFault := u.snoopFault } := by
  have frame := (cacheKeeps_wrongPath predicted taken n t s).frame
  rw [wrongPath_dbias] at frame
  exact frame

/-! ### The two outcomes -/

/-- The target instruction cache's bookkeeping at a taken branch (46_flow_control.md R690). -/
theorem ticTaken_frame (n : Bool) (t : Word) (s : State) :
    let u := ticTaken n t s
    u = { s with ticSupply := u.ticSupply, ticFill := u.ticFill, draws := u.draws } := by
  intro u
  simp only [u, ticTaken]
  split
  · split <;> rfl
  · rfl

theorem branchTo_frame (s : State) (n : Bool) (t : Word) :
    let u := branchTo s n t
    u = { s with xip := u.xip, nip := u.nip, ds := u.ds } := by cases n <;> rfl

/-- What a conditional branch does whose condition is c (46_flow_control.md R661, R668): it goes to the target or to the
next instruction, and leaves nothing else but what is fetched along a wrongly predicted path. -/
def BranchesWhen (c n : Bool) (target : Word) (s t : State) : Prop :=
  SameRegisters s t ∧ t.xip = (if c = true ∧ n = false then target else s.nip)
    ∧ t.nip = (if c then (if n then target else target + 4#32) else s.nip + 4#32) ∧ t.ds = n
    ∧ t = { s with
        xip := t.xip, nip := t.nip, ds := t.ds, ticSupply := t.ticSupply, ticFill := t.ticFill, draws := t.draws,
        icache := t.icache, ibias := t.ibias, dcache := t.dcache, mem := t.mem, busLog := t.busLog,
        script := t.script, halted := t.halted, snoopFault := t.snoopFault }
    ∧ (ctlPren s.imu.ctl = false ∨ s.script.guesses = [] →
      if c then Branches n target s t ∧ SameRegisters s t else Passes n s t)

/-- A taken branch, in its own state or in the one that a wrongly predicted path left. -/
theorem branches_branchTo (n : Bool) (target : Word) (s : State) :
    Branches n target s (branchTo (ticTaken n target s) n target) where
  xip := by rw [branchTo_xip, ticTaken_frame]
  nip := branchTo_nip ..
  ds := branchTo_ds ..
  frame := by rw [branchTo_frame, ticTaken_frame]
  memory := readByte_congr (by rw [branchTo_mem, ticTaken_frame])

theorem branchesWhen_taken (predicted n : Bool) (target : Word) (s : State) :
    let u := wrongPath predicted true n target s
    BranchesWhen true n target s (branchTo (ticTaken n target u) n target) := by
  intro u
  have frame : u = _ := wrongPath_frame predicted true n target s
  have same : SameRegisters s (branchTo (ticTaken n target u) n target) :=
    readReg_congr (by rw [branchTo_gpr, ticTaken_frame, frame])
  refine ⟨same, ?_, ?_, ?_, ?_, fun quiet => ?_⟩
  · rw [branchTo_xip, ticTaken_frame, frame]
    cases n <;> rfl
  · exact branchTo_nip ..
  · exact branchTo_ds ..
  · rw [branchTo_frame, ticTaken_frame, frame]
  · exact ⟨by rw [show u = s from wrongPath_quiet quiet ..]; exact branches_branchTo n target s, same⟩

theorem branchesWhen_passed (predicted n : Bool) (target : Word) (s : State) :
    let u := wrongPath predicted false n target s
    BranchesWhen false n target s (branchNotTaken u n) := by
  intro u
  have frame : u = _ := wrongPath_frame predicted false n target s
  refine ⟨readReg_congr (by rw [branchNotTaken_gpr, frame]), ?_, ?_, rfl, ?_, fun quiet => ?_⟩
  · rw [branchNotTaken_xip, frame]; rfl
  · rw [branchNotTaken_nip, frame]; rfl
  · rw [frame]; rfl
  · rw [show u = s from wrongPath_quiet quiet ..]
    exact ⟨rfl, fun _ => rfl⟩

/-- An instruction that ends in a conditional branch. -/
theorem does_of_branchIf {i : Instr} {s : State} {predicted n c c' : Bool} {target target' : Word}
    (h : exec i s = branchIf predicted c' n target' s) (condition : c' = c) (address : target' = target) :
    Does i s (BranchesWhen c n target s) := by
  subst condition address
  cases c'
  · exact ⟨_, h, branchesWhen_passed predicted n target' s⟩
  · exact ⟨_, h, branchesWhen_taken predicted n target' s⟩

/-- Settles O16: the three instructions are one conditional branch with three conditions. -/
theorem conditionalBranches : Obligations.ConditionalBranches := by
  unfold Obligations.ConditionalBranches
  intro s n b s1 disp _ a target inMask goes
  have address : target16 s.xip disp = target := target16_eq s.xip disp
  exact ⟨does_of_branchIf rfl rfl address, does_of_branchIf rfl rfl address,
    does_of_branchIf rfl (condHolds_eq b a) address⟩

end Sys2Proof.Machine


/-! ## Traps of the control-register instructions -/

namespace Sys2Proof.Machine

section
variable {s : State} {n : BitVec 6}

theorem privileged_user (user : psrMode s = false) (k : State → Res Unit) : privileged s k = .trap .privilege s := by
  simp [privileged, user]

theorem privileged_supervisor (supervisor : psrMode s = true) (k : State → Res Unit) : privileged s k = k s := by
  simp [privileged, supervisor]

/-- The numbers that name no control register, as ranges (45_load_store.md R639). -/
theorem crUnimplemented_of_absent
    (absent : n.toNat ∈ [3, 6] ∨ (8 ≤ n.toNat ∧ n.toNat ≤ 13) ∨ (21 ≤ n.toNat ∧ n.toNat ≤ 24)
      ∨ (37 ≤ n.toNat ∧ n.toNat ≤ 39) ∨ 52 ≤ n.toNat) : crUnimplemented n = true := by
  revert n
  decide

theorem readCr_absent (absent : crUnimplemented n = true) : readCr n s = .trap .unimplementedOpcode s := by
  simp only [readCr, absent, if_true]

theorem writeCr_absent (absent : crUnimplemented n = true) (v : Word) :
    writeCr n v s = .trap .unimplementedOpcode s := by
  simp only [writeCr, absent, if_true]

/-- An instruction that ends as the privileged part k does, in user mode. -/
theorem does_of_privileged_user {i : Instr} {k : State → Res Unit} (h : exec i s = finish (privileged s k))
    (user : psrMode s = false) : Does i s (Enters 6#9 s) := does_of_trap h (privileged_user user k)

/-- An instruction that ends as the privileged part k does, in supervisor mode, where k traps. -/
theorem does_of_privileged_trap {i : Instr} {k : State → Res Unit} (h : exec i s = finish (privileged s k))
    (supervisor : psrMode s = true) (trap : k s = .trap .unimplementedOpcode s) : Does i s (Enters 5#9 s) :=
  does_of_trap h ((privileged_supervisor supervisor k).trans trap)

/-- An instruction whose word is reserved unless c holds. -/
theorem does_of_reserved {i : Instr} {c : Prop} [Decidable c] {meaning : Host.Outcome State Fault Refusal}
    (h : exec i s = if c then meaning else raiseReserved .base s) (reserved : ¬ c) : Does i s (Enters 5#9 s) :=
  does_of_raise (e := .unimplementedOpcode) (h.trans (if_neg reserved))

variable {s1 : RegNum}

theorem execStcr_same : execStcr s1 n s1 s = finish (privileged s (writeCrFrom n (readReg s s1))) := if_pos rfl

theorem execXcr_same (d : RegNum) : execXcr d s1 n s1 s = finish (privileged s (exchangeCr d n (readReg s s1))) :=
  if_pos rfl

end

/-- Settles O21: privilege comes first, then the register's number; a word with two source registers is checked before
either. -/
theorem controlRegisterTraps : Obligations.ControlRegisterTraps := by
  unfold Obligations.ControlRegisterTraps
  intro s d s1 s2 n absent
  refine ⟨fun user => ?_, fun supervisor unnamed => ?_, fun differ => ?_⟩
  · exact ⟨does_of_privileged_user rfl user, does_of_privileged_user execStcr_same user,
      does_of_privileged_user (execXcr_same d) user⟩
  · have absent : crUnimplemented n = true := crUnimplemented_of_absent unnamed
    refine ⟨does_of_privileged_trap rfl supervisor ?_, does_of_privileged_trap execStcr_same supervisor ?_,
      does_of_privileged_trap (execXcr_same d) supervisor ?_⟩
    · simp only [readCrInto, readCr_absent absent]
    · simp only [writeCrFrom, writeCr_absent absent]
    · simp only [exchangeCr, readCr_absent absent]
  · exact ⟨does_of_reserved rfl differ, does_of_reserved rfl differ, does_of_reserved rfl differ,
      does_of_reserved rfl differ⟩

end Sys2Proof.Machine


/-! ## Logical instructions -/

namespace Sys2Proof.Machine

/-! ### The second operand bit by bit -/

/-- .c complements the second operand (40_logical.md R421 to R423). -/
theorem complementIf_bit (c : Bool) (v : Word) {i : Nat} (hi : i < 32) :
    (complementIf c v).getLsbD i = (v.getLsbD i != c) := by
  cases c <;> simp [complementIf, hi]

section
variable (imm : BitVec 16) {i : Nat}

theorem immLow_bit (hi : i < 32) : (immLow imm).getLsbD i = (decide (i < 16) && imm.getLsbD i) := by
  rw [immLow, BitVec.getLsbD_setWidth, decide_eq_true hi, Bool.true_and, Bool.eq_and_self, decide_eq_true_iff]
  exact BitVec.lt_of_getLsbD

theorem immHigh_bit : (immHigh imm).getLsbD i = (decide (16 ≤ i) && imm.getLsbD (i - 16)) := by
  rw [immHigh, BitVec.getLsbD_append]
  by_cases low : i < 16
  · simp [low, Nat.not_le.2 low]
  · simp [low, Nat.le_of_not_lt low]

/-- What and combines with: the immediate below, ones above, so that the high half is kept (40_logical.md R421). -/
theorem onesAbove_bit (hi : i < 32) : (0xFFFF#16 ++ imm).getLsbD i = (decide (16 ≤ i) || imm.getLsbD i) := by
  rw [BitVec.getLsbD_append, show 0xFFFF#16 = BitVec.allOnes 16 from rfl, BitVec.getLsbD_allOnes]
  by_cases low : i < 16
  · simp [low, Nat.not_le.2 low]
  · have inside : i - 16 < 16 := by omega
    simp [low, inside, Nat.le_of_not_lt low]

/-- What and.u combines with: the immediate above, ones below (40_logical.md R421). -/
theorem onesBelow_bit : (imm ++ 0xFFFF#16).getLsbD i = (decide (i < 16) || imm.getLsbD (i - 16)) := by
  rw [BitVec.getLsbD_append, show 0xFFFF#16 = BitVec.allOnes 16 from rfl, BitVec.getLsbD_allOnes]
  by_cases low : i < 16 <;> simp [low]

end

/-! ### The instructions -/

section
variable {i : Instr} {s : State} {d : RegNum} {a m : Word} {bit : Nat → Bool}
  (operand : ∀ n, n < 32 → m.getLsbD n = bit n)
include operand

/-- An instruction that writes the and of a word with one whose bits are known. -/
theorem does_of_and (h : exec i s = result d (a &&& m) s) :
    ∃ v : Word, (∀ n, n < 32 → v.getLsbD n = (a.getLsbD n && bit n)) ∧ Does i s (Sets d v s) :=
  ⟨_, fun n hn => by rw [BitVec.getLsbD_and, operand n hn], does_of_result h⟩

theorem does_of_or (h : exec i s = result d (a ||| m) s) :
    ∃ v : Word, (∀ n, n < 32 → v.getLsbD n = (a.getLsbD n || bit n)) ∧ Does i s (Sets d v s) :=
  ⟨_, fun n hn => by rw [BitVec.getLsbD_or, operand n hn], does_of_result h⟩

theorem does_of_xor (h : exec i s = result d (a ^^^ m) s) :
    ∃ v : Word, (∀ n, n < 32 → v.getLsbD n = (a.getLsbD n != bit n)) ∧ Does i s (Sets d v s) :=
  ⟨_, fun n hn => by rw [BitVec.getLsbD_xor, operand n hn], does_of_result h⟩

end

/-- Settles O7: each instruction combines r[S1] with the word of its second operand, whose bits are known. -/
theorem logicalInstructions : Obligations.LogicalInstructions := by
  unfold Obligations.LogicalInstructions
  simp only [Bool.and_assoc]
  intro s d s1 s2 c imm
  have second (n : Nat) (hn : n < 32) := complementIf_bit c (readReg s s2) hn
  have low (n : Nat) (hn : n < 32) := immLow_bit imm hn
  have high (n : Nat) (_ : n < 32) := immHigh_bit imm (i := n)
  refine ⟨?and, ?or, ?xor, ?andImm, ?andUImm, ?maskImm, ?maskUImm, ?orImm, ?orUImm, ?xorImm, ?xorUImm⟩
  case and => exact does_of_and second rfl
  case or => exact does_of_or second rfl
  case xor => exact does_of_xor second rfl
  case andImm => exact does_of_and (fun _ => onesAbove_bit imm) rfl
  case andUImm => exact does_of_and (fun _ _ => onesBelow_bit imm) rfl
  case maskImm => exact does_of_and low rfl
  case maskUImm => exact does_of_and high rfl
  case orImm => exact does_of_or low rfl
  case orUImm => exact does_of_or high rfl
  case xorImm => exact does_of_xor low rfl
  case xorUImm => exact does_of_xor high rfl

end Sys2Proof.Machine


/-! ## The worked examples -/

namespace Sys2Proof

/-- The encoding of an instruction decodes to it, the word written out. -/
theorem decodeWord_of_encode {w : Word} {i : Instr} (h : encode i = w) : decodeWord w = .ok i :=
  h ▸ decodeWord_encode i

/-- Settles O3: each word as printed is the encoding of its instruction. -/
theorem workedExampleWordsDecode : Obligations.WorkedExampleWordsDecode := by
  unfold Obligations.WorkedExampleWordsDecode
  refine ⟨?fadd, ?padd, ?ppack, ?bsr, ?bb0, ?bcnd, ?tb1, ?tbndImm, ?rte, ?orReg⟩
  all_goals exact decodeWord_of_encode (by decide)

end Sys2Proof


/-! ## Integer arithmetic -/

namespace Sys2Proof.Machine

/-! ### Sums and differences in 33 bits -/

section
variable (a b : Word) (c : Bool)

/-- No 33-bit sum of two words and a carry wraps (41_integer_arith.md R441). -/
theorem sum33_toNat : (sum33 a b c).toNat = a.toNat + b.toNat + c.toNat := by
  have carry := Bool.toNat_lt c
  simp only [sum33, BitVec.toNat_add, BitVec.toNat_setWidth, BitVec.toNat_ofBool]
  omega

theorem addWord_toNat : (addWord a b c).toNat = (a.toNat + b.toNat + c.toNat) % 4294967296 := by
  rw [addWord, BitVec.extractLsb'_toNat, sum33_toNat, Nat.shiftRight_zero]

theorem addCarry_eq : addCarry a b c = decide (4294967296 ≤ a.toNat + b.toNat + c.toNat) := by
  have carry := Bool.toNat_lt c
  rw [addCarry, BitVec.getLsbD, sum33_toNat, Nat.testBit_eq_decide_div_mod_eq, decide_eq_decide]
  omega

/-- The difference, one less when the carry is clear (R441). -/
theorem subWord_toNat :
    ((subWord a b c).toNat : Int) = ((a.toNat : Int) - b.toNat - (1 - c.toNat : Nat)) % 4294967296 := by
  have carry := Bool.toNat_lt c
  rw [subWord, addWord_toNat, BitVec.toNat_not]
  omega

/-- The carry out of a difference is set when nothing is borrowed (R441). -/
theorem subCarry_eq : subCarry a b c = decide (b.toNat + (1 - c.toNat) ≤ a.toNat) := by
  have carry := Bool.toNat_lt c
  rw [subCarry, addCarry_eq, BitVec.toNat_not, decide_eq_decide]
  omega

end

/-! ### Signed words -/

/-- The integers that a word holds in two's complement. -/
abbrev FitsWord (n : Int) : Prop := -2147483648 ≤ n ∧ n ≤ 2147483647

/-- A word congruent to an integer that fits holds it. -/
theorem toInt_of_fits {v : Word} {n : Int} (h : (v.toNat : Int) = n % 4294967296) (fits : FitsWord n) : v.toInt = n := by
  rw [BitVec.toInt_eq_toNat_cond]
  omega

theorem ofInt_toInt {n : Int} (fits : FitsWord n) : (BitVec.ofInt 32 n).toInt = n := by
  refine toInt_of_fits ?_ fits
  rw [BitVec.toNat_ofInt]
  omega

theorem immLow_toNat (imm : BitVec 16) : (immLow imm).toNat = imm.toNat := by
  rw [immLow, BitVec.toNat_setWidth]
  omega

theorem imm16_toInt (s : State) (imm : BitVec 16) :
    (imm16 s imm).toInt = if psrSgn s then imm.toInt else (imm.toNat : Int) := by
  refine toInt_of_fits (imm16_toNat s imm) ?_
  split
  · rw [BitVec.toInt_eq_toNat_cond]; omega
  · omega

section
variable (a b : Word) (c : Bool)

/-- The sum overflows exactly when it is no signed word (R442). -/
theorem addOverflow_iff : addOverflow a b c = true ↔ ¬ FitsWord (a.toInt + b.toInt + c.toNat) := by
  have carry := Bool.toNat_lt c
  simp only [addOverflow, sign_bit, addWord_toNat, BitVec.toInt_eq_toNat_cond, Bool.and_eq_true, beq_iff_eq, bne_iff_ne,
    ne_eq, decide_eq_decide]
  omega

theorem carry31_eq :
    carry31 a b c = decide (2147483648 ≤ a.toNat % 2147483648 + b.toNat % 2147483648 + c.toNat) := by
  have carry := Bool.toNat_lt c
  have low (v : Word) : (v &&& 0x7FFFFFFF#32).toNat = v.toNat % 2147483648 := by
    rw [BitVec.toNat_and]; exact Nat.and_two_pow_sub_one_eq_mod v.toNat 31
  rw [carry31, sign_bit, BitVec.toInt_eq_toNat_cond, BitVec.toNat_add, BitVec.toNat_add, low, low, BitVec.toNat_setWidth,
    BitVec.toNat_ofBool, decide_eq_decide]
  omega

/-- The difference overflows exactly when it is no signed word (R444). -/
theorem subOverflow_iff : subOverflow a b c = true ↔ ¬ FitsWord (a.toInt - b.toInt - (1 - c.toNat : Nat)) := by
  have carry := Bool.toNat_lt c
  simp only [subOverflow, carry31_eq, subCarry_eq, BitVec.toNat_not, BitVec.toInt_eq_toNat_cond, bne_iff_ne, ne_eq,
    decide_eq_decide]
  omega

theorem addWord_toInt (fits : FitsWord (a.toInt + b.toInt + c.toNat)) :
    (addWord a b c).toInt = a.toInt + b.toInt + c.toNat := by
  refine toInt_of_fits ?_ fits
  rw [addWord_toNat, BitVec.toInt_eq_toNat_cond, BitVec.toInt_eq_toNat_cond]
  omega

theorem subWord_toInt (fits : FitsWord (a.toInt - b.toInt - (1 - c.toNat : Nat))) :
    (subWord a b c).toInt = a.toInt - b.toInt - (1 - c.toNat : Nat) := by
  refine toInt_of_fits ?_ fits
  rw [subWord_toNat, BitVec.toInt_eq_toNat_cond, BitVec.toInt_eq_toNat_cond]
  omega

end

/-! ### How they end -/

section
variable {i : Instr} {s u : State} {d : RegNum}

/-- Completing with one general register written, and PSR.C where the instruction has .co. -/
theorem does_of_carryResult {v : Word} {co c : Bool} (h : exec i s = result d v (carryOut s co c)) :
    Does i s (SetsCarry d v (if co then c else psrCarry s) s) := by
  refine ⟨_, h, ?_⟩
  cases co
  · have kept := setsCarry_advance s d v (psrCarry s)
    rwa [setCarry_same] at kept
  · exact setsCarry_advance s d v c

/-- An instruction that writes a signed result, or overflows when the result does not fit. -/
theorem does_of_signedResult {w : Word} {n : Int} {after : Word → State → Prop}
    (h : exec i s = if FitsWord n then result d w u else raise .integerOverflow s) (value : FitsWord n → w.toInt = n)
    (completes : exec i s = result d w u → Does i s (after w)) :
    if FitsWord n then ∃ v : Word, v.toInt = n ∧ Does i s (after v) else Does i s (Enters 9#9 s) := by
  split
  · next fits => exact ⟨w, value fits, completes (h.trans (if_pos fits))⟩
  · next overflow => exact does_of_raise (h.trans (if_neg overflow))

end

section
variable (d : RegNum) (a b : Word) (c co : Bool) (s : State)

theorem addTrapping_eq : addTrapping d a b c co s =
    if FitsWord (a.toInt + b.toInt + c.toNat) then result d (addWord a b c) (carryOut s co (addCarry a b c))
    else raise .integerOverflow s := by
  rw [addTrapping, if_congr (addOverflow_iff a b c) rfl rfl, ite_not]

theorem subTrapping_eq : subTrapping d a b c co s =
    if FitsWord (a.toInt - b.toInt - (1 - c.toNat : Nat)) then
      result d (subWord a b c) (carryOut s co (subCarry a b c))
    else raise .integerOverflow s := by
  rw [subTrapping, if_congr (subOverflow_iff a b c) rfl rfl, ite_not]

end

/-- Without .ci nothing is carried into a sum (R441). -/
theorem carryIn_add (s : State) (ci : Bool) :
    (carryIn s ci false).toNat = if ci = true then (psrCarry s).toNat else 0 := by cases ci <;> rfl

/-- Without .ci nothing is borrowed from a difference (R441). -/
theorem borrowIn_sub (s : State) (ci : Bool) :
    1 - (carryIn s ci true).toNat = if ci = true then 1 - (psrCarry s).toNat else 0 := by cases ci <;> rfl

/-- Settles O8: each instruction writes the low word of its 33-bit sum, and the carry of it with .co. -/
theorem unsignedAddAndSubtract : Obligations.UnsignedAddAndSubtract := by
  unfold Obligations.UnsignedAddAndSubtract
  simp only [← carryIn_add, ← borrowIn_sub, ← addCarry_eq, ← subCarry_eq]
  intro s d s1 s2 ci co imm
  have sum := addWord_toNat (readReg s s1) (immLow imm) false
  have difference := subWord_toNat (readReg s s1) (immLow imm) true
  rw [immLow_toNat] at sum difference
  exact ⟨⟨_, addWord_toNat .., does_of_carryResult rfl⟩, ⟨_, sum, does_of_result rfl⟩,
    ⟨_, subWord_toNat .., does_of_carryResult rfl⟩,
    ⟨_, difference.trans (congrArg (· % 4294967296) (Int.sub_zero _)), does_of_result rfl⟩⟩

/-- Settles O9: the overflow conditions say that the exact result is no signed word. -/
theorem signedAddAndSubtract : Obligations.SignedAddAndSubtract := by
  unfold Obligations.SignedAddAndSubtract
  simp only [← carryIn_add, ← borrowIn_sub, ← addCarry_eq, ← subCarry_eq, ← imm16_toInt]
  intro s d s1 s2 ci co imm
  refine ⟨?add, ?addImm, ?sub, ?subImm⟩
  case add => exact does_of_signedResult (addTrapping_eq ..) (addWord_toInt _ _ _) does_of_carryResult
  case addImm =>
    rw [← Int.add_zero (_ + _)]
    exact does_of_signedResult (addTrapping_eq ..) (addWord_toInt _ _ false) does_of_result
  case sub => exact does_of_signedResult (subTrapping_eq ..) (subWord_toInt _ _ _) does_of_carryResult
  case subImm =>
    rw [← Int.sub_zero (_ - _)]
    exact does_of_signedResult (subTrapping_eq ..) (subWord_toInt _ _ true) does_of_result

end Sys2Proof.Machine

/-! ## Integer compare, multiply and divide -/

namespace Sys2Proof.Machine

/-! ### The result string of cmp -/

theorem stringBit_bit {n : Nat} (hn : n < 32) (b : Bool) (i : Nat) :
    (stringBit n b).getLsbD i = (decide (i = n) && b) := by
  have one : BitVec.ofNat 32 (2 ^ n) = BitVec.twoPow 32 n := by
    apply BitVec.eq_of_toNat_eq
    rw [BitVec.toNat_ofNat, BitVec.toNat_twoPow]
  cases b
  · simp [stringBit]
  · rw [stringBit, if_pos rfl, one, getLsbD_twoPow_lit n i hn, Bool.and_true]

theorem anyByteEqual_iff (a b : Word) :
    anyByteEqual a b = true ↔ ∃ k, k < 4 ∧ a.extractLsb' (8 * k) 8 = b.extractLsb' (8 * k) 8 := by
  simp only [anyByteEqual, Bool.or_eq_true, beq_iff_eq]
  constructor
  · rintro (((h | h) | h) | h)
    · exact ⟨0, by decide, h⟩
    · exact ⟨1, by decide, h⟩
    · exact ⟨2, by decide, h⟩
    · exact ⟨3, by decide, h⟩
  · rintro ⟨k, hk, h⟩
    interval_cases k
    · exact .inl (.inl (.inl h))
    · exact .inl (.inl (.inr h))
    · exact .inl (.inr h)
    · exact .inr h

theorem anyHalfEqual_iff (a b : Word) :
    anyHalfEqual a b = true ↔ ∃ k, k < 2 ∧ a.extractLsb' (16 * k) 16 = b.extractLsb' (16 * k) 16 := by
  simp only [anyHalfEqual, Bool.or_eq_true, beq_iff_eq]
  constructor
  · rintro (h | h)
    · exact ⟨0, by decide, h⟩
    · exact ⟨1, by decide, h⟩
  · rintro ⟨k, hk, h⟩
    interval_cases k
    · exact .inl h
    · exact .inr h

/-- The predicates of the result string by their bits (41_integer_arith.md R452). -/
def comparePredicate (a b : Word) : Nat → Bool
  | 2 => decide (a = b)
  | 3 => decide (a ≠ b)
  | 4 => decide (b.toInt < a.toInt)
  | 5 => decide (a.toInt ≤ b.toInt)
  | 6 => decide (a.toInt < b.toInt)
  | 7 => decide (b.toInt ≤ a.toInt)
  | 8 => decide (b.toNat < a.toNat)
  | 9 => decide (a.toNat ≤ b.toNat)
  | 10 => decide (a.toNat < b.toNat)
  | 11 => decide (b.toNat ≤ a.toNat)
  | 12 => anyByteEqual a b
  | 13 => !anyByteEqual a b
  | 14 => anyHalfEqual a b
  | 15 => !anyHalfEqual a b
  | _ => false

theorem compareString_bit (a b : Word) (i : Nat) : (compareString a b).getLsbD i = comparePredicate a b i := by
  simp only [compareString, BitVec.getLsbD_or, stringBit_bit, Nat.reduceLT]
  unfold comparePredicate
  split
  case h_15 => simp_all
  all_goals simp [bne, beq_eq_decide]

/-- Each of the fourteen predicates stands at its own bit. -/
theorem isCompareString_compareString (a b : Word) : IsCompareString a b (compareString a b) := by
  simp only [IsCompareString, compareString_bit, comparePredicate, anyByteEqual_iff, anyHalfEqual_iff, true_and]
  intro i outside
  split
  any_goals omega
  rfl

/-- Settles O10: both forms write the result string of their operands. -/
theorem compareGivesTheResultString : Obligations.CompareGivesTheResultString := by
  unfold Obligations.CompareGivesTheResultString
  exact fun s d s1 s2 imm => ⟨⟨_, isCompareString_compareString _ _, does_of_result rfl⟩,
    ⟨_, isCompareString_compareString _ (imm16 s imm), does_of_result rfl⟩⟩

/-! ### Products and quotients -/

section
variable {i : Instr} {s : State} {d : RegNum}

theorem does_of_pairResult {n : Nat} (h : exec i s = done (writePair s d (BitVec.ofNat 64 n)))
    (fits : n < 18446744073709551616) (even : d.toNat % 2 = 0) :
    ∃ hi lo : Word, hi.toNat * 4294967296 + lo.toNat = n ∧ Does i s (SetsPair d hi lo s) := by
  refine ⟨_, _, ?_, _, h, setsPair_advance_writePair s d _ even⟩
  rw [ofNat_high_half, ofNat_low_half, BitVec.toNat_ofNat, BitVec.toNat_ofNat]
  omega

/-- An unsigned quotient of a dividend that fits fits. -/
theorem quotient_toNat {w m : Nat} (fits : m < 2 ^ w) (n : Nat) : (BitVec.ofNat w (m / n)).toNat = m / n := by
  rw [BitVec.toNat_ofNat, Nat.mod_eq_of_lt (Nat.lt_of_le_of_lt (Nat.div_le_self m n) fits)]

/-- Truncated division leaves the signed words only where the most negative one is divided by -1. -/
theorem quotient_toInt {a b : Word} (h : ¬ (a = 0x80000000#32 ∧ b = 0xFFFFFFFF#32)) :
    (BitVec.ofInt 32 (a.toInt.tdiv b.toInt)).toInt = a.toInt.tdiv b.toInt := by
  rw [BitVec.toInt_ofInt, ← BitVec.toInt_sdiv]
  exact BitVec.toInt_sdiv_of_ne_or_ne a b (not_and_or.1 h)

theorem does_of_divUnsigned {a b : Word} {n : Nat} (h : exec i s = divUnsigned d a b s) (divisor : b.toNat = n) :
    if n = 0 then Does i s (Enters 8#9 s) else ∃ v : Word, v.toNat = a.toNat / n ∧ Does i s (Sets d v s) := by
  subst divisor
  have zero : b = 0#32 ↔ b.toNat = 0 := BitVec.toNat_eq
  rw [divUnsigned, if_congr zero rfl rfl] at h
  split
  · next hb => exact does_of_raise (h.trans (if_pos hb))
  · next hb => exact ⟨_, quotient_toNat a.isLt b.toNat, does_of_result (h.trans (if_neg hb))⟩

theorem does_of_divSigned {a b : Word} {k : Int} (h : exec i s = divSigned d a b s) (divisor : b.toInt = k) :
    if k = 0 then Does i s (Enters 8#9 s)
    else if a.toInt = -2147483648 ∧ k = -1 then Does i s (Enters 9#9 s)
    else ∃ v : Word, v.toInt = a.toInt.tdiv k ∧ Does i s (Sets d v s) := by
  subst divisor
  have zero : b = 0#32 ↔ b.toInt = 0 := BitVec.toInt_inj.symm
  have lowest : a = 0x80000000#32 ↔ a.toInt = -2147483648 := BitVec.toInt_inj.symm
  have minusOne : b = 0xFFFFFFFF#32 ↔ b.toInt = -1 := BitVec.toInt_inj.symm
  simp only [← zero, ← lowest, ← minusOne]
  unfold divSigned at h
  split_ifs at h ⊢
  · exact does_of_raise h
  · exact does_of_raise h
  · next inside => exact ⟨_, quotient_toInt inside, does_of_result h⟩

end

section
variable (d s1 s2 : RegNum) (s : State)

theorem execMuls_eq : execMuls d s1 s2 s =
    if FitsWord ((readReg s s1).toInt * (readReg s s2).toInt) then
      result d (BitVec.ofInt 32 ((readReg s s1).toInt * (readReg s s2).toInt)) s
    else raise .integerOverflow s := by
  have outside (p : Int) : (p < -2147483648 ∨ 2147483647 < p) ↔ ¬ FitsWord p := by omega
  simp only [execMuls, productSigned, outside, ite_not]

theorem execMuluD_eq : execMuluD d s1 s2 s =
    if d.toNat % 2 = 0 then done (writePair s d (BitVec.ofNat 64 ((readReg s s1).toNat * (readReg s s2).toNat)))
    else raise .unimplementedOpcode s := by
  have odd : oddReg d = true ↔ ¬ d.toNat % 2 = 0 := by rw [oddReg_eq, decide_eq_true_iff, Nat.mod_two_not_eq_zero]
  rw [execMuluD, if_congr odd rfl rfl, ite_not]

theorem execDivuD_eq : execDivuD d s1 s2 s =
    if d.toNat % 2 = 1 ∨ s1.toNat % 2 = 1 then raise .unimplementedOpcode s
    else if (readReg s s2).toNat = 0 then raise .divideByZero s
    else done (writePair s d (BitVec.ofNat 64
      (((readReg s s1).toNat * 4294967296 + (readReg s (s1 + 1#5)).toNat) / (readReg s s2).toNat))) := by
  have odd : (oddReg d || oddReg s1) = true ↔ d.toNat % 2 = 1 ∨ s1.toNat % 2 = 1 := by
    rw [Bool.or_eq_true, oddReg_eq, oddReg_eq, decide_eq_true_iff, decide_eq_true_iff]
  have zero : readReg s s2 = 0#32 ↔ (readReg s s2).toNat = 0 := BitVec.toNat_eq
  rw [execDivuD, readPair_toNat, if_congr odd rfl (if_congr zero rfl rfl)]

end

/-- Settles O11: the products are exact in 64 bits, and muls overflows when its product is no signed word. -/
theorem integerMultiply : Obligations.IntegerMultiply := by
  unfold Obligations.IntegerMultiply
  intro s d s1 s2 imm a b product
  refine ⟨⟨_, BitVec.toNat_mul .., does_of_result rfl⟩, ⟨a * immLow imm, ?mulu, does_of_result rfl⟩, ?mulD,
    does_of_signedResult (execMuls_eq ..) ofInt_toInt does_of_result⟩
  case mulu => rw [BitVec.toNat_mul, immLow_toNat]
  case mulD =>
    have pair : exec (.muluD d s1 s2) s = _ := execMuluD_eq d s1 s2 s
    split
    · next even => exact does_of_pairResult (pair.trans (if_pos even)) (Nat.mul_lt_mul'' a.isLt b.isLt) even
    · next odd => exact does_of_raise (pair.trans (if_neg odd))

/-- Settles O12: the exceptions in their order, and each quotient fits its destination. -/
theorem integerDivide : Obligations.IntegerDivide := by
  unfold Obligations.IntegerDivide
  intro s d s1 s2 imm a b n m k j
  refine ⟨does_of_divUnsigned rfl rfl, does_of_divUnsigned rfl (immLow_toNat imm), ?divD, does_of_divSigned rfl rfl,
    does_of_divSigned rfl (imm16_toInt s imm)⟩
  case divD =>
    have pair : exec (.divuD d s1 s2) s = _ := execDivuD_eq d s1 s2 s
    have quotient : n / b < 18446744073709551616 := Nat.lt_of_le_of_lt (Nat.div_le_self n b) (by omega)
    split_ifs at pair ⊢
    · exact does_of_raise pair
    · exact does_of_raise pair
    · next even _ => exact does_of_pairResult pair quotient (by omega)

end Sys2Proof.Machine

/-! ## The carry bit -/

namespace Sys2Proof.Machine

/-! ### What leaves PSR -/

theorem AccessKeeps.psr {s u : State} (h : AccessKeeps s u) : u.psr = s.psr := by rw [h.frame]

theorem Faults.psr {s u : State} (h : Faults s u) : u.psr = s.psr := by rw [h.frame]

theorem CacheKeeps.psr {s u : State} (h : CacheKeeps s u) : u.psr = s.psr := h.access.psr

@[simp] theorem setMmu_psr (side : Side) (s : State) (m : Mmu) : (setMmu side s m).psr = s.psr := by cases side <;> rfl

theorem TranslateKeeps.psr {side : Side} {s u : State} (h : TranslateKeeps side s u) : u.psr = s.psr := by
  rw [h.frame, setMmu_psr]

@[simp] theorem recordFault_psr (side : Side) (su : Bool) (la : Word) (f : MemFault) (s : State) :
    (recordFault side su la f s).psr = s.psr := by
  rw [recordFault_frame, setMmu_psr]

@[simp] theorem probe_psr (side : Side) (su : Bool) (s : State) : (probe side su s).psr = s.psr := by
  have page := translateKeeps_pickOne side (patcMatches (mmuOf side s) su (mmuOf side s).sar) s
  have block := page.trans (translateKeeps_pickOne side (batcMatches (mmuOf side s) su (mmuOf side s).sar) _)
  rw [probe, (translateKeeps_setPort ..).psr, setMmu_psr, block.psr]

@[simp] theorem writeXNarrow_psr (s : State) (d : RegNum) (low v : XWord) : (writeXNarrow s d low v).psr = s.psr := by
  unfold writeXNarrow; split <;> simp

@[simp] theorem fpWrite_psr (s : State) (x : Bool) (t : FpSize) (d : RegNum) (v : XWord) :
    (fpWrite s x t d v).psr = s.psr := by
  unfold fpWrite; split
  · cases t <;> simp [writeXSingle, writeXDouble]
  · cases t <;> simp

@[simp] theorem ticTaken_psr (n : Bool) (t : Word) (s : State) : (ticTaken n t s).psr = s.psr := by
  unfold ticTaken; split
  · split <;> rfl
  · rfl

@[simp] theorem writeFcr_psr (n : BitVec 6) (v : Word) (s : State) : (writeFcr n v s).psr = s.psr := by
  unfold writeFcr; split
  · rfl
  · split <;> rfl

/-! ### Parts of an instruction that leave PSR -/

/-- A part of an instruction that leaves PSR, whether it traps or not. -/
def Res.KeepsPsr {α : Type} (s : State) : Res α → Prop
  | .ok _ u => u.psr = s.psr
  | .trap _ u => u.psr = s.psr
  | .stop _ => True

theorem Res.Accesses.keepsPsr {α : Type} {s : State} {r : Res α} (h : r.Accesses s) : r.KeepsPsr s := by
  cases r with
  | ok _ u => exact AccessKeeps.psr h
  | trap _ u => exact Faults.psr h
  | stop _ => trivial

section
variable {s : State} (d : RegNum) (usr : Bool) (ea : Word)

theorem keepsPsr_loadInto (n : Nat) {put : State → Nat → State} (hp : ∀ t v, (put t v).psr = t.psr) :
    (loadInto usr n ea put s).KeepsPsr s := by
  have h := (accesses_loadValue usr n ea s).keepsPsr
  unfold loadInto; split
  · next hs => rw [hs] at h; exact (hp _ _).trans h
  · next hs => rw [hs] at h; exact h
  · trivial

theorem keepsPsr_touchLoad : (touchLoad usr ea s).KeepsPsr s := by
  unfold touchLoad; split
  · rfl
  · have h := accessKeeps_dataAddress (spaceOf s usr) false ea s
    split
    · next hs => rw [hs] at h; exact h.psr
    · next hs => rw [hs] at h; exact (h.trans (cacheKeeps_touch _ _).access).psr

theorem keepsPsr_flushLoad : (flushLoad usr ea s).KeepsPsr s := by
  unfold flushLoad; split
  · rfl
  · split
    · rfl
    · exact (accesses_settle _ _ (accessKeeps_translated fun x u => (cacheKeeps_flushLine _ u).access)
        (faultLegal_translated fun x u => faultLegal_flushLine _ u)).keepsPsr

theorem keepsPsr_allocateLoad : (allocateLoad usr ea s).KeepsPsr s := by
  unfold allocateLoad; split
  · rfl
  · split
    · rfl
    · next a _ =>
      have h := accessKeeps_dataAddress (spaceOf s usr) false a s
      split
      · next hs => rw [hs] at h; exact h.psr
      · next hs => rw [hs] at h; exact (h.trans (cacheKeeps_allocate _ _).access).psr

theorem keepsPsr_loadB : (loadB d usr ea s).KeepsPsr s := by
  unfold loadB; split
  · exact keepsPsr_touchLoad ..
  · exact keepsPsr_loadInto _ _ _ fun _ _ => writeReg_psr ..

theorem keepsPsr_loadH : (loadH d usr ea s).KeepsPsr s := by
  unfold loadH; split
  · exact keepsPsr_allocateLoad ..
  · exact keepsPsr_loadInto _ _ _ fun _ _ => writeReg_psr ..

theorem keepsPsr_loadW : (loadW d usr ea s).KeepsPsr s := by
  unfold loadW; split
  · exact keepsPsr_flushLoad ..
  · exact keepsPsr_loadInto _ _ _ fun _ _ => writeReg_psr ..

theorem keepsPsr_loadD : (loadD d usr ea s).KeepsPsr s := by
  unfold loadD; split
  · rfl
  · split
    · rfl
    · exact keepsPsr_loadInto _ _ _ fun _ _ => writePair_psr ..

theorem keepsPsr_storeD (wt : Bool) : (storeD d usr wt ea s).KeepsPsr s := by
  unfold storeD; split
  · rfl
  · split
    · rfl
    · exact (accesses_storeValue ..).keepsPsr

theorem keepsPsr_exchangeReg (n : Nat) : (exchangeReg d usr n ea s).KeepsPsr s := by
  have h := (accesses_exchangeAt usr n ea (readReg s d).toNat s).keepsPsr
  unfold exchangeReg; split
  · next hs => rw [hs] at h; exact (writeReg_psr ..).trans h
  · next hs => rw [hs] at h; exact h
  · trivial

end

/-! ### Control registers other than PSR -/

section
variable (side : Side) (s : State)

theorem keepsPsr_readMmuReg (k : Nat) : (readMmuReg side k s).KeepsPsr s := by
  simp only [readMmuReg]; split
  case h_6 => exact setMmu_psr ..
  case h_7 =>
    unfold readPatcUpper; split
    · trivial
    · exact setMmu_psr ..
  all_goals rfl

theorem keepsPsr_writePatcLower (v : Word) : (writePatcLower side v s).KeepsPsr s := by
  simp only [writePatcLower]; split
  · exact setMmu_psr ..
  · cases side
    · trivial
    · simp only; split
      · rfl
      · split
        · rfl
        · trivial

theorem keepsPsr_writeMmuReg (k : Nat) (v : Word) : (writeMmuReg side k v s).KeepsPsr s := by
  simp only [writeMmuReg]; split
  case h_8 => exact keepsPsr_writePatcLower side s v
  case h_9 =>
    simp only [Res.KeepsPsr]; split
    · rfl
    · exact setMmu_psr ..
  all_goals exact setMmu_psr ..

theorem keepsPsr_instrCommand (v : Word) : (instrCommand v s).KeepsPsr s := by
  unfold instrCommand; split
  case h_3 =>
    simp only [Res.KeepsPsr]
    rw [invalidateILine_frame]
  case h_4 | h_5 => exact probe_psr ..
  case h_6 | h_7 => exact setMmu_psr ..
  all_goals rfl

theorem keepsPsr_flushSets (inv : Bool) (sel : DLine → Bool) (ns : List Nat) :
    (flushed (flushSets inv sel ns s)).KeepsPsr s := by
  have keeps := cacheKeeps_flushSets inv sel ns s
  generalize flushSets inv sel ns s = r at keeps
  cases r with
  | ok _ u => exact keeps.psr
  | fail f u => exact (recordFault_psr ..).trans keeps.psr

theorem keepsPsr_dataCommand (v : Word) : (dataCommand v s).KeepsPsr s := by
  unfold dataCommand; split
  case h_2 | h_13 => rfl
  case h_6 =>
    simp only [Res.KeepsPsr]
    rw [invalidateDLine_frame]
  case h_9 | h_10 => exact probe_psr ..
  case h_11 | h_12 => exact setMmu_psr ..
  all_goals exact keepsPsr_flushSets ..

theorem keepsPsr_readCr (n : BitVec 6) : (readCr n s).KeepsPsr s := by
  unfold readCr; split
  · rfl
  · split
    case h_16 => split <;> exact keepsPsr_readMmuReg ..
    all_goals rfl

variable {n : BitVec 6} (hn : n ≠ 1#6) (v : Word)
include hn

/-- Of the control registers only cr1 is PSR (10_state.md R30). -/
theorem keepsPsr_writeCr : (writeCr n v s).KeepsPsr s := by
  unfold writeCr; split
  · rfl
  · split
    case h_2 h => exact (hn (crNumber h)).elim
    case h_14 => exact keepsPsr_instrCommand s v
    case h_15 => exact keepsPsr_dataCommand s v
    case h_16 => split <;> exact keepsPsr_writeMmuReg ..
    all_goals rfl

theorem keepsPsr_writeCrFrom : (writeCrFrom n v s).KeepsPsr s := by
  have h := keepsPsr_writeCr s hn v
  unfold writeCrFrom; split
  · next hs => rw [hs] at h; exact h
  · next hs => rw [hs] at h; exact h
  · trivial

theorem keepsPsr_exchangeCr (d : RegNum) : (exchangeCr d n v s).KeepsPsr s := by
  have read := keepsPsr_readCr s n
  unfold exchangeCr; split
  · next u hs =>
    rw [hs] at read
    have written := keepsPsr_writeCrFrom u hn v
    split
    · next ht => rw [ht] at written; exact (writeReg_psr ..).trans (written.trans read)
    · next ht => rw [ht] at written; exact written.trans read
    · trivial
  · next hs => rw [hs] at read; exact read
  · trivial

omit hn

theorem keepsPsr_readCrInto (d : RegNum) (n : BitVec 6) : (readCrInto d n s).KeepsPsr s := by
  have h := keepsPsr_readCr s n
  unfold readCrInto; split
  · next hs => rw [hs] at h; exact (writeReg_psr ..).trans h
  · next hs => rw [hs] at h; exact h
  · trivial

end

/-! ### Ends of an instruction that leave the carry -/

/-- An outcome whose next state, if there is one, has the carry of s. -/
def KeepsCarry (s : State) : Host.Outcome State Fault Refusal → Prop
  | .next t => psrCarry t = psrCarry s
  | .fault _ => True
  | .refused _ => True

section
variable {s u : State} (h : u.psr = s.psr)
include h

theorem keepsCarry_next : KeepsCarry s (.next u) := congrArg (BitVec.getLsbD · 28) h

theorem keepsCarry_done : KeepsCarry s (done u) := keepsCarry_next h

theorem keepsCarry_result (d : RegNum) (v : Word) : KeepsCarry s (result d v u) :=
  keepsCarry_next ((writeReg_psr u d v).trans h)

/-- Entering an exception leaves the carry (60_exceptions.md R720). -/
theorem keepsCarry_raise (e : Exc) : KeepsCarry s (raise e u) :=
  (takeException_psr_bit e u 28 (by decide)).trans (keepsCarry_next h)

end

section
variable {s : State}

theorem keepsCarry_finish {r : Res Unit} (h : r.KeepsPsr s) : KeepsCarry s (finish r) := by
  cases r with
  | ok _ u => exact keepsCarry_next h
  | trap e u => exact keepsCarry_raise h e
  | stop f => trivial

theorem keepsCarry_privileged {k : State → Res Unit} (h : (k s).KeepsPsr s) :
    KeepsCarry s (finish (privileged s k)) := by
  unfold privileged; split
  · exact keepsCarry_finish h
  · exact keepsCarry_raise rfl _

theorem keepsCarry_raiseReserved (space : OpcodeSpace) : KeepsCarry s (raiseReserved space s) := by
  cases space
  case sfu1 => exact keepsCarry_raise rfl .sfu1
  all_goals exact keepsCarry_raise rfl _

theorem keepsCarry_addTrapping (d : RegNum) (a b : Word) (c : Bool) : KeepsCarry s (addTrapping d a b c false s) := by
  unfold addTrapping; split
  · exact keepsCarry_raise rfl _
  · exact keepsCarry_result rfl _ _

theorem keepsCarry_subTrapping (d : RegNum) (a b : Word) (c : Bool) : KeepsCarry s (subTrapping d a b c false s) := by
  unfold subTrapping; split
  · exact keepsCarry_raise rfl _
  · exact keepsCarry_result rfl _ _

theorem keepsCarry_divUnsigned (d : RegNum) (a b : Word) : KeepsCarry s (divUnsigned d a b s) := by
  unfold divUnsigned; split
  · exact keepsCarry_raise rfl _
  · exact keepsCarry_result rfl _ _

theorem keepsCarry_divSigned (d : RegNum) (a b : Word) : KeepsCarry s (divSigned d a b s) := by
  unfold divSigned; split
  · exact keepsCarry_raise rfl _
  · split
    · exact keepsCarry_raise rfl _
    · exact keepsCarry_result rfl _ _

theorem keepsCarry_execDivuD (d s1 s2 : RegNum) : KeepsCarry s (execDivuD d s1 s2 s) := by
  unfold execDivuD; split
  · exact keepsCarry_raise rfl _
  · split
    · exact keepsCarry_raise rfl _
    · exact keepsCarry_done (writePair_psr ..)

theorem keepsCarry_execMuluD (d s1 s2 : RegNum) : KeepsCarry s (execMuluD d s1 s2 s) := by
  unfold execMuluD; split
  · exact keepsCarry_raise rfl _
  · exact keepsCarry_done (writePair_psr ..)

theorem keepsCarry_execMuls (d s1 s2 : RegNum) : KeepsCarry s (execMuls d s1 s2 s) := by
  rw [execMuls_eq]; split
  · exact keepsCarry_result rfl _ _
  · exact keepsCarry_raise rfl _

theorem keepsCarry_takeBranch (n : Bool) (t : Word) {u : State} (h : u.psr = s.psr) :
    KeepsCarry s (takeBranch n t u) :=
  keepsCarry_next (by rw [branchTo_psr, ticTaken_psr, h])

theorem keepsCarry_branchIf (predicted c n : Bool) (t : Word) : KeepsCarry s (branchIf predicted c n t s) := by
  have path := (cacheKeeps_wrongPath predicted c n t s).psr
  simp only [branchIf]; split
  · exact keepsCarry_takeBranch n t path
  · exact keepsCarry_next path

theorem keepsCarry_takeJump (n : Bool) (t : Word) {u : State} (h : u.psr = s.psr) : KeepsCarry s (takeJump n t u) :=
  keepsCarry_next (by rw [branchTo_psr, ticSkip_psr, h])

theorem keepsCarry_trapIf (c : Bool) (vec : BitVec 9) : KeepsCarry s (trapIf c vec s) := by
  unfold trapIf; split
  · exact keepsCarry_raise rfl _
  · split
    · exact keepsCarry_raise rfl _
    · exact keepsCarry_done rfl

theorem keepsCarry_boundsCheck (a bound : Word) : KeepsCarry s (boundsCheck a bound s) := by
  unfold boundsCheck; split
  · exact keepsCarry_raise rfl _
  · exact keepsCarry_done rfl

theorem keepsCarry_fpChecked (usable : Bool) {k : State → Host.Outcome State Fault Refusal} (h : KeepsCarry s (k s)) :
    KeepsCarry s (fpChecked usable s k) := by
  unfold fpChecked; split
  · exact keepsCarry_raise rfl .sfu1
  · exact h

theorem keepsCarry_fpFinish (x : Bool) (t : FpSize) (d : RegNum) (r : FpOut) : KeepsCarry s (fpFinish x t d r s) := by
  cases r with
  | value v a => exact keepsCarry_done (by rw [fpWrite_psr, setAfinx_psr])
  | trap c => exact keepsCarry_raise rfl .sfu1

theorem keepsCarry_intFinish (d : RegNum) (r : IntOut) : KeepsCarry s (intFinish d r s) := by
  cases r with
  | value v a => exact keepsCarry_result (setAfinx_psr ..) d v
  | trap c => exact keepsCarry_raise rfl .sfu1

theorem keepsCarry_gfxChecked (usable : Bool) {k : State → Host.Outcome State Fault Refusal} (h : KeepsCarry s (k s)) :
    KeepsCarry s (gfxChecked usable s k) := by
  unfold gfxChecked; split
  · exact keepsCarry_raise rfl _
  · exact h

theorem keepsCarry_gfxPair (usable : Bool) (d : RegNum) (f : State → DWord) :
    KeepsCarry s (gfxChecked usable s fun u => done (writePair u d (f u))) :=
  keepsCarry_gfxChecked usable (keepsCarry_done (writePair_psr s d (f s)))

theorem keepsCarry_pixelOp (f : Nat → Nat → Nat → Nat) (d s1 : RegNum) (t : PackSize) (s2 : RegNum) :
    KeepsCarry s (pixelOp f d s1 t s2 s) := keepsCarry_gfxPair ..

theorem keepsCarry_execPmul (d s1 s2 : RegNum) : KeepsCarry s (execPmul d s1 s2 s) := keepsCarry_gfxPair ..

theorem keepsCarry_execPpack (d s1 : RegNum) (r : BitVec 4) (t : PackSize) (s2 : RegNum) :
    KeepsCarry s (execPpack d s1 r t s2 s) := keepsCarry_gfxPair ..

theorem keepsCarry_execPunpk (d s1 : RegNum) (t : PackSize) : KeepsCarry s (execPunpk d s1 t s) :=
  keepsCarry_gfxPair ..

theorem keepsCarry_execProtImm (d s1 : RegNum) (r : BitVec 4) : KeepsCarry s (execProtImm d s1 r s) :=
  keepsCarry_gfxPair ..

theorem keepsCarry_execProtReg (d s1 s2 : RegNum) : KeepsCarry s (execProtReg d s1 s2 s) := keepsCarry_gfxPair ..

theorem keepsCarry_execPcmp (d s1 s2 : RegNum) : KeepsCarry s (execPcmp d s1 s2 s) :=
  keepsCarry_gfxChecked _ (keepsCarry_result rfl d _)

theorem keepsCarry_execMovToGrf (d : RegNum) (dbl : Bool) (s2 : RegNum) : KeepsCarry s (execMovToGrf d dbl s2 s) :=
  keepsCarry_fpChecked _ (keepsCarry_done (fpWrite_psr s false _ d _))

theorem keepsCarry_execMovToXrf (d : RegNum) (dbl : Bool) (s2 : RegNum) : KeepsCarry s (execMovToXrf d dbl s2 s) :=
  keepsCarry_fpChecked _ (keepsCarry_done (fpWrite_psr s true _ d _))

theorem keepsCarry_execMovXrf (d s2 : RegNum) : KeepsCarry s (execMovXrf d s2 s) :=
  keepsCarry_fpChecked _ (keepsCarry_done (writeX_psr s d _))

variable {n : BitVec 6}

theorem keepsCarry_execStcr (s1 s2 : RegNum) (hn : s1 = s2 → n ≠ 1#6) : KeepsCarry s (execStcr s1 n s2 s) := by
  unfold execStcr; split
  · next same => exact keepsCarry_privileged (keepsPsr_writeCrFrom s (hn same) _)
  · exact keepsCarry_raiseReserved _

theorem keepsCarry_execXcr (d s1 s2 : RegNum) (hn : s1 = s2 → n ≠ 1#6) : KeepsCarry s (execXcr d s1 n s2 s) := by
  unfold execXcr; split
  · next same => exact keepsCarry_privileged (keepsPsr_exchangeCr s (hn same) _ d)
  · exact keepsCarry_raiseReserved _

theorem keepsCarry_execFldcr (d : RegNum) : KeepsCarry s (execFldcr d n s) := by
  unfold execFldcr; split
  · next h => exact keepsCarry_raise (faults_fcrFault h).psr _
  · exact keepsCarry_result rfl _ _

theorem keepsCarry_execFstcr (s1 s2 : RegNum) : KeepsCarry s (execFstcr s1 n s2 s) := by
  unfold execFstcr; split
  · split
    · next h => exact keepsCarry_raise (faults_fcrFault h).psr _
    · exact keepsCarry_done (writeFcr_psr ..)
  · exact keepsCarry_raiseReserved _

theorem keepsCarry_execFxcr (d s1 s2 : RegNum) : KeepsCarry s (execFxcr d s1 n s2 s) := by
  unfold execFxcr; split
  · split
    · next h => exact keepsCarry_raise (faults_fcrFault h).psr _
    · exact keepsCarry_result (writeFcr_psr ..) _ _
  · exact keepsCarry_raiseReserved _

end

/-! ### Every instruction -/

/-- The instructions that may change PSR.C: the carry-out forms, rte, and stcr and xcr of cr1 with one source register
(41_integer_arith.md R440). -/
def MayChangeCarry (i : Instr) : Prop :=
  (∃ d s1 ci s2, i = .addReg d s1 ci true s2 ∨ i = .adduReg d s1 ci true s2 ∨ i = .subReg d s1 ci true s2
      ∨ i = .subuReg d s1 ci true s2)
    ∨ i = .rte ∨ (∃ s1, i = .stcr s1 1#6 s1) ∨ ∃ d s1, i = .xcr d s1 1#6 s1

theorem exec_keepsCarry (i : Instr) (s : State) (hi : ¬ MayChangeCarry i) : KeepsCarry s (exec i s) := by
  cases i with
  | addReg d s1 ci co s2 =>
    cases co
    · exact keepsCarry_addTrapping ..
    · exact (hi (.inl ⟨d, s1, ci, s2, .inl rfl⟩)).elim
  | adduReg d s1 ci co s2 =>
    cases co
    · exact keepsCarry_result rfl _ _
    · exact (hi (.inl ⟨d, s1, ci, s2, .inr (.inl rfl)⟩)).elim
  | subReg d s1 ci co s2 =>
    cases co
    · exact keepsCarry_subTrapping ..
    · exact (hi (.inl ⟨d, s1, ci, s2, .inr (.inr (.inl rfl))⟩)).elim
  | subuReg d s1 ci co s2 =>
    cases co
    · exact keepsCarry_result rfl _ _
    · exact (hi (.inl ⟨d, s1, ci, s2, .inr (.inr (.inr rfl))⟩)).elim
  | rte => exact (hi (.inr (.inl rfl))).elim
  | stcr s1 n s2 =>
    refine keepsCarry_execStcr s1 s2 fun same psr => hi (.inr (.inr (.inl ⟨s1, ?_⟩)))
    rw [psr, ← same]
  | xcr d s1 n s2 =>
    refine keepsCarry_execXcr d s1 s2 fun same psr => hi (.inr (.inr (.inr ⟨d, s1, ?_⟩)))
    rw [psr, ← same]
  | ldcr d n => exact keepsCarry_privileged (keepsPsr_readCrInto s d n)
  | fldcr => exact keepsCarry_execFldcr ..
  | fstcr => exact keepsCarry_execFstcr ..
  | fxcr => exact keepsCarry_execFxcr ..
  | addImm => exact keepsCarry_addTrapping ..
  | subImm => exact keepsCarry_subTrapping ..
  | divuImm | divuReg => exact keepsCarry_divUnsigned ..
  | divsImm | divsReg => exact keepsCarry_divSigned ..
  | divuD => exact keepsCarry_execDivuD ..
  | muluD => exact keepsCarry_execMuluD ..
  | muls => exact keepsCarry_execMuls ..
  | ldXrfDImm | ldXrfD | ldXrfImm | ldXrf =>
    exact keepsCarry_finish (keepsPsr_loadInto _ _ _ fun _ _ => writeXNarrow_psr ..)
  | ldXrfXImm | ldXrfX => exact keepsCarry_finish (keepsPsr_loadInto _ _ _ fun _ _ => writeX_psr ..)
  | ldHuImm | ldHu | ldBuImm | ldBu => exact keepsCarry_finish (keepsPsr_loadInto _ _ _ fun _ _ => writeReg_psr ..)
  | ldDImm | ldD => exact keepsCarry_finish (keepsPsr_loadD ..)
  | ldImm | ld => exact keepsCarry_finish (keepsPsr_loadW ..)
  | ldHImm | ldH => exact keepsCarry_finish (keepsPsr_loadH ..)
  | ldBImm | ldB => exact keepsCarry_finish (keepsPsr_loadB ..)
  | stDImm | stD => exact keepsCarry_finish (keepsPsr_storeD ..)
  | stImm | st | stHImm | stH | stBImm | stB | stXrfDImm | stXrfD | stXrfImm | stXrf | stXrfXImm | stXrfX =>
    exact keepsCarry_finish (accesses_storeValue ..).keepsPsr
  | xmemBu | xmem => exact keepsCarry_finish (keepsPsr_exchangeReg ..)
  | br => exact keepsCarry_takeBranch _ _ rfl
  | bsr => exact keepsCarry_takeBranch _ _ (writeReg_psr ..)
  | bb0 | bb1 | bcnd => exact keepsCarry_branchIf ..
  | jmp => exact keepsCarry_takeJump _ _ rfl
  | jsr => exact keepsCarry_takeJump _ _ (writeReg_psr ..)
  | tb0 | tb1 | tcnd => exact keepsCarry_trapIf ..
  | tbndReg | tbndImm => exact keepsCarry_boundsCheck ..
  | illop1 | illop2 | illop3 => exact keepsCarry_raise rfl _
  | fsqrt => exact keepsCarry_raise rfl .sfu1
  | fmul | fadd | fsub | fdiv | fcvt | flt => exact keepsCarry_fpChecked _ (keepsCarry_fpFinish ..)
  | fcmp | fcmpu | int | nint | trnc => exact keepsCarry_fpChecked _ (keepsCarry_intFinish ..)
  | movToGrf => exact keepsCarry_execMovToGrf ..
  | movToXrf => exact keepsCarry_execMovToXrf ..
  | movXrf => exact keepsCarry_execMovXrf ..
  | padd | paddsU | paddsUs | paddsS | psub | psubsU | psubsUs | psubsS => exact keepsCarry_pixelOp ..
  | pmul => exact keepsCarry_execPmul ..
  | ppack => exact keepsCarry_execPpack ..
  | punpk => exact keepsCarry_execPunpk ..
  | protImm => exact keepsCarry_execProtImm ..
  | protReg => exact keepsCarry_execProtReg ..
  | pcmp => exact keepsCarry_execPcmp ..
  | andImm | andUImm | maskImm | maskUImm | xorImm | xorUImm | orImm | orUImm | andReg | xorReg | orReg | adduImm
    | subuImm | muluImm | muluReg | cmpImm | cmpReg | clrImm | setImm | extImm | extuImm | makImm | rotImm | clrReg
    | setReg | extReg | extuReg | makReg | rotReg | ff1 | ff0 | ldaD | lda | ldaH | ldaX =>
    exact keepsCarry_result rfl _ _

/-- Settles O60: every instruction that is none of the listed forms leaves the carry, however it ends. -/
theorem carryChangesOnlyWhereStated : Obligations.CarryChangesOnlyWhereStated := by
  unfold Obligations.CarryChangesOnlyWhereStated
  intro i s t ht changed
  by_contra other
  have kept := exec_keepsCarry i s other
  rw [ht] at kept
  exact changed kept

end Sys2Proof.Machine

/-! ## Trap instructions -/

namespace Sys2Proof.Machine

section
variable {i : Instr} {s : State} {c : Bool} {vec : BitVec 9} {a bound : Word} {n : Nat}

/-- Completing with nothing written. -/
theorem does_of_done (h : exec i s = done s) : Does i s (FallsThrough s) := ⟨_, h, fallsThrough_advance s⟩

theorem trapIf_privilege (user : psrMode s = false ∧ vec.toNat < 128) : trapIf c vec s = raise .privilege s := by
  rw [trapIf, if_pos (by simp [user])]

theorem trapIf_allowed (allowed : ¬ (psrMode s = false ∧ vec.toNat < 128)) :
    trapIf c vec s = if c then raise (.trap vec) s else done s := by
  rw [trapIf, if_neg (by simpa using allowed)]

theorem does_of_raiseUnimplementedOpcode (h : exec i s = raise .unimplementedOpcode s) : Does i s (Enters 5#9 s) :=
  does_of_raise h

/-- A trap instruction: privilege first, then the condition (46_flow_control.md R680). -/
theorem does_of_trapIf {taken : Bool} (h : exec i s = trapIf c vec s) (condition : c = taken) :
    Does i s fun t => if psrMode s = false ∧ vec.toNat < 128 then Enters 6#9 s t
      else if taken then Enters vec s t else FallsThrough s t := by
  subst condition
  by_cases user : psrMode s = false ∧ vec.toNat < 128
  · simp only [if_pos user]
    exact does_of_raise (h.trans (trapIf_privilege user))
  · simp only [if_neg user]
    rw [trapIf_allowed user] at h
    cases c
    · exact does_of_done h
    · exact does_of_raise h

/-- A bounds check (R684). -/
theorem does_of_boundsCheck (h : exec i s = boundsCheck a bound s) (limit : bound.toNat = n) :
    Does i s fun t => if n < a.toNat then Enters 7#9 s t else FallsThrough s t := by
  subst limit
  rw [boundsCheck] at h
  by_cases above : bound.toNat < a.toNat
  · simp only [if_pos above] at h ⊢
    exact does_of_raise h
  · simp only [if_neg above] at h ⊢
    exact does_of_done h

end

/-- Settles O17: the conditional traps by the check they share, the others always raise. -/
theorem trapInstructions : Obligations.TrapInstructions := by
  unfold Obligations.TrapInstructions
  intro s b s1 s2 d vec imm x t2 td a inMask goes check
  exact ⟨fun _ => ⟨does_of_trapIf rfl rfl, does_of_trapIf rfl rfl, does_of_trapIf rfl (condHolds_eq b a),
      does_of_boundsCheck rfl rfl, does_of_boundsCheck rfl (immLow_toNat imm),
      does_of_raiseUnimplementedOpcode rfl, does_of_raiseUnimplementedOpcode rfl, does_of_raiseUnimplementedOpcode rfl⟩,
    does_of_raiseFunimp rfl⟩

end Sys2Proof.Machine

/-! ## Ends of floating-point instructions -/

namespace Sys2Proof.Machine

/-! ### The accrued inexact bit -/

theorem setAfinx_fpsr_bit (s : State) (a : Bool) (i : Nat) :
    (setAfinx s a).fpsr.getLsbD i = ((decide (i = 0) && a) || s.fpsr.getLsbD i) := by
  cases a
  · simp [setAfinx]
  · have bit : (0x00000001#32 : Word).getLsbD i = decide (i = 0) := getLsbD_twoPow_lit 0 i (by decide)
    simp only [setAfinx, if_true, BitVec.getLsbD_or, bit, Bool.and_true, Bool.or_comm]

theorem setAfinx_afinx (s : State) (a : Bool) : (setAfinx s a).fpsr.getLsbD 0 = (a || s.fpsr.getLsbD 0) := by
  rw [setAfinx_fpsr_bit, decide_eq_true rfl, Bool.true_and]

theorem setAfinx_fpsr_other (s : State) (a : Bool) {i : Nat} (hi : i ≠ 0) :
    (setAfinx s a).fpsr.getLsbD i = s.fpsr.getLsbD i := by
  rw [setAfinx_fpsr_bit, decide_eq_false hi, Bool.false_and, Bool.false_or]

theorem setAfinx_frame (s : State) (a : Bool) : setAfinx s a = { s with fpsr := (setAfinx s a).fpsr } := by
  cases a <;> rfl

/-! ### What a floating-point destination receives -/

/-- The destination holds the image w, FPSR.AFINX is set if a, and nothing else changes (43_floating_point.md R514). -/
structure FpWrites (x : Bool) (td : FpSize) (d : RegNum) (w : XWord) (a : Bool) (s t : State) : Prop where
  image : HoldsImage t x td d w
  afinx : t.fpsr.getLsbD 0 = (a || s.fpsr.getLsbD 0)
  frame : FpFrame x td d s t

theorem Does.imp {i : Instr} {s : State} {P Q : State → Prop} (h : Does i s P) (k : ∀ t, P t → Q t) : Does i s Q := by
  obtain ⟨t, ends, holds⟩ := h
  exact ⟨t, ends, k t holds⟩

/-- The operands that pass the checks of R495. -/
theorem fpUsable_cases {x : Bool} {td : FpSize} {d : RegNum} (h : fpUsable x td d = true) :
    (x = true ∧ (td = .single ∨ td = .double ∨ td = .ext)) ∨ (x = false ∧ td = .single)
      ∨ (x = false ∧ td = .double ∧ d.toNat % 2 = 0) := by
  cases x <;> cases td <;> simp_all [fpUsable, FpSize.legal, oddReg_eq]

section
variable {s t : State} {x : Bool} {d : RegNum} {a : Bool} {td : FpSize}

/-- A write of an extended register leaves what the frame of a floating-point instruction leaves. -/
theorem fpWrites_of_fallsThroughX {width v : Nat} {w : XWord} (h : FallsThroughX d width v (setAfinx s a) t)
    (image : HoldsImage t true td d w) : FpWrites true td d w a s t where
  image := image
  afinx := by rw [h.writes.fpsr 0 (by decide), setAfinx_afinx]; simp
  frame :=
    { general := fun r _ => by rw [h.registers r, readReg_congr (setAfinx_gpr s a)]
      extended := fun r other => by
        rw [h.writes.others r fun same => (other rfl).resolve_left (not_not_intro same), readX_congr (setAfinx_xrf s a)]
      fpsr := fun i hi nonzero => by rw [h.writes.fpsr i hi, setAfinx_fpsr_other s a nonzero]; simp
      frame := by rw [h.frame, setAfinx_frame]
      memory := fun b => by rw [h.memory b, readByte_congr (setAfinx_mem s a)] }

/-- So does a write of the general file, which leaves the extended one and FPSR. -/
theorem fpWrites_of_general {w : XWord} (image : HoldsImage t false td d w)
    (others : ∀ r, r ≠ d ∧ (td = .double → r ≠ d + 1#5) → readReg t r = readReg (setAfinx s a) r)
    (frame : t = { setAfinx s a with gpr := t.gpr, xip := s.nip, nip := s.nip + 4#32, ds := false })
    (memory : SameMemory (setAfinx s a) t) : FpWrites false td d w a s t where
  image := image
  afinx := by rw [frame]; exact setAfinx_afinx s a
  frame :=
    { general := fun r other => by rw [others r (other rfl), readReg_congr (setAfinx_gpr s a)]
      extended := fun r _ => readX_congr (by rw [frame]; exact setAfinx_xrf s a) r
      fpsr := fun i _ nonzero => by rw [frame]; simp [setAfinx_fpsr_other s a nonzero]
      frame := by rw [frame, setAfinx_frame]
      memory := fun b => by rw [memory b, readByte_congr (setAfinx_mem s a)] }

theorem fpWrites_advance (usable : fpUsable x td d = true) (w : XWord) :
    FpWrites x td d w a s (advance (fpWrite (setAfinx s a) x td d w)) := by
  obtain ⟨rfl, rfl | rfl | rfl⟩ | ⟨rfl, rfl⟩ | ⟨rfl, rfl, even⟩ := fpUsable_cases usable
  · have written := fallsThroughX_writeXSingle (setAfinx s a) d (w.extractLsb' 48 32)
    exact fpWrites_of_fallsThroughX written fun nonzero =>
      BitVec.eq_of_toNat_eq ((extractLsb'_top_toNat _ rfl).trans (written.writes.value nonzero))
  · have written := fallsThroughX_writeXDouble (setAfinx s a) d (w.extractLsb' 16 64)
    exact fpWrites_of_fallsThroughX written fun nonzero =>
      BitVec.eq_of_toNat_eq ((extractLsb'_top_toNat _ rfl).trans (written.writes.value nonzero))
  · exact fpWrites_of_fallsThroughX (fallsThroughX_writeX (setAfinx s a) d w) fun nonzero =>
      (readX_writeX ..).trans (if_pos ⟨rfl, nonzero⟩)
  · have written := sets_advance_writeReg (setAfinx s a) d (w.extractLsb' 48 32)
    refine fpWrites_of_general (fun nonzero => (written.reads d).trans (if_pos ⟨rfl, nonzero⟩))
      (fun r other => (written.reads r).trans (if_neg fun same => other.1 same.1)) ?_ written.memory
    rw [← setAfinx_nip s a]; exact written.frame
  · have written := setsPair_advance_writePair (setAfinx s a) d (w.extractLsb' 16 64) even
    rw [extractLsb'_extractLsb' _ (by omega), extractLsb'_extractLsb' _ (by omega)] at written
    have apart := (even_succ d even).1
    refine fpWrites_of_general ⟨fun nonzero => ?_, (written.reads _).trans (if_pos rfl)⟩
      (fun r other => ?_) ?_ written.memory
    · exact (written.reads d).trans ((if_neg apart.symm).trans (if_pos ⟨rfl, nonzero⟩))
    · exact (written.reads r).trans ((if_neg (other.2 rfl)).trans (if_neg fun same => other.1 same.1))
    · rw [← setAfinx_nip s a]; exact written.frame

end

section
variable {i : Instr} {s : State} {x : Bool} {td : FpSize} {d : RegNum}

/-- An instruction that delivers a value to a floating-point destination. -/
theorem does_of_fpFinish_value {v : FpVal} {a : Bool} (h : exec i s = fpFinish x td d (.value v a) s)
    (usable : fpUsable x td d = true) : Does i s (FpWrites x td d (fpPack td v) a s) :=
  ⟨_, h, fpWrites_advance usable _⟩

/-- An SFU1 exception writes exactly its causes into FPECR (43_floating_point.md R496). -/
theorem does_of_raiseSfu1 {c : Word} (h : exec i s = raise .sfu1 (setFpecr s c)) (legal : c &&& 0xFF#32 = c) :
    Does i s (EntersSfu1 c s) := by
  have entered := enters_takeException .sfu1 (setFpecr s c)
  simp only [setFpecr, legal] at entered h
  exact ⟨_, h, entered⟩

theorem does_of_fpFinish_trap {c : Word} (h : exec i s = fpFinish x td d (.trap c) s) (legal : c &&& 0xFF#32 = c) :
    Does i s (EntersSfu1 c s) := does_of_raiseSfu1 h legal

theorem does_of_intFinish_trap {c : Word} (h : exec i s = intFinish d (.trap c) s) (legal : c &&& 0xFF#32 = c) :
    Does i s (EntersSfu1 c s) := does_of_raiseSfu1 h legal

/-- r[d] receives v, FPSR.AFINX is set if a, and nothing else changes. -/
structure IntWrites (d : RegNum) (v : Word) (a : Bool) (s t : State) : Prop where
  sets : Sets d v { s with fpsr := t.fpsr } t
  afinx : t.fpsr.getLsbD 0 = (a || s.fpsr.getLsbD 0)
  fpsr : ∀ j, j < 32 → j ≠ 0 → t.fpsr.getLsbD j = s.fpsr.getLsbD j

/-- An instruction that delivers a word to a general register. -/
theorem does_of_intFinish_value {v : Word} {a : Bool} (h : exec i s = intFinish d (.value v a) s) :
    Does i s (IntWrites d v a s) := by
  have written := sets_advance_writeReg (setAfinx s a) d v
  refine ⟨_, h, ?_, ?_, fun j _ nonzero => ?_⟩
  · rw [setAfinx_frame] at written ⊢
    rw [advance_fpsr, writeReg_fpsr]
    exact written
  · rw [advance_fpsr, writeReg_fpsr, setAfinx_afinx]
  · rw [advance_fpsr, writeReg_fpsr, setAfinx_fpsr_other s a nonzero]

/-- A word delivered without an inexact result is all that changes. -/
theorem does_of_intFinish_exact {v : Word} (h : exec i s = intFinish d (.value v false) s) : Does i s (Sets d v s) :=
  does_of_result h

end

end Sys2Proof.Machine

/-! ## Floating-point formats -/

namespace Sys2Proof.Machine

/-! ### The fields of an assembled word (43_floating_point.md R490) -/

theorem fpTop_eq (t : FpSize) : fpTop t = 2 * fpBias t + 1 := by cases t <;> rfl

theorem fpPrec_bounds (t : FpSize) : 24 ≤ fpPrec t ∧ fpPrec t ≤ 64 := by cases t <;> decide

theorem fpBias_bounds (t : FpSize) : 127 ≤ fpBias t ∧ fpPrec t + 100 ≤ fpBias t := by cases t <;> decide

section
variable (t : FpSize) (n lead : Bool) {e m : Nat}

theorem sign_fpAssemble (e m : Nat) : (fpAssemble t n e lead m).getLsbD 79 = n := by
  have bit (v : XWord) : v.getLsbD 79 = (v.extractLsb' 79 1).getLsbD 0 := by simp
  have field : (fpAssemble t n e lead m).extractLsb' 79 1 = BitVec.ofBool n := by
    cases t <;> simp (disch := decide) only [fpAssemble, slice_high, slice_all, Nat.reduceSub]
  rw [bit, field]
  cases n <;> rfl

theorem fpExponent_fpAssemble (he : e ≤ fpTop t) (m : Nat) : fpExponent t (fpAssemble t n e lead m) = e := by
  cases t <;>
    simp (disch := decide) only [fpExponent, fpAssemble, slice_high, slice_low, slice_all, Nat.reduceSub,
      BitVec.toNat_ofNat] <;>
    exact Nat.mod_eq_of_lt (Nat.lt_succ_of_le he)

theorem fpFraction_fpAssemble (hm : m < 2 ^ (fpPrec t - 1)) (e : Nat) :
    fpFraction t (fpAssemble t n e lead m) = m := by
  cases t <;>
    simp (disch := decide) only [fpFraction, fpAssemble, slice_high, slice_low, slice_all, Nat.reduceSub,
      BitVec.toNat_ofNat] <;>
    exact Nat.mod_eq_of_lt hm

/-- The leading bit of a word with a leading bit of one: hidden behind a nonzero exponent, or written out. -/
theorem fpLeading_fpAssemble (he : e ≤ fpTop t) (nonzero : e ≠ 0) (m : Nat) :
    fpLeading t (fpAssemble t n e true m) = true := by
  have bit (v : XWord) : v.getLsbD 63 = (v.extractLsb' 63 1).getLsbD 0 := by simp
  cases t
  case single | double => simpa only [fpLeading, fpExponent_fpAssemble _ n true he, bne_iff_ne] using nonzero
  case ext | unused =>
    rw [fpLeading, bit]
    simp (disch := decide) only [fpAssemble, slice_high, slice_low, slice_all, Nat.reduceSub]
    rfl

end

/-! ### What is written is read back (R490, R491, R498, R499) -/

section
variable (t : FpSize) (n : Bool)

theorem fpUnpack_fpPack_zero : fpUnpack t (fpPack t (.zero n)) = .zero n := by
  cases t <;> cases n <;> rfl

theorem fpUnpack_fpPack_inf : fpUnpack t (fpPack t (.inf n)) = .inf n := by
  cases t <;> cases n <;> rfl

/-- The leading bit of a zero and of an infinity is clear (R499). -/
theorem fpPack_zero_leading : (fpPack t (.zero n)).getLsbD 63 = false := by
  cases t <;> cases n <;> rfl

theorem fpPack_inf_leading : (fpPack t (.inf n)).getLsbD 63 = false := by
  cases t <;> cases n <;> rfl

theorem fpPack_nan : fpPack t (.nan n) = universalNan t n := by
  cases t <;> cases n <;> rfl

/-- A number with the precision and the exponent range of the format is read back as it was. -/
theorem fpUnpack_fpPack_num {m : Nat} {e : Int} (low : 2 ^ (fpPrec t - 1) ≤ m) (high : m < 2 ^ fpPrec t)
    (least : 1 - (fpBias t : Int) ≤ e + (fpPrec t : Int) - 1) (most : e + (fpPrec t : Int) - 1 ≤ (fpBias t : Int)) :
    fpUnpack t (fpPack t (.num n m e)) = .num n m e := by
  obtain ⟨k, biased, positive, below⟩ : ∃ k : Nat, e + (fpBias t : Int) + ((fpPrec t - 1 : Nat) : Int) = k ∧ k ≠ 0
      ∧ k < fpTop t := by
    have := fpPrec_bounds t
    have := fpTop_eq t
    exact ⟨(e + (fpBias t : Int) + ((fpPrec t - 1 : Nat) : Int)).toNat, by omega, by omega, by omega⟩
  have fraction : m - 2 ^ (fpPrec t - 1) < 2 ^ (fpPrec t - 1) := by
    have doubled : 2 ^ fpPrec t = 2 * 2 ^ (fpPrec t - 1) := by
      rw [← pow_succ', Nat.sub_add_cancel (by have := fpPrec_bounds t; omega)]
    omega
  have word : fpPack t (.num n m e) = fpAssemble t n k true (m - 2 ^ (fpPrec t - 1)) := by
    rw [fpPack, biased, Int.toNat_natCast]
  have significand : 2 ^ (fpPrec t - 1) + (m - 2 ^ (fpPrec t - 1)) = m := by omega
  have exponent : (k : Int) - (fpBias t : Int) - ((fpPrec t - 1 : Nat) : Int) = e := by omega
  simp only [word, fpUnpack, sign_fpAssemble, fpExponent_fpAssemble t n true below.le,
    fpFraction_fpAssemble t n true fraction, fpLeading_fpAssemble t n below.le positive, if_neg below.ne,
    if_neg positive, if_true, significand, exponent]

/-- A source that is a number has a significand of 24 to 64 bits. -/
theorem fpUnpack_num_bounds {v : XWord} {m : Nat} {e : Int} (h : fpUnpack t v = .num n m e) :
    2 ^ 23 ≤ m ∧ m < 2 ^ 64 := by
  have fraction : fpFraction t v < 2 ^ (fpPrec t - 1) := by cases t <;> exact BitVec.isLt _
  have least : 2 ^ 23 ≤ 2 ^ (fpPrec t - 1) :=
    Nat.pow_le_pow_right (by decide) (by have := (fpPrec_bounds t).1; omega)
  have most : 2 ^ (fpPrec t - 1) ≤ 2 ^ 63 :=
    Nat.pow_le_pow_right (by decide) (by have := (fpPrec_bounds t).2; omega)
  have significand : m = 2 ^ (fpPrec t - 1) + fpFraction t v := by
    simp only [fpUnpack] at h
    split at h
    · split at h <;> cases h
    · split at h
      · split at h <;> cases h
      · split at h <;> cases h
        rfl
  omega

end

end Sys2Proof.Machine

/-! ## Rounding -/

namespace Sys2Proof.Machine

/-! ### The dropped bits as a fraction -/

/-- The dropped bits r out of 2 * half lie to 0 and to half as the fraction f to 0 and 1/2. -/
structure Dropped (r half : Nat) (f : ℚ) : Prop where
  nonneg : 0 ≤ f
  lt_one : f < 1
  zero : r = 0 ↔ f = 0
  tie : r = half ↔ f = 1 / 2
  above : half < r ↔ 1 / 2 < f

/-- The dropped bits are compared with 0 and half as the rational y is. -/
theorem dropped_div {r half : Nat} {y : ℚ} (positive : 0 < half) (nonneg : 0 ≤ y) (bound : y < 2 * half)
    (zero : r = 0 ↔ y = 0) (tie : r = half ↔ y = half) (above : half < r ↔ (half : ℚ) < y) :
    Dropped r half (y / (2 * half)) := by
  have unit : (0 : ℚ) < 2 * half := by positivity
  refine ⟨by positivity, (div_lt_one unit).mpr bound, zero.trans ?_, tie.trans ?_, above.trans ?_⟩
  · rw [div_eq_zero_iff, or_iff_left unit.ne']
  · rw [div_eq_iff unit.ne', show (1 / 2 : ℚ) * (2 * half) = half by ring]
  · rw [lt_div_iff₀ unit, show (1 / 2 : ℚ) * (2 * half) = half by ring]

/-- The magnitude M stands for x when k bits of it are dropped: M is x, or M is odd, x lies beside it, and M is long
enough for its last bit to say no more than that something nonzero follows (43_floating_point.md R492). -/
def StandsFor (M : Nat) (x : ℚ) (k : Nat) : Prop := (x = M ∧ 1 ≤ k) ∨ (M % 2 = 1 ∧ |x - M| < 1 ∧ 2 ≤ k)

theorem dropped_of_standsFor {M k : Nat} {x : ℚ} (h : StandsFor M x k) :
    Dropped (M % 2 ^ k) (2 ^ (k - 1)) (x / 2 ^ k - (M / 2 ^ k : Nat)) := by
  obtain ⟨j, rfl⟩ : ∃ j, k = j + 1 := ⟨k - 1, by rcases h with h | h <;> omega⟩
  have fraction : x / 2 ^ (j + 1) - (M / 2 ^ (j + 1) : Nat)
      = (x - M + (M % 2 ^ (j + 1) : Nat)) / (2 * (2 ^ j : Nat)) := by
    have parts : (M : ℚ) = 2 ^ (j + 1) * (M / 2 ^ (j + 1) : Nat) + (M % 2 ^ (j + 1) : Nat) := by
      exact_mod_cast (Nat.div_add_mod M (2 ^ (j + 1))).symm
    have halves : (2 : ℚ) * (2 ^ j : Nat) = 2 ^ (j + 1) := by push_cast; ring
    rw [parts, halves]; field_simp; ring
  have bound : M % 2 ^ (j + 1) < 2 * 2 ^ j := by
    rw [← pow_succ']; exact Nat.mod_lt _ (by positivity)
  have positive : 0 < 2 ^ j := by positivity
  have odd : M % 2 ^ (j + 1) % 2 = M % 2 := Nat.mod_mod_of_dvd M (dvd_pow_self 2 j.succ_ne_zero)
  have even : 2 ≤ j + 1 → 2 ^ j % 2 = 0 := fun hj => Nat.mod_eq_zero_of_dvd (dvd_pow_self 2 (by omega))
  rw [fraction, Nat.add_sub_cancel]
  generalize M % 2 ^ (j + 1) = r at *
  generalize 2 ^ j = half at *
  obtain ⟨rfl, -⟩ | ⟨last, beside, long⟩ := h
  · rw [sub_self, zero_add]
    exact dropped_div positive (by positivity) (by exact_mod_cast bound) (by norm_cast) (by norm_cast) (by norm_cast)
  · have even := even long
    obtain ⟨below, above⟩ := abs_lt.mp beside
    have one : (1 : ℚ) ≤ r := by exact_mod_cast (by omega : 1 ≤ r)
    have top : (r : ℚ) + 1 ≤ 2 * half := by exact_mod_cast bound
    have side : (r : ℚ) + 1 ≤ half ∧ r < half ∨ (half : ℚ) + 1 ≤ r ∧ half < r := by
      obtain lt | gt : r < half ∨ half < r := by omega
      · exact .inl ⟨by exact_mod_cast lt, lt⟩
      · exact .inr ⟨by exact_mod_cast gt, gt⟩
    refine dropped_div positive (by linarith) (by linarith) ?_ ?_ ?_
    · exact ⟨fun h => by omega, fun h => by linarith⟩
    · obtain ⟨far, lt⟩ | ⟨far, gt⟩ := side
      · exact ⟨fun h => by omega, fun h => by linarith⟩
      · exact ⟨fun h => by omega, fun h => by linarith⟩
    · obtain ⟨far, lt⟩ | ⟨far, gt⟩ := side
      · exact ⟨fun h => by omega, fun h => by linarith⟩
      · exact ⟨fun _ => by linarith, fun _ => gt⟩

/-! ### The direction of rounding (R492) -/

theorem roundingMode_cases (rm : BitVec 2) : rm = 0#2 ∨ rm = 1#2 ∨ rm = 2#2 ∨ rm = 3#2 := by
  revert rm; decide

section
variable {r half : Nat} {f : ℚ} (h : Dropped r half f) (neg odd : Bool)
include h

theorem roundsUp_nearest : roundsUp 0#2 neg odd r half = true ↔ 1 / 2 < f ∨ (f = 1 / 2 ∧ odd = true) := by
  rw [← h.tie, ← h.above]; simp [roundsUp]

theorem roundsUp_down : roundsUp 2#2 neg odd r half = true ↔ neg = true ∧ f ≠ 0 := by
  simp [roundsUp, ← h.zero]

theorem roundsUp_up : roundsUp 3#2 neg odd r half = true ↔ neg = false ∧ f ≠ 0 := by
  simp [roundsUp, ← h.zero]

/-- What drops nothing is not rounded up. -/
theorem roundsUp_exact (rm : BitVec 2) (exact : f = 0) (odd : Bool) : roundsUp rm neg odd r half = false := by
  obtain rfl | rfl | rfl | rfl := roundingMode_cases rm
  · rw [Bool.eq_false_iff, ne_eq, roundsUp_nearest h, exact]; norm_num
  · rfl
  · rw [Bool.eq_false_iff, ne_eq, roundsUp_down h]; simp [exact]
  · rw [Bool.eq_false_iff, ne_eq, roundsUp_up h]; simp [exact]

end

end Sys2Proof.Machine

/-! ## Numbers with the precision of a format -/

namespace Sys2Proof.Machine

/-! ### Signs and powers -/

/-- The factor of a sign. -/
def fpSign (n : Bool) : ℚ := if n then -1 else 1

@[simp] theorem fpSign_true : fpSign true = -1 := rfl
@[simp] theorem fpSign_false : fpSign false = 1 := rfl

theorem fpRat_num (n : Bool) (m : Nat) (e : Int) : fpRat (.num n m e) = fpSign n * m * 2 ^ e := rfl

theorem abs_fpSign_mul (n : Bool) {y : ℚ} (h : 0 ≤ y) : |fpSign n * y| = y := by
  cases n <;> simp [abs_of_nonneg h]

theorem fpSign_mul_inj (n : Bool) {x y : ℚ} : fpSign n * x = fpSign n * y ↔ x = y := by
  cases n <;> simp

theorem zpow_add_nat (e : Int) (k : Nat) : (2 : ℚ) ^ (e + k) = 2 ^ e * 2 ^ k := by
  rw [zpow_add₀ (by norm_num), zpow_natCast]

theorem two_pow_prec (td : FpSize) : 2 ^ fpPrec td = 2 * 2 ^ (fpPrec td - 1) := by
  rw [← pow_succ', Nat.sub_add_cancel (by have := fpPrec_bounds td; omega)]

/-! ### Numbers of one binade -/

section
variable {td : FpSize} {q : Nat} {e : Int} {y : ℚ}

/-- Between two neighbouring multiples of 2^e from 2^(p-1) on there is no number with precision p. -/
theorem HasPrecision.gap (h : HasPrecision td y) (low : 2 ^ (fpPrec td - 1) ≤ q) :
    |y| ≤ (q : ℚ) * 2 ^ e ∨ ((q : ℚ) + 1) * 2 ^ e ≤ |y| := by
  obtain ⟨neg, m, f, -, high, rfl⟩ := h
  have magnitude : |fpSign neg * m * 2 ^ f| = (m : ℚ) * 2 ^ f := by
    rw [mul_assoc, abs_fpSign_mul _ (by positivity)]
  change |fpSign neg * m * 2 ^ f| ≤ _ ∨ _ ≤ |fpSign neg * m * 2 ^ f|
  rw [magnitude]
  by_cases finer : f < e
  · left
    obtain ⟨k, rfl⟩ : ∃ k : Nat, e = f + 1 + k := ⟨(e - f - 1).toNat, by omega⟩
    have enough : m ≤ q * (2 * 2 ^ k) := by
      have one : 1 ≤ 2 ^ k := Nat.one_le_two_pow
      have := two_pow_prec td
      nlinarith
    have cast : (m : ℚ) ≤ q * (2 * 2 ^ k) := by exact_mod_cast enough
    calc (m : ℚ) * 2 ^ f ≤ q * (2 * 2 ^ k) * 2 ^ f := by gcongr
      _ = q * 2 ^ (f + 1 + k) := by rw [zpow_add_nat, zpow_add_one₀ (by norm_num)]; ring
  · obtain ⟨k, rfl⟩ : ∃ k : Nat, f = e + k := ⟨(f - e).toNat, by omega⟩
    have multiple : (m : ℚ) * 2 ^ (e + (k : Int)) = ((m * 2 ^ k : Nat) : ℚ) * 2 ^ e := by
      rw [zpow_add_nat]; push_cast; ring
    rw [multiple]
    obtain le | gt : m * 2 ^ k ≤ q ∨ q + 1 ≤ m * 2 ^ k := by omega
    · exact .inl (by gcongr)
    · exact .inr (by gcongr; exact_mod_cast gt)

theorem HasPrecision.ne_zero (h : HasPrecision td y) : y ≠ 0 := by
  obtain ⟨neg, m, f, low, -, rfl⟩ := h
  have positive : 0 < m := Nat.lt_of_lt_of_le (by positivity) low
  have unit : (2 : ℚ) ^ f ≠ 0 := by positivity
  cases neg <;> simpa [positive.ne'] using unit

/-- A magnitude of at most p bits brought to exactly p bits. -/
theorem fpNormalize_spec (positive : 0 < q) (high : q ≤ 2 ^ fpPrec td) (e : Int) :
    2 ^ (fpPrec td - 1) ≤ fpNormalize (fpPrec td) q ∧ fpNormalize (fpPrec td) q < 2 ^ fpPrec td
      ∧ (fpNormalize (fpPrec td) q : ℚ) * 2 ^ (e + (q.log2 : Int) - ((fpPrec td - 1 : Nat) : Int)) = q * 2 ^ e := by
  obtain ⟨p, hp⟩ : ∃ p, fpPrec td = p + 1 := ⟨fpPrec td - 1, by have := fpPrec_bounds td; omega⟩
  rw [hp] at high
  rw [hp, Nat.add_sub_cancel]
  obtain rfl | less := Nat.eq_or_lt_of_le high
  · have log : (2 ^ (p + 1)).log2 = p + 1 := Nat.log2_two_pow
    have value : fpNormalize (p + 1) (2 ^ (p + 1)) = 2 ^ p := by
      rw [fpNormalize, log, if_pos (by omega), Nat.add_sub_cancel, Nat.add_sub_cancel_left, pow_one, pow_succ,
        Nat.mul_div_cancel _ (by decide)]
    rw [value, log]
    refine ⟨le_rfl, Nat.pow_lt_pow_right (by decide) (by omega), ?_⟩
    rw [show e + ((p + 1 : Nat) : Int) - (p : Int) = e + (1 : Nat) by omega, zpow_add_nat]
    push_cast; ring
  · have log : q.log2 ≤ p := Nat.lt_succ_iff.mp ((Nat.log2_lt positive.ne').mpr less)
    have lower : 2 ^ q.log2 ≤ q := Nat.log2_self_le positive.ne'
    have upper : q < 2 ^ (q.log2 + 1) := Nat.lt_log2_self
    obtain ⟨k, hk⟩ : ∃ k, p = q.log2 + k := ⟨p - q.log2, by omega⟩
    have value : fpNormalize (p + 1) q = q * 2 ^ k := by
      rw [fpNormalize, Nat.add_sub_cancel]
      split
      · next h =>
        obtain rfl : k = 0 := by omega
        rw [show q.log2 - p = 0 by omega, pow_zero, Nat.div_one, Nat.mul_one]
      · rw [show p - q.log2 = k by omega]
    rw [value]
    refine ⟨?_, ?_, ?_⟩
    · rw [hk, pow_add]; gcongr
    · rw [show p + 1 = q.log2 + 1 + k by omega, pow_add]; gcongr
    · have exponent : e = e + (q.log2 : Int) - (p : Int) + k := by omega
      conv_rhs => rw [exponent, zpow_add_nat]
      push_cast; ring

/-- A magnitude from 2^(p-1) to 2^p is one of precision p. -/
theorem hasPrecision_of_bounds (neg : Bool) (e : Int) (positive : 0 < q) (high : q ≤ 2 ^ fpPrec td) :
    HasPrecision td (fpSign neg * q * 2 ^ e) := by
  obtain ⟨least, most, value⟩ := fpNormalize_spec positive high e
  exact ⟨neg, _, _, least, most, by rw [mul_assoc, ← value, ← mul_assoc]; rfl⟩

/-- The significand of a number written with an even magnitude is even. -/
theorem HasPrecisionAs.even {r : ℚ} {neg n : Bool} {m : Nat} {f : Int} (h : HasPrecisionAs td r n m f)
    (value : r = fpSign neg * q * 2 ^ e) (high : q ≤ 2 ^ fpPrec td) (even : q % 2 = 0) :
    m % 2 = 0 := by
  obtain ⟨least, most, shape⟩ := h
  have same : (m : ℚ) * 2 ^ f = q * 2 ^ e := by
    have eq : fpSign n * (m * 2 ^ f) = fpSign neg * (q * 2 ^ e) := by
      rw [← mul_assoc, ← mul_assoc, ← value]; exact shape.symm
    rw [← abs_fpSign_mul n (y := (m : ℚ) * 2 ^ f) (by positivity), eq, abs_fpSign_mul _ (by positivity)]
  by_cases finer : f ≤ e
  · obtain ⟨k, rfl⟩ : ∃ k : Nat, e = f + k := ⟨(e - f).toNat, by omega⟩
    have multiple : m = q * 2 ^ k := by
      rw [zpow_add_nat, mul_left_comm, mul_comm] at same
      exact_mod_cast mul_left_cancel₀ (by positivity : (2 : ℚ) ^ f ≠ 0) same
    rw [multiple, Nat.mul_mod, even]; simp
  · obtain ⟨k, rfl⟩ : ∃ k : Nat, f = e + 1 + k := ⟨(f - e - 1).toNat, by omega⟩
    have multiple : q = m * 2 * 2 ^ k := by
      rw [zpow_add_nat, zpow_add_one₀ (by norm_num)] at same
      have : (2 : ℚ) ^ e * (m * 2 * 2 ^ k) = 2 ^ e * q := by linarith
      exact_mod_cast (mul_left_cancel₀ (by positivity : (2 : ℚ) ^ e ≠ 0) this).symm
    have smallest : m = 2 ^ (fpPrec td - 1) := by
      have one : 1 ≤ 2 ^ k := Nat.one_le_two_pow
      have := two_pow_prec td
      nlinarith
    rw [smallest]
    exact Nat.mod_eq_zero_of_dvd (dvd_pow_self 2 (by have := fpPrec_bounds td; omega))

end

end Sys2Proof.Machine

/-! ## Rounding at the precision of a format -/

namespace Sys2Proof.Machine

/-! ### The two candidates -/

/-- The magnitude q and the dropped bits r out of 2 * half rounded to q or to q + 1. -/
def roundedMagnitude (rm : BitVec 2) (neg : Bool) (q r half : Nat) : Nat :=
  if roundsUp rm neg (q % 2 == 1) r half then q + 1 else q

/-- What each mode says when the magnitude q + f is rounded to q or to q + 1 (43_floating_point.md R492). -/
inductive Chosen (rm : BitVec 2) (neg : Bool) (q : Nat) (f : ℚ) : Nat → Prop
  | lower (nearest : rm = 0#2 → f ≤ 1 / 2 ∧ (f = 1 / 2 → q % 2 = 0)) (down : rm = 2#2 → neg = true → f = 0)
      (up : rm = 3#2 → neg = false → f = 0) : Chosen rm neg q f q
  | upper (inexact : f ≠ 0) (nearest : rm = 0#2 → 1 / 2 ≤ f ∧ (f = 1 / 2 → (q + 1) % 2 = 0)) (towardZero : rm ≠ 1#2)
      (down : rm = 2#2 → neg = true) (up : rm = 3#2 → neg = false) : Chosen rm neg q f (q + 1)

section
variable {td : FpSize} {rm : BitVec 2} {q r half : Nat} {f : ℚ} {e : Int}

theorem chosen_of_dropped (h : Dropped r half f) (rm : BitVec 2) (neg : Bool) (q : Nat) :
    Chosen rm neg q f (roundedMagnitude rm neg q r half) := by
  unfold roundedMagnitude
  split
  · next goesUp =>
    refine .upper (fun exact => ?_) ?_ ?_ ?_ ?_
    · rw [roundsUp_exact h neg rm exact] at goesUp; cases goesUp
    · rintro rfl
      obtain above | ⟨tie, odd⟩ := (roundsUp_nearest h neg _).mp goesUp
      · exact ⟨above.le, fun tie => absurd tie above.ne'⟩
      · exact ⟨tie.ge, fun _ => by have := beq_iff_eq.mp odd; omega⟩
    · rintro rfl; cases goesUp
    · rintro rfl; exact ((roundsUp_down h neg _).mp goesUp).1
    · rintro rfl; exact ((roundsUp_up h neg _).mp goesUp).1
  · next stays =>
    refine .lower ?_ ?_ ?_
    · rintro rfl
      rw [roundsUp_nearest h, not_or, not_and, not_lt] at stays
      exact ⟨stays.1, fun tie => by have := stays.2 tie; rw [beq_iff_eq] at this; omega⟩
    · rintro rfl negative
      by_contra inexact
      exact stays ((roundsUp_down h neg _).mpr ⟨negative, inexact⟩)
    · rintro rfl positive
      by_contra inexact
      exact stays ((roundsUp_up h neg _).mpr ⟨positive, inexact⟩)

/-- Rounding moves nothing exactly where nothing was dropped. -/
theorem roundedMagnitude_eq_iff (h : Dropped r half f) (rm : BitVec 2) (neg : Bool) (q : Nat) :
    (roundedMagnitude rm neg q r half : ℚ) = q + f ↔ r = 0 := by
  have below := h.lt_one
  rw [h.zero]
  generalize roundedMagnitude rm neg q r half = c, chosen_of_dropped h rm neg q = chosen
  obtain ⟨-, -, -⟩ | ⟨inexact, -, -, -, -⟩ := chosen
  · simp
  · refine ⟨fun same => ?_, fun exact => absurd exact inexact⟩
    push_cast at same
    linarith

/-! ### Rounding with unbounded exponent (R499) -/

/-- An exact number is rounded to itself in every mode. -/
theorem roundsUnbounded_self {v : ℚ} (precise : HasPrecision td v) : RoundsUnbounded rm td v v where
  precise := precise
  nearest _ y _ := by rw [sub_self, abs_zero]; exact abs_nonneg _
  even _ y _ _ _ _ other same _ := by
    rw [sub_self, abs_zero, abs_eq_zero, sub_eq_zero] at same
    exact absurd same other
  towardZero _ := ⟨le_rfl, mul_self_pos.mpr precise.ne_zero, fun _ _ below => below⟩
  down _ := ⟨le_rfl, fun _ _ below => below⟩
  up _ := ⟨le_rfl, fun _ _ above => above⟩

end

/-! ### A value between two neighbours -/

/-- Of the numbers of S none lies between lo and hi, and v does. -/
structure Between (S : ℚ → Prop) (lo v hi : ℚ) : Prop where
  gap : ∀ y, S y → y ≤ lo ∨ hi ≤ y
  lower : lo ≤ v
  upper : v ≤ hi

/-- r is the neighbour of v that is not the farther one. -/
def Closer (lo v hi r : ℚ) : Prop := (r = lo ∧ v - lo ≤ hi - v) ∨ (r = hi ∧ hi - v ≤ v - lo)

section
variable {S : ℚ → Prop} {lo v hi r y : ℚ} (h : Between S lo v hi)
include h

theorem Between.nearest (side : Closer lo v hi r) (hy : S y) : |r - v| ≤ |y - v| := by
  have lower := h.lower
  have upper := h.upper
  obtain ⟨rfl, closer⟩ | ⟨rfl, closer⟩ := side <;> obtain below | above := h.gap y hy
  · rw [abs_of_nonpos (by linarith), abs_of_nonpos (by linarith)]; linarith
  · rw [abs_of_nonpos (by linarith), abs_of_nonneg (by linarith)]; linarith
  · rw [abs_of_nonneg (by linarith), abs_of_nonpos (by linarith)]; linarith
  · rw [abs_of_nonneg (by linarith), abs_of_nonneg (by linarith)]; linarith

/-- Two numbers are equally near only where v is in the middle. -/
theorem Between.tie (side : Closer lo v hi r) (hy : S y) (other : y ≠ r) (same : |y - v| = |r - v|) :
    v - lo = hi - v := by
  have lower := h.lower
  have upper := h.upper
  obtain ⟨rfl, closer⟩ | ⟨rfl, closer⟩ := side <;> obtain below | above := h.gap y hy
  · rw [abs_of_nonpos (by linarith), abs_of_nonpos (by linarith)] at same
    exact absurd (by linarith) other
  · rw [abs_of_nonneg (by linarith), abs_of_nonpos (by linarith)] at same; linarith
  · rw [abs_of_nonpos (by linarith), abs_of_nonneg (by linarith)] at same; linarith
  · rw [abs_of_nonneg (by linarith), abs_of_nonneg (by linarith)] at same
    exact absurd (by linarith) other

theorem Between.down (side : (r = lo ∧ v < hi) ∨ (r = hi ∧ v = hi)) : r ≤ v ∧ ∀ y, S y → y ≤ v → y ≤ r := by
  obtain ⟨rfl, less⟩ | ⟨rfl, rfl⟩ := side
  · exact ⟨h.lower, fun y hy below => (h.gap y hy).resolve_right fun above => by linarith⟩
  · exact ⟨le_rfl, fun _ _ below => below⟩

theorem Between.up (side : (r = hi ∧ lo < v) ∨ (r = lo ∧ v = lo)) : v ≤ r ∧ ∀ y, S y → v ≤ y → r ≤ y := by
  obtain ⟨rfl, more⟩ | ⟨rfl, rfl⟩ := side
  · exact ⟨h.upper, fun y hy above => (h.gap y hy).resolve_left fun below => by linarith⟩
  · exact ⟨le_rfl, fun _ _ above => above⟩

end

section
variable {td : FpSize} {rm : BitVec 2} {q : Nat} {f : ℚ}

/-- The neighbours of a positive value, 2^e apart. -/
theorem between_positive (low : 2 ^ (fpPrec td - 1) ≤ q) (nonneg : 0 ≤ f) (below : f < 1) (e : Int) :
    Between (HasPrecision td) (q * 2 ^ e) ((q + f) * 2 ^ e) ((q + 1) * 2 ^ e) where
  gap y hy := by
    have far : 0 ≤ (q : ℚ) * 2 ^ e := by positivity
    obtain le | ge := hy.gap (e := e) low
    · exact .inl (le_of_abs_le le)
    · obtain positive | negative := le_abs.mp ge
      · exact .inr positive
      · have : (0 : ℚ) < ((q : ℚ) + 1) * 2 ^ e := by positivity
        exact .inl (by linarith)
  lower := by gcongr; linarith
  upper := by gcongr

theorem HasPrecision.neg {y : ℚ} (h : HasPrecision td y) : HasPrecision td (-y) := by
  obtain ⟨neg, m, e, low, high, rfl⟩ := h
  exact ⟨!neg, m, e, low, high, by cases neg <;> simp⟩

theorem Between.neg {lo v hi : ℚ} (h : Between (HasPrecision td) lo v hi) :
    Between (HasPrecision td) (-hi) (-v) (-lo) where
  gap y hy := by
    obtain below | above := h.gap (-y) hy.neg
    · exact .inr (by linarith)
    · exact .inl (by linarith)
  lower := neg_le_neg h.upper
  upper := neg_le_neg h.lower

/-- A choice among the neighbours of a value, mode by mode, rounds it. -/
theorem roundsUnbounded_of_between {lo v hi r : ℚ} (h : Between (HasPrecision td) lo v hi) (precise : HasPrecision td r)
    (nearest : rm = 0#2 → Closer lo v hi r)
    (even : rm = 0#2 → v - lo = hi - v → ∀ neg m e, HasPrecisionAs td r neg m e → m % 2 = 0)
    (towardZero : rm = 1#2 → |r| ≤ |v| ∧ 0 < r * v ∧ ∀ y, HasPrecision td y → |y| ≤ |v| → |y| ≤ |r|)
    (down : rm = 2#2 → (r = lo ∧ v < hi) ∨ (r = hi ∧ v = hi)) (up : rm = 3#2 → (r = hi ∧ lo < v) ∨ (r = lo ∧ v = lo)) :
    RoundsUnbounded rm td v r where
  precise := precise
  nearest mode _ hy := h.nearest (nearest mode) hy
  even mode _ neg m e hy other same := even mode (h.tie (nearest mode) hy other same) neg m e
  towardZero := towardZero
  down mode := h.down (down mode)
  up mode := h.up (up mode)

section
variable {neg : Bool} {c : Nat} {e : Int} (chosen : Chosen rm neg q f c) (nonneg : 0 ≤ f) (below : f < 1)
include chosen

theorem Chosen.precise (low : 2 ^ (fpPrec td - 1) ≤ q) (high : q < 2 ^ fpPrec td) :
    HasPrecision td (fpSign neg * (c * 2 ^ e)) := by
  have positive : 0 < q := Nat.lt_of_lt_of_le (by positivity) low
  rw [← mul_assoc]
  cases chosen
  · exact hasPrecision_of_bounds neg e positive high.le
  · exact hasPrecision_of_bounds neg e (by omega) high

/-- In a tie the even magnitude is chosen. -/
theorem Chosen.even (mode : rm = 0#2) (tie : f = 1 / 2) : c % 2 = 0 := by
  cases chosen with
  | lower nearest => exact (nearest mode).2 tie
  | upper _ nearest => exact (nearest mode).2 tie

theorem Chosen.le_prec (high : q < 2 ^ fpPrec td) : c ≤ 2 ^ fpPrec td := by
  cases chosen <;> omega

/-- To nearest, the magnitude chosen is not the farther one. -/
theorem Chosen.closer (mode : rm = 0#2) : Closer (q * 2 ^ e) ((q + f) * 2 ^ e) ((q + 1) * 2 ^ e) (c * 2 ^ e) := by
  have unit : (0 : ℚ) < 2 ^ e := by positivity
  cases chosen with
  | lower nearest =>
    have := (nearest mode).1
    exact .inl ⟨rfl, by nlinarith⟩
  | upper _ nearest =>
    have := (nearest mode).1
    exact .inr ⟨by push_cast; rfl, by nlinarith⟩

include nonneg below

/-- Toward zero the magnitude below is chosen, which no number of precision p exceeds within the value. -/
theorem Chosen.towardZero (low : 2 ^ (fpPrec td - 1) ≤ q) (mode : rm = 1#2) :
    let v := fpSign neg * ((q + f) * 2 ^ e)
    let r := fpSign neg * (c * 2 ^ e)
    |r| ≤ |v| ∧ 0 < r * v ∧ ∀ y, HasPrecision td y → |y| ≤ |v| → |y| ≤ |r| := by
  have positive : 0 < q := Nat.lt_of_lt_of_le (by positivity) low
  cases chosen with
  | upper _ _ towardZero => exact absurd mode towardZero
  | lower =>
    intro v r
    have value : |v| = (q + f) * 2 ^ e := abs_fpSign_mul neg (by positivity)
    have result : |r| = q * 2 ^ e := abs_fpSign_mul neg (by positivity)
    rw [value, result]
    refine ⟨by gcongr; linarith, ?_, fun y hy within => (hy.gap low).resolve_right fun above => ?_⟩
    · have product : 0 < ((q : ℚ) * 2 ^ e) * ((q + f) * 2 ^ e) := by positivity
      cases neg <;> simpa [v, r] using product
    · have : (q + f) * 2 ^ e < ((q : ℚ) + 1) * 2 ^ e := by gcongr
      linarith

end

/-- Rounding the magnitude (q + f) * 2^e of a value to q * 2^e or (q + 1) * 2^e rounds the value at precision p. -/
theorem roundsUnbounded_of_chosen {neg : Bool} {c : Nat} {e : Int} (chosen : Chosen rm neg q f c) (nonneg : 0 ≤ f)
    (below : f < 1) (low : 2 ^ (fpPrec td - 1) ≤ q) (high : q < 2 ^ fpPrec td) :
    RoundsUnbounded rm td (fpSign neg * ((q + f) * 2 ^ e)) (fpSign neg * (c * 2 ^ e)) := by
  have between := between_positive low nonneg below e
  have unit : (0 : ℚ) < 2 ^ e := by positivity
  have precise := chosen.precise (td := td) (e := e) low high
  have towardZero := chosen.towardZero (td := td) (e := e) nonneg below low
  have even (mode : rm = 0#2) (tie : (q + f) * 2 ^ e - q * 2 ^ e = (q + 1) * 2 ^ e - (q + f) * 2 ^ e) (n m k)
      (shape : HasPrecisionAs td (fpSign neg * (c * 2 ^ e)) n m k) : m % 2 = 0 := by
    have half : f = 1 / 2 := by
      have : (2 * f - 1) * (2 : ℚ) ^ e = 0 := by linarith
      have := (mul_eq_zero.mp this).resolve_right unit.ne'
      linarith
    exact shape.even (mul_assoc ..).symm (chosen.le_prec high) (chosen.even mode half)
  cases neg
  · simp only [fpSign_false, one_mul] at precise towardZero even ⊢
    refine roundsUnbounded_of_between between precise chosen.closer even towardZero (fun mode => ?_) fun mode => ?_
    · cases chosen with
      | lower => exact .inl ⟨rfl, by gcongr⟩
      | upper _ _ _ down => cases down mode
    · cases chosen with
      | lower _ _ up => simp [up mode rfl]
      | upper inexact =>
        have : 0 < f := lt_of_le_of_ne nonneg (Ne.symm inexact)
        exact .inl ⟨by push_cast; rfl, by gcongr; linarith⟩
  · simp only [fpSign_true, neg_one_mul] at precise towardZero even ⊢
    refine roundsUnbounded_of_between between.neg precise (fun mode => ?_)
      (fun mode tie => even mode (by linarith)) towardZero (fun mode => ?_) fun mode => ?_
    · obtain ⟨same, closer⟩ | ⟨same, closer⟩ := chosen.closer (e := e) mode
      · exact .inr ⟨by rw [same], by linarith⟩
      · exact .inl ⟨by rw [same], by linarith⟩
    · cases chosen with
      | lower _ down => simp [down mode rfl]
      | upper inexact =>
        have : 0 < f := lt_of_le_of_ne nonneg (Ne.symm inexact)
        exact .inl ⟨by push_cast; rfl, neg_lt_neg (by gcongr; linarith)⟩
    · cases chosen with
      | lower => exact .inl ⟨rfl, neg_lt_neg (by gcongr)⟩
      | upper _ _ _ _ up => cases up mode

end

end Sys2Proof.Machine

/-! ## Delivering an exact result -/

namespace Sys2Proof.Machine

/-! ### One rounding of a magnitude -/

/-- The magnitude M stands for x at the precision of every format: M is x, or it has 66 bits or more, is odd, and x lies
beside it (43_floating_point.md R492). -/
def Approximates (M : Nat) (x : ℚ) : Prop := 0 < M ∧ (x = M ∨ (M % 2 = 1 ∧ |x - M| < 1 ∧ 2 ^ 65 ≤ M))

theorem approximates_self {M : Nat} (h : 0 < M) : Approximates M M := ⟨h, .inl rfl⟩

section
variable {td : FpSize} {rm : BitVec 2} {neg : Bool} {M : Nat} {x : ℚ} {e : Int}

theorem Approximates.positive (h : Approximates M x) : 0 < x := by
  obtain ⟨positive, rfl | ⟨-, beside, long⟩⟩ := h
  · exact_mod_cast positive
  · have : (1 : ℚ) ≤ M := by exact_mod_cast positive
    have := (abs_lt.mp beside).1
    linarith

/-- A magnitude that fits is exact. -/
theorem Approximates.exact (h : Approximates M x) (short : M.log2 + 1 ≤ fpPrec td) : x = M := by
  obtain ⟨positive, exact | ⟨-, -, long⟩⟩ := h
  · exact exact
  · have := (Nat.le_log2 positive.ne').mpr long
    have := fpPrec_bounds td
    omega

theorem Approximates.standsFor (h : Approximates M x) (long : ¬ M.log2 + 1 ≤ fpPrec td) :
    StandsFor M x (M.log2 + 1 - fpPrec td) := by
  obtain ⟨positive, exact | ⟨odd, beside, longer⟩⟩ := h
  · exact .inl ⟨exact, by omega⟩
  · have := (Nat.le_log2 positive.ne').mpr longer
    have := fpPrec_bounds td
    exact .inr ⟨odd, beside, by omega⟩

/-- What rounding a magnitude at the precision of a format gives. -/
structure RoundedAs (rm : BitVec 2) (td : FpSize) (neg : Bool) (y : ℚ) (r : Nat × Int × Bool) : Prop where
  positive : 0 < r.1
  high : r.1 ≤ 2 ^ fpPrec td
  rounds : RoundsUnbounded rm td (fpSign neg * y) (fpSign neg * (r.1 * 2 ^ r.2.1))
  inexact : r.2.2 = true ↔ (r.1 : ℚ) * 2 ^ r.2.1 ≠ y

theorem roundTo_short (short : M.log2 + 1 ≤ fpPrec td) : roundTo rm neg (fpPrec td) M e = (M, e, false) := by
  rw [roundTo, if_pos short]

theorem roundTo_long {k : Nat} (long : ¬ M.log2 + 1 ≤ fpPrec td) (hk : M.log2 + 1 - fpPrec td = k) :
    roundTo rm neg (fpPrec td) M e
      = (roundedMagnitude rm neg (M / 2 ^ k) (M % 2 ^ k) (2 ^ (k - 1)), e + k, decide (M % 2 ^ k ≠ 0)) := by
  rw [roundTo, if_neg long, hk]
  rfl

theorem roundedAs_roundTo (h : Approximates M x) (rm : BitVec 2) (td : FpSize) (neg : Bool) (e : Int) :
    RoundedAs rm td neg (x * 2 ^ e) (roundTo rm neg (fpPrec td) M e) := by
  have prec := fpPrec_bounds td
  by_cases short : M.log2 + 1 ≤ fpPrec td
  · have high : M < 2 ^ fpPrec td := (Nat.log2_lt h.1.ne').mp short
    rw [roundTo_short short, h.exact short]
    refine ⟨h.1, high.le, roundsUnbounded_self ?_, by simp⟩
    rw [← mul_assoc]
    exact hasPrecision_of_bounds neg e h.1 high.le
  · obtain ⟨k, hk⟩ : ∃ k, M.log2 + 1 - fpPrec td = k := ⟨_, rfl⟩
    have dropped := dropped_of_standsFor (h.standsFor short)
    rw [hk] at dropped
    rw [roundTo_long short hk]
    have chosen := chosen_of_dropped dropped rm neg (M / 2 ^ k)
    have low : 2 ^ (fpPrec td - 1) ≤ M / 2 ^ k := by
      rw [Nat.le_div_iff_mul_le (by positivity), ← pow_add, show fpPrec td - 1 + k = M.log2 by omega]
      exact Nat.log2_self_le h.1.ne'
    have high : M / 2 ^ k < 2 ^ fpPrec td := by
      rw [Nat.div_lt_iff_lt_mul (by positivity), ← pow_add, show fpPrec td + k = M.log2 + 1 by omega]
      exact Nat.lt_log2_self
    have value : x * (2 : ℚ) ^ e = ((M / 2 ^ k : Nat) + (x / 2 ^ k - (M / 2 ^ k : Nat))) * 2 ^ (e + (k : Int)) := by
      rw [zpow_add_nat, add_sub_cancel]; field_simp
    have unit : (2 : ℚ) ^ (e + (k : Int)) ≠ 0 := by positivity
    refine ⟨?_, chosen.le_prec high, ?_, ?_⟩
    · have : 0 < M / 2 ^ k := Nat.lt_of_lt_of_le (by positivity) low
      generalize roundedMagnitude rm neg (M / 2 ^ k) (M % 2 ^ k) (2 ^ (k - 1)) = c at chosen
      cases chosen <;> omega
    · rw [value]
      exact roundsUnbounded_of_chosen chosen dropped.nonneg dropped.lt_one low high
    · rw [value]
      exact decide_eq_true_iff.trans
        (not_congr ((mul_left_inj' unit).trans (roundedMagnitude_eq_iff dropped rm neg _)).symm)

end

/-! ### The range of a format (R490, R499) -/

/-- The largest number of a format. -/
def fpLargest (td : FpSize) : ℚ := (2 ^ fpPrec td - 1) * (2 : ℚ) ^ ((fpBias td : Int) - (fpPrec td : Int) + 1)

/-- The smallest normalized number of a format. -/
def fpSmallest (td : FpSize) : ℚ := (2 : ℚ) ^ (1 - (fpBias td : Int))

section
variable {td : FpSize} {r : ℚ} {neg : Bool} {m : Nat} {e : Int}

theorem HasPrecisionAs.abs_eq (h : HasPrecisionAs td r neg m e) : |r| = m * 2 ^ e := by
  obtain ⟨-, -, rfl⟩ := h
  exact (congrArg abs (mul_assoc ..)).trans (abs_fpSign_mul neg (by positivity))

/-- The significand in units of its leading bit. -/
theorem HasPrecisionAs.bounds (h : HasPrecisionAs td r neg m e) :
    (2 : ℚ) ^ (e + (fpPrec td : Int) - 1) ≤ |r| ∧ |r| ≤ (2 ^ fpPrec td - 1) * 2 ^ e := by
  have positive : 1 ≤ fpPrec td := by have := fpPrec_bounds td; omega
  obtain ⟨low, high, -⟩ := id h
  have low : (2 : ℚ) ^ (fpPrec td - 1) ≤ m := by exact_mod_cast low
  have high : (m : ℚ) + 1 ≤ 2 ^ fpPrec td := by exact_mod_cast high
  rw [h.abs_eq]
  constructor
  · rw [show e + (fpPrec td : Int) - 1 = e + ((fpPrec td - 1 : Nat) : Int) by omega, zpow_add_nat, mul_comm]
    gcongr
  · gcongr; linarith

theorem two_zpow_le {a b : Int} (h : a ≤ b) : (2 : ℚ) ^ a ≤ 2 ^ b := zpow_le_zpow_right₀ (by norm_num) h

/-- The largest number lies just below a power of two. -/
theorem fpLargest_lt (td : FpSize) : fpLargest td < (2 : ℚ) ^ ((fpBias td : Int) + 1) := by
  have split : (2 : ℚ) ^ ((fpBias td : Int) + 1) = 2 ^ ((fpBias td : Int) - (fpPrec td : Int) + 1) * 2 ^ fpPrec td := by
    rw [← zpow_add_nat]; congr 1; omega
  have unit : (0 : ℚ) < 2 ^ ((fpBias td : Int) - (fpPrec td : Int) + 1) := by positivity
  rw [fpLargest, split]
  linarith

theorem HasPrecisionAs.above_iff (h : HasPrecisionAs td r neg m e) :
    fpLargest td < |r| ↔ (fpBias td : Int) < e + (fpPrec td : Int) - 1 := by
  obtain ⟨least, most⟩ := h.bounds
  have positive : (0 : ℚ) ≤ 2 ^ fpPrec td - 1 := sub_nonneg.mpr (one_le_pow₀ (by norm_num))
  constructor
  · intro above
    by_contra inside
    have : (2 : ℚ) ^ e ≤ 2 ^ ((fpBias td : Int) - (fpPrec td : Int) + 1) := two_zpow_le (by omega)
    have : |r| ≤ fpLargest td := most.trans (mul_le_mul_of_nonneg_left this positive)
    linarith
  · intro above
    calc fpLargest td < (2 : ℚ) ^ ((fpBias td : Int) + 1) := fpLargest_lt td
      _ ≤ 2 ^ (e + (fpPrec td : Int) - 1) := two_zpow_le (by omega)
      _ ≤ |r| := least

theorem HasPrecisionAs.below_iff (h : HasPrecisionAs td r neg m e) :
    |r| < fpSmallest td ↔ e + (fpPrec td : Int) - 1 < 1 - (fpBias td : Int) := by
  obtain ⟨least, most⟩ := h.bounds
  constructor
  · intro below
    by_contra inside
    have : fpSmallest td ≤ 2 ^ (e + (fpPrec td : Int) - 1) := two_zpow_le (by omega)
    linarith
  · intro below
    have unit : (0 : ℚ) < 2 ^ e := by positivity
    calc |r| ≤ (2 ^ fpPrec td - 1) * 2 ^ e := most
      _ < 2 ^ e * 2 ^ fpPrec td := by linarith
      _ = 2 ^ (e + (fpPrec td : Int)) := (zpow_add_nat ..).symm
      _ ≤ fpSmallest td := two_zpow_le (by omega)

end

/-! ### The outcome of fpDeliverNum (R499) -/

/-- A number in the range of its format delivered, or the inexact exception. -/
def fpRounded (fpcr : Word) (w : FpVal) (inexact : Bool) : FpOut :=
  if inexact then (fpInexact fpcr).elim (.trap 0x01#32) (.value w) else .value w false

/-- A number of the format's precision delivered if its exponent is in range. -/
def fpRanged (fpcr : Word) (td : FpSize) (neg : Bool) (m : Nat) (e : Int) (inexact : Bool) : FpOut :=
  if (fpBias td : Int) < e + (fpPrec td : Int) - 1 then fpOverflow fpcr neg
  else if e + (fpPrec td : Int) - 1 < 1 - (fpBias td : Int) then fpUnderflow fpcr neg
  else fpRounded fpcr (.num neg m e) inexact

theorem fpDeliverNum_eq (fpcr : Word) (td : FpSize) (neg : Bool) (M : Nat) (e : Int) {r : Nat × Int × Bool}
    (h : roundTo (fpcrRm fpcr) neg (fpPrec td) M e = r) :
    fpDeliverNum fpcr td neg M e = fpRanged fpcr td neg (fpNormalize (fpPrec td) r.1)
      (r.2.1 + (r.1.log2 : Int) - ((fpPrec td - 1 : Nat) : Int)) r.2.2 := by
  have top : r.2.1 + (r.1.log2 : Int) - ((fpPrec td - 1 : Nat) : Int) + (fpPrec td : Int) - 1
      = r.2.1 + (r.1.log2 : Int) := by
    have := fpPrec_bounds td
    omega
  simp only [fpDeliverNum, fpRanged, fpRounded, h, top]
  cases fpInexact fpcr <;> rfl

/-- How a nonzero exact value v that rounds to r ends: out of range above, below, or with the number r (R499). -/
structure FpDelivered (fpcr : Word) (td : FpSize) (v r : ℚ) (out : FpOut) : Prop where
  rounds : RoundsUnbounded (fpcrRm fpcr) td v r
  overflow : fpLargest td < |r| → out = fpOverflow fpcr (decide (v < 0))
  underflow : |r| < fpSmallest td → out = fpUnderflow fpcr (decide (v < 0))
  inRange : fpSmallest td ≤ |r| → |r| ≤ fpLargest td →
    ∃ neg m e, IsNormalAs td r neg m e ∧ out = fpRounded fpcr (.num neg m e) (decide (r ≠ v))

/-- The magnitude M * 2^e stands for v: what is delivered is v rounded once. -/
theorem delivered_fpDeliverNum {M : Nat} {x v : ℚ} {neg : Bool} {e : Int} (fpcr : Word) (td : FpSize)
    (h : Approximates M x) (value : v = fpSign neg * (x * 2 ^ e)) :
    ∃ r, FpDelivered fpcr td v r (fpDeliverNum fpcr td neg M e) := by
  obtain ⟨r, hr⟩ : ∃ r, roundTo (fpcrRm fpcr) neg (fpPrec td) M e = r := ⟨_, rfl⟩
  have rounded := roundedAs_roundTo h (fpcrRm fpcr) td neg e
  rw [hr] at rounded
  have positive : 0 < x * 2 ^ e := mul_pos h.positive (by positivity)
  obtain ⟨least, most, same⟩ := fpNormalize_spec rounded.positive rounded.high r.2.1
  rw [fpDeliverNum_eq fpcr td neg M e hr]
  generalize fpNormalize (fpPrec td) r.1 = m at *
  generalize r.2.1 + (r.1.log2 : Int) - ((fpPrec td - 1 : Nat) : Int) = k at *
  have shape : HasPrecisionAs td (fpSign neg * (r.1 * 2 ^ r.2.1)) neg m k :=
    ⟨least, most, by rw [← same, ← mul_assoc]; rfl⟩
  have negative : decide (v < 0) = neg := by
    rw [value]
    cases neg <;> simp [positive, positive.le]
  have flag : r.2.2 = decide (fpSign neg * (r.1 * 2 ^ r.2.1) ≠ v) := by
    rw [Bool.eq_iff_iff, rounded.inexact, decide_eq_true_iff, value, ne_eq, ne_eq, fpSign_mul_inj]
  refine ⟨_, value ▸ rounded.rounds, fun above => ?_, fun below => ?_, fun low high => ⟨neg, m, k, ?_, ?_⟩⟩
  · rw [fpRanged, if_pos (shape.above_iff.mp above), negative]
  · have small := shape.below_iff.mp below
    have := fpBias_bounds td
    rw [fpRanged, if_neg (by omega), if_pos small, negative]
  · have low := mt shape.below_iff.mpr (not_lt.mpr low)
    have high := mt shape.above_iff.mpr (not_lt.mpr high)
    exact ⟨least, most, by omega, by omega, shape.2.2⟩
  · rw [fpRanged, if_neg (mt shape.above_iff.mpr (not_lt.mpr high)), if_neg (mt shape.below_iff.mpr (not_lt.mpr low)),
      flag]

end Sys2Proof.Machine

/-! ## Floating-point arithmetic -/

namespace Sys2Proof.Machine

/-! ### How a delivered result ends the instruction -/

section
variable {i : Instr} {s : State} {x : Bool} {td : FpSize} {d : RegNum} {v r : ℚ} {out : FpOut}

/-- A zero or infinity delivered. -/
theorem holdsSpecial_of_fpWrites {w : FpVal} {a : Bool} {t : State} (special : w.isZero = true ∨ w.isInf = true)
    (h : FpWrites x td d (fpPack td w) a s t) : HoldsSpecial t x td d w := by
  cases w with
  | zero n => exact ⟨_, fpUnpack_fpPack_zero td n, fpPack_zero_leading td n, h.image⟩
  | inf n => exact ⟨_, fpUnpack_fpPack_inf td n, fpPack_inf_leading td n, h.image⟩
  | nan | denorm | num => simp [FpVal.isZero, FpVal.isInf] at special

theorem does_of_special {w : FpVal} (h : exec i s = fpFinish x td d (.value w false) s)
    (usable : fpUsable x td d = true) (special : w.isZero = true ∨ w.isInf = true) :
    Does i s (DeliversSpecial x td d w s) :=
  (does_of_fpFinish_value h usable).imp fun _ written =>
    ⟨holdsSpecial_of_fpWrites special written, by rw [written.afinx, Bool.false_or], written.frame⟩

/-- A default of the time-critical mode sets FPSR.AFINX (43_floating_point.md R499, 92_eei_decisions.md D31). -/
theorem does_of_default {w : FpVal} (h : exec i s = fpFinish x td d (.value w Config.tcfpSetsAfinx) s)
    (usable : fpUsable x td d = true) (special : w.isZero = true ∨ w.isInf = true) :
    Does i s fun t => FpFrame x td d s t ∧ t.fpsr.getLsbD 0 = true ∧ HoldsSpecial t x td d w :=
  (does_of_fpFinish_value h usable).imp fun _ written =>
    ⟨written.frame, by rw [written.afinx]; rfl, holdsSpecial_of_fpWrites special written⟩

theorem fpInexact_allowed (allowed : InexactAllowed s = true) : fpInexact s.fpcr = some true := by
  rw [InexactAllowed, Bool.or_eq_true, Bool.not_eq_true'] at allowed
  rw [fpInexact]
  cases critical : fpcrTcfp s.fpcr
  · rw [allowed.resolve_left (by rw [critical]; decide)]; rfl
  · rfl

theorem fpRounded_allowed {w : FpVal} {inexact : Bool} (allowed : InexactAllowed s = true ∨ inexact = false) :
    fpRounded s.fpcr w inexact = .value w inexact := by
  cases inexact
  · rfl
  · rw [fpRounded, if_pos rfl, fpInexact_allowed (allowed.resolve_right (by decide))]
    rfl

theorem fpInexact_trapped (allowed : InexactAllowed s = false) : fpInexact s.fpcr = none := by
  rw [InexactAllowed, Bool.or_eq_false_iff, Bool.not_eq_false'] at allowed
  rw [fpInexact, allowed.1, allowed.2]
  rfl

/-- One rounding of the exact result decides range and inexactness (R499). -/
theorem rangeChecked_of_delivered (h : exec i s = fpFinish x td d out s) (usable : fpUsable x td d = true)
    (delivered : v ≠ 0 → ∃ r, FpDelivered s.fpcr td v r out) : RangeChecked i x td d v s := by
  intro nonzero
  obtain ⟨r, rounded⟩ := delivered nonzero
  refine ⟨r, rounded.rounds, fun above => ?_, fun below => ?_, fun low high => ?_⟩
  · rw [rounded.overflow above, fpOverflow] at h
    split
    · next critical =>
      rw [if_pos (by simpa using critical)] at h
      exact does_of_default h usable (.inr rfl)
    · next strict =>
      rw [if_neg (by simpa using strict)] at h
      exact does_of_fpFinish_trap h rfl
  · rw [rounded.underflow below, fpUnderflow] at h
    split
    · next critical =>
      rw [if_pos (by simpa using critical)] at h
      exact does_of_default h usable (.inl rfl)
    · next strict =>
      rw [if_neg (by simpa using strict)] at h
      exact does_of_fpFinish_trap h rfl
  · obtain ⟨neg, m, e, normal, ends⟩ := rounded.inRange low high
    rw [ends] at h
    split
    · next allowed =>
      rw [fpRounded_allowed (by simpa using allowed)] at h
      obtain ⟨least, most, lowest, highest, value⟩ := normal
      have number := fpUnpack_fpPack_num td neg least most lowest highest
      exact (does_of_fpFinish_value h usable).imp fun _ written =>
        ⟨written.frame, written.afinx, _, by rw [number]; rfl, by rw [number, value]; rfl, written.image⟩
    · next refused =>
      obtain ⟨trapped, inexact⟩ := not_or.mp refused
      rw [fpRounded, decide_eq_true inexact, if_pos rfl, fpInexact_trapped (Bool.eq_false_of_not_eq_true trapped)] at h
      exact does_of_fpFinish_trap h rfl

end

/-! ### Results in the range of the destination -/

section
variable {td : FpSize} {rm : BitVec 2} {v r q : ℚ}

theorem IsNormalAs.precise {neg : Bool} {m : Nat} {e : Int} (h : IsNormalAs td q neg m e) :
    HasPrecisionAs td q neg m e :=
  ⟨h.1, h.2.1, h.2.2.2.2⟩

theorem IsNormal.hasPrecision (h : IsNormal td q) : HasPrecision td q := by
  obtain ⟨neg, m, e, shape⟩ := h
  exact ⟨neg, m, e, shape.precise⟩

/-- The normalized numbers are those of the format's precision in its range. -/
theorem isNormal_of_inRange (h : HasPrecision td q) (range : InRange td q) : IsNormal td q := by
  obtain ⟨neg, m, e, shape⟩ := h
  have low := mt shape.below_iff.mpr (not_lt.mpr range.1)
  have high := mt shape.above_iff.mpr (not_lt.mpr range.2)
  obtain ⟨least, most, value⟩ := shape
  exact ⟨neg, m, e, least, most, by omega, by omega, value⟩

theorem RoundsUnbounded.roundsTo (h : RoundsUnbounded rm td v r) (normal : IsNormal td r) : RoundsTo rm td v r where
  normal := normal
  nearest mode y hy := h.nearest mode y hy.hasPrecision
  even mode y neg m e hy other same shape := h.even mode y neg m e hy.hasPrecision other same shape.precise
  towardZero mode := by
    obtain ⟨within, side, largest⟩ := h.towardZero mode
    exact ⟨within, side, fun y hy => largest y hy.hasPrecision⟩
  down mode := ⟨(h.down mode).1, fun y hy => (h.down mode).2 y hy.hasPrecision⟩
  up mode := ⟨(h.up mode).1, fun y hy => (h.up mode).2 y hy.hasPrecision⟩

/-- A number of the format's precision rounds to itself only. -/
theorem RoundsUnbounded.eq_self (h : RoundsUnbounded rm td v r) (precise : HasPrecision td v) : r = v := by
  obtain rfl | rfl | rfl | rfl := roundingMode_cases rm
  · have := h.nearest rfl v precise
    rw [sub_self, abs_zero] at this
    exact sub_eq_zero.mp (abs_nonpos_iff.mp this)
  · obtain ⟨within, side, largest⟩ := h.towardZero rfl
    obtain same | opposite := abs_eq_abs.mp (le_antisymm within (largest v precise le_rfl))
    · exact same
    · rw [opposite] at side
      nlinarith [mul_self_nonneg v]
  · exact le_antisymm (h.down rfl).1 ((h.down rfl).2 v precise le_rfl)
  · exact le_antisymm ((h.up rfl).2 v precise le_rfl) (h.up rfl).1

/-- Rounding is monotonic: it does not pass a number of the format's precision. -/
theorem RoundsUnbounded.ge_of_ge (h : RoundsUnbounded rm td v r) (precise : HasPrecision td q) (below : q ≤ v) :
    q ≤ r := by
  by_contra! less
  obtain rfl | rfl | rfl | rfl := roundingMode_cases rm
  · have near := h.nearest rfl q precise
    rw [abs_of_nonpos (by linarith), abs_of_nonpos (by linarith)] at near
    linarith
  · obtain ⟨within, side, largest⟩ := h.towardZero rfl
    obtain ⟨rpos, vpos⟩ | ⟨rneg, vneg⟩ := mul_pos_iff.mp side
    · have := largest q precise (by rw [abs_of_pos (by linarith), abs_of_pos vpos]; exact below)
      rw [abs_of_pos (by linarith), abs_of_pos rpos] at this
      linarith
    · rw [abs_of_neg rneg, abs_of_neg vneg] at within
      linarith
  · have := (h.down rfl).2 q precise below
    linarith
  · have := (h.up rfl).1
    linarith

theorem RoundsUnbounded.le_of_le (h : RoundsUnbounded rm td v r) (precise : HasPrecision td q) (above : v ≤ q) :
    r ≤ q := by
  by_contra! more
  obtain rfl | rfl | rfl | rfl := roundingMode_cases rm
  · have near := h.nearest rfl q precise
    rw [abs_of_nonneg (by linarith), abs_of_nonneg (by linarith)] at near
    linarith
  · obtain ⟨within, side, largest⟩ := h.towardZero rfl
    obtain ⟨rpos, vpos⟩ | ⟨rneg, vneg⟩ := mul_pos_iff.mp side
    · rw [abs_of_pos rpos, abs_of_pos vpos] at within
      linarith
    · have := largest q precise (by rw [abs_of_neg (by linarith), abs_of_neg vneg]; linarith)
      rw [abs_of_neg (by linarith), abs_of_neg rneg] at this
      linarith
  · have := (h.down rfl).1
    linarith
  · have := (h.up rfl).2 q precise above
    linarith

theorem hasPrecision_fpSmallest (td : FpSize) : HasPrecision td (fpSmallest td) := by
  have h := hasPrecision_of_bounds (td := td) false (1 - (fpBias td : Int)) Nat.one_pos Nat.one_le_two_pow
  simpa only [fpSmallest, fpSign_false, Nat.cast_one, one_mul] using h

theorem hasPrecision_fpLargest (td : FpSize) : HasPrecision td (fpLargest td) := by
  have most : 2 ≤ 2 ^ fpPrec td := by
    have := two_pow_prec td
    have : 1 ≤ 2 ^ (fpPrec td - 1) := Nat.one_le_two_pow
    omega
  have h := hasPrecision_of_bounds (td := td) (q := 2 ^ fpPrec td - 1) false
    ((fpBias td : Int) - (fpPrec td : Int) + 1) (by omega) (Nat.sub_le _ _)
  rw [Nat.cast_sub (by omega)] at h
  simpa only [fpLargest, fpSign_false, one_mul, Nat.cast_pow, Nat.cast_ofNat, Nat.cast_one] using h

/-- A value in the range of the format rounds to a number in the range. -/
theorem RoundsUnbounded.inRange (h : RoundsUnbounded rm td v r) (range : InRange td v) : InRange td r := by
  have smallest := hasPrecision_fpSmallest td
  have largest := hasPrecision_fpLargest td
  have positive : 0 < fpSmallest td := by unfold fpSmallest; positivity
  have low : fpSmallest td ≤ |v| := range.1
  have high : |v| ≤ fpLargest td := range.2
  change fpSmallest td ≤ |r| ∧ |r| ≤ fpLargest td
  obtain nonneg | negative := le_or_gt 0 v
  · rw [abs_of_nonneg nonneg] at low high
    have least := h.ge_of_ge smallest low
    rw [abs_of_nonneg (by linarith)]
    exact ⟨least, h.le_of_le largest high⟩
  · rw [abs_of_neg negative] at low high
    have least := h.le_of_le smallest.neg (by linarith)
    have most := h.ge_of_ge largest.neg (by linarith)
    rw [abs_of_nonpos (by linarith)]
    constructor <;> linarith

theorem InRange.ne_zero (range : InRange td v) : v ≠ 0 := by
  rintro rfl
  have : (0 : ℚ) < 2 ^ (1 - (fpBias td : Int)) := by positivity
  have := range.1
  rw [abs_zero] at this
  linarith

end

/-- Correct rounding in the range of the destination is a case of the range check (43_floating_point.md R499). -/
theorem RangeChecked.rounds {i : Instr} {x : Bool} {td : FpSize} {d : RegNum} {v : ℚ} {s : State}
    (h : RangeChecked i x td d v s) : Rounds i x td d v s where
  delivers range allowed := by
    obtain ⟨r, rounds, -, -, inRange⟩ := h range.ne_zero
    have resultRange := rounds.inRange range
    have ends := inRange resultRange.1 resultRange.2
    rw [if_pos (allowed.imp_right fun normal => rounds.eq_self normal.hasPrecision)] at ends
    exact ends.imp fun _ ⟨frame, afinx, image⟩ =>
      ⟨⟨r, rounds.roundsTo (isNormal_of_inRange rounds.precise resultRange), afinx, image⟩, frame⟩
  traps range refused other := by
    obtain ⟨r, rounds, -, -, inRange⟩ := h range.ne_zero
    have resultRange := rounds.inRange range
    have ends := inRange resultRange.1 resultRange.2
    have inexact : r ≠ v := fun same => other (same ▸ isNormal_of_inRange rounds.precise resultRange)
    rwa [if_neg (by simp [refused, inexact])] at ends

end Sys2Proof.Machine

/-! ## The exact operations -/

namespace Sys2Proof.Machine

/-! ### Sources -/

/-- The significand of an operand, if it is a number, has 24 to 64 bits. -/
def SourceSized (a : FpVal) : Prop := ∀ n m e, a = .num n m e → 2 ^ 23 ≤ m ∧ m < 2 ^ 64

theorem sourceSized_fpSource (s : State) (x : Bool) (t : FpSize) (r : RegNum) : SourceSized (fpSource s x t r) :=
  fun n _ _ h => fpUnpack_num_bounds t n h

theorem SourceSized.negate {a : FpVal} (h : SourceSized a) : SourceSized a.negate := by
  intro n m e shape
  cases a <;> simp only [FpVal.negate, FpVal.num.injEq, reduceCtorEq] at shape
  obtain ⟨-, rfl, rfl⟩ := shape
  exact h _ _ _ rfl

theorem SourceSized.positive {n : Bool} {m : Nat} {e : Int} (h : SourceSized (.num n m e)) : 0 < m := by
  have := (h n m e rfl).1
  omega

theorem fpRat_negate (a : FpVal) : fpRat a.negate = -fpRat a := by
  cases a with
  | num n m e => cases n <;> simp [FpVal.negate, fpRat]
  | nan | denorm | inf | zero => simp [FpVal.negate, fpRat]

@[simp] theorem reserved_negate (a : FpVal) : a.negate.reserved = a.reserved := by cases a <;> rfl

@[simp] theorem isFinite_negate (a : FpVal) : a.negate.isFinite = a.isFinite := by cases a <;> rfl

/-- A finite operand is a zero or a number. -/
theorem isFinite_cases {a : FpVal} (h : a.isFinite = true) : (∃ n, a = .zero n) ∨ ∃ n m e, a = .num n m e := by
  cases a with
  | zero n => exact .inl ⟨n, rfl⟩
  | num n m e => exact .inr ⟨n, m, e, rfl⟩
  | nan | denorm | inf => cases h

theorem isNum_cases {a : FpVal} (h : a.isNum = true) : ∃ n m e, a = .num n m e := by
  cases a with
  | num n m e => exact ⟨n, m, e, rfl⟩
  | nan | denorm | inf | zero => cases h

theorem isZero_cases {a : FpVal} (h : a.isZero = true) : ∃ n, a = .zero n := by
  cases a with
  | zero n => exact ⟨n, rfl⟩
  | nan | denorm | inf | num => cases h

theorem isInf_cases {a : FpVal} (h : a.isInf = true) : ∃ n, a = .inf n := by
  cases a with
  | inf n => exact ⟨n, rfl⟩
  | nan | denorm | zero | num => cases h

theorem fpRat_num_ne_zero {n : Bool} {m : Nat} (h : 0 < m) (e : Int) : fpRat (.num n m e) ≠ 0 := by
  have magnitude : (0 : ℚ) < m * 2 ^ e := by positivity
  rw [fpRat_num, mul_assoc]
  cases n <;> simp only [fpSign_true, fpSign_false] <;> intro zero <;> linarith

/-! ### Sums (R500) -/

/-- A number at an exponent not above its own. -/
theorem fpScaled_value {a : FpVal} {e : Int} (h : e ≤ a.exponent) : (fpScaled a e : ℚ) * 2 ^ e = fpRat a := by
  cases a with
  | num n m k =>
    obtain ⟨j, rfl⟩ : ∃ j : Nat, k = e + j := ⟨(k - e).toNat, by have : e ≤ k := h; omega⟩
    rw [fpRat_num, zpow_add_nat, fpScaled, add_sub_cancel_left, Int.toNat_natCast]
    cases n <;> push_cast <;> simp only [fpSign_true, fpSign_false, if_true] <;> ring
  | nan | denorm | inf | zero => simp [fpScaled, fpRat]

/-- The sum of two numbers: a zero in the direction of rounding, or a number. -/
theorem fpSum_value (rm : BitVec 2) (a b : FpVal) :
    (fpRat a + fpRat b = 0 → fpSum rm a b = .zero (rm == 2#2))
      ∧ (fpRat a + fpRat b ≠ 0 → ∃ n m e, fpSum rm a b = .num n m e ∧ 0 < m
        ∧ fpRat a + fpRat b = fpRat (.num n m e)) := by
  obtain ⟨e, he⟩ : ∃ e, min a.exponent b.exponent = e := ⟨_, rfl⟩
  obtain ⟨k, hk⟩ : ∃ k, fpScaled a e + fpScaled b e = k := ⟨_, rfl⟩
  have value : fpRat a + fpRat b = k * 2 ^ e := by
    rw [← fpScaled_value (he ▸ min_le_left ..), ← fpScaled_value (he ▸ min_le_right ..), ← hk]
    push_cast; ring
  have unit : (2 : ℚ) ^ e ≠ 0 := by positivity
  have sum : fpSum rm a b = if k = 0 then .zero (rm == 2#2) else .num (decide (k < 0)) k.natAbs e := by
    simp only [fpSum, he, hk]
  rw [value, sum]
  refine ⟨fun zero => if_pos ?_, fun nonzero => ?_⟩
  · exact_mod_cast (mul_eq_zero.mp zero).resolve_right unit
  · have nonzero : k ≠ 0 := by rintro rfl; simp at nonzero
    refine ⟨_, _, _, if_neg nonzero, Int.natAbs_pos.mpr nonzero, ?_⟩
    rw [fpRat_num]
    congr 1
    obtain negative | positive := lt_or_gt_of_ne nonzero
    · rw [decide_eq_true negative, fpSign_true, Nat.cast_natAbs, abs_of_neg negative]; simp
    · rw [decide_eq_false (by omega), fpSign_false, Nat.cast_natAbs, abs_of_pos positive]; simp

/-- The sign of a sum of zero (R500). -/
def zeroSumSign (rm : BitVec 2) (a b : FpVal) : Bool :=
  if a.isZero = true ∧ b.isZero = true ∧ a.sign = b.sign then a.sign else rm == 2#2

/-- The exact sum of finite operands. -/
theorem fpAddExact_finite {a b : FpVal} (rm : BitVec 2) (ha : a.isFinite = true) (hb : b.isFinite = true)
    (sa : SourceSized a) (sb : SourceSized b) :
    (fpRat a + fpRat b = 0 → fpAddExact rm a b = some (.zero (zeroSumSign rm a b)))
      ∧ (fpRat a + fpRat b ≠ 0 → ∃ n m e, fpAddExact rm a b = some (.num n m e) ∧ 0 < m
        ∧ fpRat a + fpRat b = fpRat (.num n m e)) := by
  have zero (n : Bool) : fpRat (.zero n) = 0 := rfl
  obtain ⟨n, rfl⟩ | ⟨n, m, e, rfl⟩ := isFinite_cases ha <;> obtain ⟨k, rfl⟩ | ⟨k, j, f, rfl⟩ := isFinite_cases hb
  · simp [fpAddExact, zeroSumSign, FpVal.isZero, FpVal.sign, zero]
  · rw [zero, zero_add]
    exact ⟨fun h => absurd h (fpRat_num_ne_zero sb.positive f), fun _ => ⟨k, j, f, rfl, sb.positive, rfl⟩⟩
  · rw [zero, add_zero]
    exact ⟨fun h => absurd h (fpRat_num_ne_zero sa.positive e), fun _ => ⟨n, m, e, rfl, sa.positive, rfl⟩⟩
  · obtain ⟨cancel, number⟩ := fpSum_value rm (.num n m e) (.num k j f)
    refine ⟨fun h => congrArg some (cancel h), fun h => ?_⟩
    obtain ⟨n', m', e', sum, positive, value⟩ := number h
    exact ⟨n', m', e', congrArg some sum, positive, value⟩

/-! ### Quotients (R504) -/

/-- The quotient kept to 130 bits more, with a last bit for the rest, stands for the exact quotient. -/
theorem approximates_fpQuotient {m k : Nat} (hm : 2 ^ 23 ≤ m) (hk : 0 < k) (hk' : k < 2 ^ 64) :
    Approximates (2 * (m * 2 ^ 130 / k) + (if m * 2 ^ 130 % k = 0 then 0 else 1)) (2 * (m * 2 ^ 130 : Nat) / k) := by
  have divisor : (0 : ℚ) < k := by exact_mod_cast hk
  have parts : ((m * 2 ^ 130 : Nat) : ℚ) = k * (m * 2 ^ 130 / k : Nat) + (m * 2 ^ 130 % k : Nat) := by
    exact_mod_cast (Nat.div_add_mod ..).symm
  have rest : m * 2 ^ 130 % k < k := Nat.mod_lt _ hk
  have long : 2 ^ 64 ≤ m * 2 ^ 130 / k := by
    rw [Nat.le_div_iff_mul_le hk]
    nlinarith
  generalize m * 2 ^ 130 / k = q at *
  generalize m * 2 ^ 130 % k = r at *
  rw [parts]
  refine ⟨by omega, ?_⟩
  split
  · next exact =>
    left
    rw [exact]; push_cast; field_simp; ring
  · next inexact =>
    right
    have positive : (0 : ℚ) < r := by exact_mod_cast Nat.pos_of_ne_zero inexact
    have rest : (r : ℚ) < k := by exact_mod_cast rest
    have difference : 2 * ((k : ℚ) * q + r) / k - ((2 * q + 1 : Nat) : ℚ) = 2 * (r / k) - 1 := by
      push_cast; field_simp; ring
    have fraction : (r : ℚ) / k < 1 := (div_lt_one divisor).mpr rest
    have above : 0 < (r : ℚ) / k := by positivity
    refine ⟨by omega, ?_, by omega⟩
    rw [difference, abs_lt]
    constructor <;> linarith

theorem fpRat_div (n l : Bool) (m k : Nat) (e f : Int) :
    fpRat (.num n m e) / fpRat (.num l k f)
      = fpSign (n != l) * (2 * (m * 2 ^ 130 : Nat) / k * 2 ^ (e - f - 131)) := by
  have exponent : (2 : ℚ) ^ e = 2 ^ (e - f - 131) * 2 ^ 131 * 2 ^ f := by
    rw [← zpow_natCast 2 131, ← zpow_add₀ (by norm_num), ← zpow_add₀ (by norm_num)]
    congr 1; push_cast; ring
  have unit : (2 : ℚ) ^ f ≠ 0 := by positivity
  rw [fpRat_num, fpRat_num, exponent]
  cases n <;> cases l <;>
    simp only [fpSign_true, fpSign_false, bne_self_eq_false, Bool.bne_true, Bool.bne_false, Bool.not_false] <;>
    push_cast <;> field_simp <;> ring

theorem fpRat_mul (n l : Bool) (m k : Nat) (e f : Int) :
    fpRat (.num n m e) * fpRat (.num l k f) = fpRat (.num (n != l) (m * k) (e + f)) := by
  rw [fpRat_num, fpRat_num, fpRat_num, zpow_add₀ (by norm_num)]
  cases n <;> cases l <;> simp <;> ring

end Sys2Proof.Machine

/-! ## Floating-point arithmetic: range, rounding and special operands -/

namespace Sys2Proof.Machine

/-! ### The results of the operations -/

section
variable {a b : FpVal} (fpcr : Word) (td : FpSize)

theorem delivered_fpDeliver {n : Bool} {m : Nat} (positive : 0 < m) (e : Int) :
    ∃ r, FpDelivered fpcr td (fpRat (.num n m e)) r (fpDeliver fpcr td (.num n m e)) :=
  delivered_fpDeliverNum fpcr td (approximates_self positive) ((fpRat_num ..).trans (mul_assoc ..))

theorem not_reserved_of_isFinite (h : a.isFinite = true) : a.reserved = false := by
  obtain ⟨n, rfl⟩ | ⟨n, m, e, rfl⟩ := isFinite_cases h <;> rfl

theorem fpAdd_ordered {w : FpVal} (ha : a.reserved = false) (hb : b.reserved = false)
    (h : fpAddExact (fpcrRm fpcr) a b = some w) : fpAdd fpcr td a b = fpDeliver fpcr td w := by
  simp only [fpAdd, ha, hb, h, Bool.or_self, Bool.false_eq_true, if_false]

/-- A sum of zero (R500). -/
theorem fpAdd_zero (ha : a.isFinite = true) (hb : b.isFinite = true) (sa : SourceSized a) (sb : SourceSized b)
    (zero : fpRat a + fpRat b = 0) : fpAdd fpcr td a b = .value (.zero (zeroSumSign (fpcrRm fpcr) a b)) false :=
  fpAdd_ordered fpcr td (not_reserved_of_isFinite ha) (not_reserved_of_isFinite hb)
    ((fpAddExact_finite _ ha hb sa sb).1 zero)

theorem delivered_fpAdd (ha : a.isFinite = true) (hb : b.isFinite = true) (sa : SourceSized a) (sb : SourceSized b)
    (nonzero : fpRat a + fpRat b ≠ 0) : ∃ r, FpDelivered fpcr td (fpRat a + fpRat b) r (fpAdd fpcr td a b) := by
  obtain ⟨n, m, e, exact, positive, value⟩ := (fpAddExact_finite (fpcrRm fpcr) ha hb sa sb).2 nonzero
  rw [fpAdd_ordered fpcr td (not_reserved_of_isFinite ha) (not_reserved_of_isFinite hb) exact, value]
  exact delivered_fpDeliver fpcr td positive e

/-- An infinity added to a finite operand or to itself. -/
theorem fpAdd_inf {n : Bool}
    (h : (a = .inf n ∧ (b = .inf n ∨ b.isFinite = true)) ∨ (b = .inf n ∧ a.isFinite = true)) :
    fpAdd fpcr td a b = .value (.inf n) false := by
  have exact : a.reserved = false ∧ b.reserved = false ∧ fpAddExact (fpcrRm fpcr) a b = some (.inf n) := by
    obtain ⟨rfl, rfl | finite⟩ | ⟨rfl, finite⟩ := h
    · exact ⟨rfl, rfl, if_pos rfl⟩
    · obtain ⟨k, rfl⟩ | ⟨k, m, e, rfl⟩ := isFinite_cases finite <;> exact ⟨rfl, rfl, rfl⟩
    · obtain ⟨k, rfl⟩ | ⟨k, m, e, rfl⟩ := isFinite_cases finite <;> exact ⟨rfl, rfl, rfl⟩
  exact fpAdd_ordered fpcr td exact.1 exact.2.1 exact.2.2

theorem delivered_fpMul (ha : a.isNum = true) (hb : b.isNum = true) (sa : SourceSized a) (sb : SourceSized b) :
    ∃ r, FpDelivered fpcr td (fpRat a * fpRat b) r (fpMul fpcr td a b) := by
  obtain ⟨n, m, e, rfl⟩ := isNum_cases ha
  obtain ⟨l, k, f, rfl⟩ := isNum_cases hb
  rw [fpRat_mul]
  exact delivered_fpDeliver fpcr td (Nat.mul_pos sa.positive sb.positive) (e + f)

theorem fpDiv_num (n l : Bool) (m k : Nat) (e f : Int) : fpDiv fpcr td (.num n m e) (.num l k f)
    = fpDeliverNum fpcr td (n != l) (2 * (m * 2 ^ 130 / k) + (if m * 2 ^ 130 % k = 0 then 0 else 1)) (e - f - 131) := by
  simp only [fpDiv, FpVal.reserved, FpVal.isZero, FpVal.isInf, fpDivExact, fpQuotient, fpDeliver, FpVal.sign,
    Bool.or_self, Bool.and_self, Bool.not_false, Bool.and_true, Bool.false_eq_true, if_false]

theorem delivered_fpDiv (ha : a.isNum = true) (hb : b.isNum = true) (sa : SourceSized a) (sb : SourceSized b) :
    ∃ r, FpDelivered fpcr td (fpRat a / fpRat b) r (fpDiv fpcr td a b) := by
  obtain ⟨n, m, e, rfl⟩ := isNum_cases ha
  obtain ⟨l, k, f, rfl⟩ := isNum_cases hb
  rw [fpDiv_num]
  exact delivered_fpDeliverNum fpcr td
    (approximates_fpQuotient (sa n m e rfl).1 sb.positive (sb l k f rfl).2) (fpRat_div n l m k e f)

/-- A product with a zero. -/
theorem fpMul_zero (h : (a.isZero = true ∧ b.isFinite = true) ∨ (a.isFinite = true ∧ b.isZero = true)) :
    fpMul fpcr td a b = .value (.zero (a.sign != b.sign)) false := by
  obtain ⟨zero, finite⟩ | ⟨finite, zero⟩ := h <;> obtain ⟨n, rfl⟩ := isZero_cases zero <;>
    obtain ⟨k, rfl⟩ | ⟨k, m, e, rfl⟩ := isFinite_cases finite <;> rfl

/-- A product with an infinity. -/
theorem fpMul_inf
    (h : (a.isInf = true ∧ (b.isInf = true ∨ b.isNum = true)) ∨ (a.isNum = true ∧ b.isInf = true)) :
    fpMul fpcr td a b = .value (.inf (a.sign != b.sign)) false := by
  obtain ⟨infinite, other | number⟩ | ⟨number, infinite⟩ := h <;> obtain ⟨n, rfl⟩ := isInf_cases infinite
  · obtain ⟨k, rfl⟩ := isInf_cases other; rfl
  · obtain ⟨k, m, e, rfl⟩ := isNum_cases number; rfl
  · obtain ⟨k, m, e, rfl⟩ := isNum_cases number; rfl

/-- A quotient of zero or by infinity. -/
theorem fpDiv_zero
    (h : (a.isZero = true ∧ (b.isNum = true ∨ b.isInf = true)) ∨ (a.isNum = true ∧ b.isInf = true)) :
    fpDiv fpcr td a b = .value (.zero (a.sign != b.sign)) false := by
  obtain ⟨zero, number | infinite⟩ | ⟨number, infinite⟩ := h
  · obtain ⟨n, rfl⟩ := isZero_cases zero; obtain ⟨k, m, e, rfl⟩ := isNum_cases number; rfl
  · obtain ⟨n, rfl⟩ := isZero_cases zero; obtain ⟨k, rfl⟩ := isInf_cases infinite; rfl
  · obtain ⟨n, m, e, rfl⟩ := isNum_cases number; obtain ⟨k, rfl⟩ := isInf_cases infinite; rfl

/-- A quotient of infinity, or in time-critical mode of a number by zero. -/
theorem fpDiv_inf
    (h : (a.isInf = true ∧ b.isFinite = true) ∨ (a.isNum = true ∧ b.isZero = true ∧ fpcrTcfp fpcr = true)) :
    fpDiv fpcr td a b = .value (.inf (a.sign != b.sign)) false := by
  obtain ⟨infinite, finite⟩ | ⟨number, zero, critical⟩ := h
  · obtain ⟨n, rfl⟩ := isInf_cases infinite
    obtain ⟨k, rfl⟩ | ⟨k, m, e, rfl⟩ := isFinite_cases finite <;> rfl
  · obtain ⟨n, m, e, rfl⟩ := isNum_cases number
    obtain ⟨k, rfl⟩ := isZero_cases zero
    exact if_pos critical

theorem delivered_fpConvert (ha : a.isNum = true) (sa : SourceSized a) :
    ∃ r, FpDelivered fpcr td (fpRat a) r (fpConvert fpcr td a) := by
  obtain ⟨n, m, e, rfl⟩ := isNum_cases ha
  exact delivered_fpDeliver fpcr td sa.positive e

/-- The value of a nonzero integer (R507). -/
theorem delivered_fpOfInt {n : Int} (nonzero : n ≠ 0) :
    ∃ r, FpDelivered fpcr td (n : ℚ) r (fpDeliver fpcr td (fpOfInt n)) := by
  have value : (n : ℚ) = fpRat (.num (decide (n < 0)) n.natAbs 0) := by
    rw [fpRat_num, zpow_zero, mul_one]
    obtain negative | positive := lt_or_gt_of_ne nonzero
    · rw [decide_eq_true negative, fpSign_true, Nat.cast_natAbs, abs_of_neg negative]; simp
    · rw [decide_eq_false (by omega), fpSign_false, Nat.cast_natAbs, abs_of_pos positive]; simp
  rw [value, fpOfInt, if_neg nonzero]
  exact delivered_fpDeliver fpcr td (Int.natAbs_pos.mpr nonzero) 0

end

/-! ### The instructions past their checks (R495) -/

section
variable {s : State} {x : Bool} {t1 t2 td : FpSize} {d s1 s2 : RegNum} (enabled : psrSfd1 s = false)
  (usable1 : fpUsable x t1 s1 = true) (usable2 : fpUsable x t2 s2 = true) (usable : fpUsable x td d = true)
include enabled

section
include usable1 usable2 usable

theorem exec_fadd_passed : exec (.fadd d s1 x t1 t2 td s2) s
    = fpFinish x td d (fpAdd s.fpcr td (fpSource s x t1 s1) (fpSource s x t2 s2)) s :=
  fpChecked_passed enabled (by rw [usable1, usable2, usable]; rfl)

theorem exec_fsub_passed : exec (.fsub d s1 x t1 t2 td s2) s
    = fpFinish x td d (fpAdd s.fpcr td (fpSource s x t1 s1) (fpSource s x t2 s2).negate) s :=
  fpChecked_passed enabled (by rw [usable1, usable2, usable]; rfl)

theorem exec_fmul_passed : exec (.fmul d s1 x t1 t2 td s2) s
    = fpFinish x td d (fpMul s.fpcr td (fpSource s x t1 s1) (fpSource s x t2 s2)) s :=
  fpChecked_passed enabled (by rw [usable1, usable2, usable]; rfl)

theorem exec_fdiv_passed : exec (.fdiv d s1 x t1 t2 td s2) s
    = fpFinish x td d (fpDiv s.fpcr td (fpSource s x t1 s1) (fpSource s x t2 s2)) s :=
  fpChecked_passed enabled (by rw [usable1, usable2, usable]; rfl)

end

theorem exec_fcvt_passed (usable2 : fpUsable x t2 s2 = true) (usable : fpUsable x td d = true) :
    exec (.fcvt d x t2 td s2) s = fpFinish x td d (fpConvert s.fpcr td (fpSource s x t2 s2)) s :=
  fpChecked_passed enabled (by rw [usable2, usable]; rfl)

theorem exec_flt_passed (usable : fpUsable x td d = true) :
    exec (.flt d x td s2) s = fpFinish x td d (fpDeliver s.fpcr td (fpOfInt (readReg s s2).toInt)) s :=
  fpChecked_passed enabled usable

end

/-- Settles O36: each operation delivers one rounding of its exact result. -/
theorem floatingOverflowAndUnderflow : Obligations.FloatingOverflowAndUnderflow := by
  unfold Obligations.FloatingOverflowAndUnderflow
  intro s x t1 t2 td d s1 s2 enabled usable1 usable2 usable a b
  have sa : SourceSized a := sourceSized_fpSource s x t1 s1
  have sb : SourceSized b := sourceSized_fpSource s x t2 s2
  refine ⟨fun ha hb => ⟨?_, ?_⟩, fun ha hb => ⟨?_, ?_⟩, fun hb => ?_⟩
  · exact rangeChecked_of_delivered (exec_fadd_passed enabled usable1 usable2 usable) usable
      (delivered_fpAdd s.fpcr td ha hb sa sb)
  · rw [sub_eq_add_neg, ← fpRat_negate]
    exact rangeChecked_of_delivered (exec_fsub_passed enabled usable1 usable2 usable) usable
      (delivered_fpAdd s.fpcr td ha ((isFinite_negate b).trans hb) sa sb.negate)
  · exact rangeChecked_of_delivered (exec_fmul_passed enabled usable1 usable2 usable) usable
      fun _ => delivered_fpMul s.fpcr td ha hb sa sb
  · exact rangeChecked_of_delivered (exec_fdiv_passed enabled usable1 usable2 usable) usable
      fun _ => delivered_fpDiv s.fpcr td ha hb sa sb
  · exact rangeChecked_of_delivered (exec_fcvt_passed enabled usable2 usable) usable
      fun _ => delivered_fpConvert s.fpcr td hb sb

/-- Settles O28: a finite sum is rounded once, a sum of zero and a sum with an infinity are exact. -/
theorem floatingAddAndSubtractRoundCorrectly : Obligations.FloatingAddAndSubtractRoundCorrectly := by
  unfold Obligations.FloatingAddAndSubtractRoundCorrectly
  intro s x t1 t2 td d s1 s2 enabled usable1 usable2 usable sum
  have sums {a b : FpVal} {i : Instr} (h : exec i s = fpFinish x td d (fpAdd s.fpcr td a b) s) (sa : SourceSized a)
      (sb : SourceSized b) : sum a b i := by
    refine ⟨fun ha hb => ⟨?_, fun zero => ?_⟩, fun n infinite => ?_⟩
    · exact (rangeChecked_of_delivered h usable (delivered_fpAdd s.fpcr td ha hb sa sb)).rounds
    · rw [fpAdd_zero s.fpcr td ha hb sa sb zero] at h
      exact does_of_special h usable (.inl rfl)
    · rw [fpAdd_inf s.fpcr td infinite] at h
      exact does_of_special h usable (.inr rfl)
  have sa := sourceSized_fpSource s x t1 s1
  have sb := sourceSized_fpSource s x t2 s2
  exact ⟨sums (exec_fadd_passed enabled usable1 usable2 usable) sa sb,
    sums (exec_fsub_passed enabled usable1 usable2 usable) sa sb.negate⟩

/-- Settles O29: products and quotients of numbers are rounded once, the other ordered ones are exact. -/
theorem floatingMultiplyAndDivideRoundCorrectly : Obligations.FloatingMultiplyAndDivideRoundCorrectly := by
  unfold Obligations.FloatingMultiplyAndDivideRoundCorrectly
  intro s x t1 t2 td d s1 s2 enabled usable1 usable2 usable a b minus gives
  have sa : SourceSized a := sourceSized_fpSource s x t1 s1
  have sb : SourceSized b := sourceSized_fpSource s x t2 s2
  have mul : exec (.fmul d s1 x t1 t2 td s2) s = fpFinish x td d (fpMul s.fpcr td a b) s :=
    exec_fmul_passed enabled usable1 usable2 usable
  have div : exec (.fdiv d s1 x t1 t2 td s2) s = fpFinish x td d (fpDiv s.fpcr td a b) s :=
    exec_fdiv_passed enabled usable1 usable2 usable
  refine ⟨fun ha hb => ⟨?_, ?_⟩, fun h => ?_, fun h => ?_, fun h => ?_, fun h => ?_⟩
  · exact (rangeChecked_of_delivered mul usable fun _ => delivered_fpMul s.fpcr td ha hb sa sb).rounds
  · exact (rangeChecked_of_delivered div usable fun _ => delivered_fpDiv s.fpcr td ha hb sa sb).rounds
  · rw [fpMul_zero s.fpcr td h] at mul
    exact does_of_special mul usable (.inl rfl)
  · rw [fpMul_inf s.fpcr td h] at mul
    exact does_of_special mul usable (.inr rfl)
  · rw [fpDiv_zero s.fpcr td h] at div
    exact does_of_special div usable (.inl rfl)
  · rw [fpDiv_inf s.fpcr td h] at div
    exact does_of_special div usable (.inr rfl)

/-- Every nonzero integer is in the range of every format. -/
theorem inRange_toInt (td : FpSize) {v : Word} (nonzero : v.toInt ≠ 0) : InRange td (v.toInt : ℚ) := by
  have bias := fpBias_bounds td
  have prec := fpPrec_bounds td
  have least : (1 : ℚ) ≤ |(v.toInt : ℚ)| := by exact_mod_cast Int.one_le_abs nonzero
  have most : |(v.toInt : ℚ)| ≤ 2 ^ 31 := by
    have low := BitVec.le_toInt v
    have high := BitVec.toInt_lt (x := v)
    have : |v.toInt| ≤ 2 ^ 31 := abs_le.mpr ⟨by omega, by omega⟩
    exact_mod_cast this
  refine ⟨?_, ?_⟩
  · calc (2 : ℚ) ^ (1 - (fpBias td : Int)) ≤ 2 ^ (0 : Int) := two_zpow_le (by omega)
      _ ≤ |(v.toInt : ℚ)| := by rwa [zpow_zero]
  · have two : (2 : ℚ) ≤ 2 ^ fpPrec td := le_self_pow₀ (by norm_num) (by omega)
    calc |(v.toInt : ℚ)| ≤ 1 * 2 ^ (31 : Int) := by rw [one_mul]; exact_mod_cast most
      _ ≤ (2 ^ fpPrec td - 1) * 2 ^ ((fpBias td : Int) - (fpPrec td : Int) + 1) :=
        mul_le_mul (by linarith) (two_zpow_le (by omega)) (by positivity) (by linarith)

/-- Settles O30: a number and an integer are rounded once, zeros and infinities keep their sign. -/
theorem floatingConversionsRoundCorrectly : Obligations.FloatingConversionsRoundCorrectly := by
  unfold Obligations.FloatingConversionsRoundCorrectly
  intro s x t2 td d s2 enabled usable a n
  have flt : exec (.flt d x td s2) s = fpFinish x td d (fpDeliver s.fpcr td (fpOfInt n)) s :=
    exec_flt_passed enabled usable
  refine ⟨fun usable2 => ⟨fun h => ?_, fun h => ?_, fun h => ?_⟩, fun nonzero => ⟨?_, ?_⟩, fun zero => ?_⟩
  · exact (rangeChecked_of_delivered (exec_fcvt_passed enabled usable2 usable) usable fun _ =>
      delivered_fpConvert s.fpcr td h (sourceSized_fpSource s x t2 s2)).rounds
  · have fcvt : exec (.fcvt d x t2 td s2) s = fpFinish x td d (fpConvert s.fpcr td a) s :=
      exec_fcvt_passed enabled usable2 usable
    obtain ⟨k, ha⟩ := isZero_cases h
    rw [ha] at fcvt ⊢
    exact does_of_special fcvt usable (.inl rfl)
  · have fcvt : exec (.fcvt d x t2 td s2) s = fpFinish x td d (fpConvert s.fpcr td a) s :=
      exec_fcvt_passed enabled usable2 usable
    obtain ⟨k, ha⟩ := isInf_cases h
    rw [ha] at fcvt ⊢
    exact does_of_special fcvt usable (.inr rfl)
  · exact inRange_toInt td nonzero
  · exact (rangeChecked_of_delivered flt usable fun _ => delivered_fpOfInt s.fpcr td nonzero).rounds
  · rw [fpOfInt, if_pos zero] at flt
    exact does_of_special flt usable (.inl rfl)

end Sys2Proof.Machine

/-! ## Floating-point compare -/

namespace Sys2Proof.Machine

/-! ### The order of two ordered operands (43_floating_point.md R511) -/

theorem fpExtended_zero (n : Bool) : fpExtended (.zero n) = 0 := rfl

/-- An ordered operand is an infinity or finite, with the rank and the place of its value. -/
theorem ordered_cases {a : FpVal} (h : a.reserved = false) :
    (∃ n, a = .inf n) ∨ (a.rank = 0 ∧ fpExtended a = ((fpRat a : WithTop ℚ) : WithBot (WithTop ℚ))) := by
  cases a with
  | inf n => exact .inl ⟨n, rfl⟩
  | zero | num => exact .inr ⟨rfl, rfl⟩
  | nan | denorm => cases h

/-- Two operands brought to one exponent compare as their values. -/
theorem fpScaled_lt_iff (a b : FpVal) :
    fpScaled a (min a.exponent b.exponent) < fpScaled b (min a.exponent b.exponent) ↔ fpRat a < fpRat b := by
  have unit : (0 : ℚ) < 2 ^ min a.exponent b.exponent := by positivity
  rw [← fpScaled_value (min_le_left a.exponent b.exponent), ← fpScaled_value (min_le_right a.exponent b.exponent),
    mul_lt_mul_iff_left₀ unit, Int.cast_lt]

theorem fpExtended_inf_true : fpExtended (.inf true) = ⊥ := rfl
theorem fpExtended_inf_false : fpExtended (.inf false) = ((⊤ : WithTop ℚ) : WithBot (WithTop ℚ)) := rfl
theorem rank_inf (n : Bool) : (FpVal.inf n).rank = if n then -1 else 1 := rfl

/-- The comparison is that of the extended reals. -/
theorem fpLt_iff {a b : FpVal} (ha : a.reserved = false) (hb : b.reserved = false) :
    fpLt a b = true ↔ fpExtended a < fpExtended b := by
  have scaled (n : Bool) (e : Int) : fpScaled (.inf n) e = 0 := rfl
  simp only [fpLt, Bool.or_eq_true, Bool.and_eq_true, decide_eq_true_iff, fpScaled_lt_iff]
  obtain ⟨n, rfl⟩ | ⟨rankA, valueA⟩ := ordered_cases ha <;> obtain ⟨k, rfl⟩ | ⟨rankB, valueB⟩ := ordered_cases hb
  · have zero (n : Bool) : fpRat (.inf n) = 0 := rfl
    cases n <;> cases k <;> simp [rank_inf, fpExtended_inf_true, fpExtended_inf_false, zero]
  · rw [rankB, valueB, rank_inf]
    cases n <;> simp [fpExtended_inf_true, fpExtended_inf_false]
  · rw [rankA, valueA, rank_inf]
    cases k
    · simpa [fpExtended_inf_false] using WithBot.coe_lt_coe.mpr (WithTop.coe_lt_top (fpRat a))
    · simp [fpExtended_inf_true]
  · rw [rankA, rankB, valueA, valueB, WithBot.coe_lt_coe, WithTop.coe_lt_coe]
    simp

/-! ### The result string -/

theorem fpBit_bit {n : Nat} (hn : n < 32) (b : Bool) (i : Nat) : (fpBit n b).getLsbD i = (decide (i = n) && b) :=
  stringBit_bit hn b i

/-- The predicates of the result string by their bits (R511, 92_eei_decisions.md D34). -/
def fpPredicate (a b : FpVal) : Nat → Bool
  | 1 => true
  | 2 => !fpLt a b && !fpLt b a
  | 3 => fpLt a b || fpLt b a
  | 4 => fpLt b a
  | 5 => !fpLt b a
  | 6 => fpLt a b
  | 7 => !fpLt a b
  | 8 => !fpLt b (.zero false) && (fpLt a (.zero false) || fpLt b a)
  | 9 => !fpLt b (.zero false) && (!fpLt a (.zero false) && !fpLt b a)
  | 10 => !fpLt b (.zero false) && (fpLt (.zero false) a && fpLt a b)
  | 11 => !fpLt b (.zero false) && (!fpLt (.zero false) a || !fpLt a b)
  | 12 => !fpLt a b && !fpLt b a
  | 13 => fpLt a b || fpLt b a
  | 14 => fpLt b a
  | 15 => !fpLt b a
  | 16 => fpLt a b
  | 17 => !fpLt a b
  | _ => false

theorem fpOrdered_bit (a b : FpVal) (i : Nat) : (fpOrdered a b).getLsbD i = fpPredicate a b i := by
  simp only [fpOrdered, BitVec.getLsbD_or, fpBit_bit, Nat.reduceLT]
  unfold fpPredicate
  split
  case h_18 => simp_all
  all_goals simp [Bool.not_and]

/-- Each predicate of two ordered operands stands at its own bit. -/
theorem isFpCompareString_fpOrdered {a b : FpVal} (ha : a.reserved = false) (hb : b.reserved = false) :
    IsFpCompareString (fpExtended a) (fpExtended b) (fpOrdered a b) := by
  have hz : (FpVal.zero false).reserved = false := rfl
  have equal : fpExtended a = fpExtended b ↔ ¬ fpExtended a < fpExtended b ∧ ¬ fpExtended b < fpExtended a := by
    rw [not_lt, not_lt, and_comm, le_antisymm_iff]
  have different : fpExtended a ≠ fpExtended b ↔ fpExtended a < fpExtended b ∨ fpExtended b < fpExtended a :=
    lt_or_lt_iff_ne.symm
  have outside (i : Nat) (hi : 18 ≤ i) : fpPredicate a b i = false := by
    unfold fpPredicate
    split
    any_goals omega
    rfl
  refine ⟨?_, ?_, ?_, ?_, ?_, ?_, ?_, ?_, ?_, ?_, ?_, ?_, ?_, ?_, ?_, ?_, ?_, ?_, fun i hi => ?_⟩
  case refine_19 => rw [fpOrdered_bit, outside i hi]
  all_goals
    simp only [fpOrdered_bit, fpPredicate, Bool.and_eq_true, Bool.or_eq_true, Bool.not_eq_true', ← Bool.not_eq_true,
      fpLt_iff ha hb, fpLt_iff hb ha, fpLt_iff ha hz, fpLt_iff hz ha, fpLt_iff hb hz, fpExtended_zero, equal, different,
      not_lt]

section
variable {s : State} {x : Bool} {t1 t2 : FpSize} {d s1 s2 : RegNum} (enabled : psrSfd1 s = false)
include enabled

theorem exec_fcmp_passed (usable1 : fpUsable x t1 s1 = true) (usable2 : fpUsable x t2 s2 = true) :
    exec (.fcmp d s1 x t1 t2 s2) s = intFinish d (fpCompare s.fpcr (fpSource s x t1 s1) (fpSource s x t2 s2)) s :=
  fpChecked_passed enabled (by rw [usable1, usable2]; rfl)

theorem exec_fcmpu_passed (usable1 : fpUsable x t1 s1 = true) (usable2 : fpUsable x t2 s2 = true) :
    exec (.fcmpu d s1 x t1 t2 s2) s = intFinish d (fpCompare s.fpcr (fpSource s x t1 s1) (fpSource s x t2 s2)) s :=
  fpChecked_passed enabled (by rw [usable1, usable2]; rfl)

theorem exec_int_passed (usable2 : fpUsable x t2 s2 = true) : exec (.int d x t2 s2) s
    = intFinish d (fpToInt s.fpcr (fpcrRm s.fpcr) (fpSource s x t2 s2)) s := fpChecked_passed enabled usable2

theorem exec_nint_passed (usable2 : fpUsable x t2 s2 = true) : exec (.nint d x t2 s2) s
    = intFinish d (fpToInt s.fpcr 0#2 (fpSource s x t2 s2)) s := fpChecked_passed enabled usable2

theorem exec_trnc_passed (usable2 : fpUsable x t2 s2 = true) : exec (.trnc d x t2 s2) s
    = intFinish d (fpToInt s.fpcr 1#2 (fpSource s x t2 s2)) s := fpChecked_passed enabled usable2

end

theorem fpCompare_ordered {a b : FpVal} (fpcr : Word) (ha : a.reserved = false) (hb : b.reserved = false) :
    fpCompare fpcr a b = .value (fpOrdered a b) false := by
  rw [fpCompare, ha, hb]
  rfl

/-- Settles O32: both write the result string of their ordered operands. -/
theorem floatingCompare : Obligations.FloatingCompare := by
  unfold Obligations.FloatingCompare
  intro s x t1 t2 d s1 s2 enabled usable1 usable2 ha hb
  have ordered := fpCompare_ordered s.fpcr ha hb
  exact ⟨_, isFpCompareString_fpOrdered ha hb,
    does_of_intFinish_exact ((exec_fcmp_passed enabled usable1 usable2).trans (by rw [ordered])),
    does_of_intFinish_exact ((exec_fcmpu_passed enabled usable1 usable2).trans (by rw [ordered]))⟩

end Sys2Proof.Machine

/-! ## Reserved operands and invalid operations -/

namespace Sys2Proof.Machine

section
variable {i : Instr} {s : State} {x : Bool} {td : FpSize} {d : RegNum}

/-- An invalid operation delivers the universal NaN or raises the reserved operand exception (43_floating_point.md
R498). -/
theorem invalidGives_of_fpInvalid {neg : Bool} (h : exec i s = fpFinish x td d (fpInvalid s.fpcr neg) s)
    (usable : fpUsable x td d = true) : InvalidGives i x td d neg s := by
  rw [fpInvalid] at h
  unfold InvalidGives
  split
  · next critical =>
    rw [if_pos critical] at h
    refine (does_of_fpFinish_value h usable).imp fun _ written => ⟨?_, ?_, written.frame⟩
    · rw [← fpPack_nan]; exact written.image
    · rw [written.afinx, Bool.false_or]
  · next strict =>
    rw [if_neg strict] at h
    exact does_of_fpFinish_trap h rfl

/-- A reserved operand of an instruction with an integer destination: a word, or the reserved operand exception. -/
theorem does_of_reservedToInt {v : Word}
    (h : exec i s = intFinish d (if fpcrTcfp s.fpcr then .value v false else .trap 0x10#32) s) :
    if fpcrTcfp s.fpcr then Does i s (Sets d v s) else Does i s (EntersSfu1 0x10#32 s) := by
  split
  · next critical =>
    rw [if_pos critical] at h
    exact does_of_intFinish_exact h
  · next strict =>
    rw [if_neg strict] at h
    exact does_of_intFinish_trap h rfl

end

section
variable {a b : FpVal} (fpcr : Word) (td : FpSize)

theorem or_reserved (h : a.reserved = true ∨ b.reserved = true) : (a.reserved || b.reserved) = true := by simpa using h

theorem fpAdd_reserved (h : a.reserved = true ∨ b.reserved = true) : fpAdd fpcr td a b = fpInvalid fpcr false :=
  if_pos (or_reserved h)

theorem fpMul_reserved (h : a.reserved = true ∨ b.reserved = true) :
    fpMul fpcr td a b = fpInvalid fpcr (a.sign != b.sign) := if_pos (or_reserved h)

theorem fpDiv_invalid (h : (a.reserved = true ∨ b.reserved = true) ∨ (a.isZero = true ∧ b.isZero = true)
    ∨ (a.isInf = true ∧ b.isInf = true)) : fpDiv fpcr td a b = fpInvalid fpcr (a.sign != b.sign) :=
  if_pos (by simpa [or_assoc] using h)

theorem fpCompare_reserved (h : a.reserved = true ∨ b.reserved = true) :
    fpCompare fpcr a b = if fpcrTcfp fpcr then .value fpUnordered false else .trap 0x10#32 := if_pos (or_reserved h)

/-- The difference of equal infinities. -/
theorem fpAdd_inf_opposite {n m : Bool} (h : n ≠ m) : fpAdd fpcr td (.inf n) (.inf m) = fpInvalid fpcr false := by
  have none : fpAddExact (fpcrRm fpcr) (.inf n) (.inf m) = none := if_neg h
  simp only [fpAdd, none, FpVal.reserved, Bool.or_self, Bool.false_eq_true, if_false]

/-- Zero times infinity. -/
theorem fpMul_invalid (h : a.isInf = true ∧ b.isZero = true ∨ a.isZero = true ∧ b.isInf = true) :
    fpMul fpcr td a b = fpInvalid fpcr (a.sign != b.sign) := by
  obtain ⟨infinite, zero⟩ | ⟨zero, infinite⟩ := h <;> obtain ⟨n, rfl⟩ := isInf_cases infinite <;>
    obtain ⟨k, rfl⟩ := isZero_cases zero <;> rfl

/-- A number divided by zero outside the time-critical mode (R504). -/
theorem fpDiv_byZero (ha : a.isNum = true) (hb : b.isZero = true) (strict : fpcrTcfp fpcr = false) :
    fpDiv fpcr td a b = .trap 0x08#32 := by
  obtain ⟨n, m, e, rfl⟩ := isNum_cases ha
  obtain ⟨k, rfl⟩ := isZero_cases hb
  exact if_neg (by rw [strict]; decide)

end

/-- Settles O35: each operation of reserved operands or of invalid ones is one of the shared ends. -/
theorem reservedOperandsAndInvalidOperations : Obligations.ReservedOperandsAndInvalidOperations := by
  unfold Obligations.ReservedOperandsAndInvalidOperations
  intro s x t1 t2 td d s1 s2 enabled usable1 usable2 usable a b gives puts minus
  have add : exec (.fadd d s1 x t1 t2 td s2) s = fpFinish x td d (fpAdd s.fpcr td a b) s :=
    exec_fadd_passed enabled usable1 usable2 usable
  have sub : exec (.fsub d s1 x t1 t2 td s2) s = fpFinish x td d (fpAdd s.fpcr td a b.negate) s :=
    exec_fsub_passed enabled usable1 usable2 usable
  have mul : exec (.fmul d s1 x t1 t2 td s2) s = fpFinish x td d (fpMul s.fpcr td a b) s :=
    exec_fmul_passed enabled usable1 usable2 usable
  have div : exec (.fdiv d s1 x t1 t2 td s2) s = fpFinish x td d (fpDiv s.fpcr td a b) s :=
    exec_fdiv_passed enabled usable1 usable2 usable
  have cmp : exec (.fcmp d s1 x t1 t2 s2) s = intFinish d (fpCompare s.fpcr a b) s :=
    exec_fcmp_passed enabled usable1 usable2
  have cmpu : exec (.fcmpu d s1 x t1 t2 s2) s = intFinish d (fpCompare s.fpcr a b) s :=
    exec_fcmpu_passed enabled usable1 usable2
  have cvt : exec (.fcvt d x t2 td s2) s = fpFinish x td d (fpConvert s.fpcr td b) s :=
    exec_fcvt_passed enabled usable2 usable
  have toInt : ∀ i ∈ [Instr.int d x t2 s2, Instr.nint d x t2 s2, Instr.trnc d x t2 s2],
      ∃ rm, exec i s = intFinish d (fpToInt s.fpcr rm b) s := by
    intro i hi
    simp only [List.mem_cons, List.not_mem_nil, or_false] at hi
    obtain rfl | rfl | rfl := hi
    · exact ⟨_, exec_int_passed enabled usable2⟩
    · exact ⟨_, exec_nint_passed enabled usable2⟩
    · exact ⟨_, exec_trnc_passed enabled usable2⟩
  refine ⟨fun h => ⟨?_, ?_, ?_, ?_, ?_, ?_⟩, fun h => ⟨?_, fun i hi => ⟨fun n hb => ?_, fun n hb => ?_⟩⟩,
    fun n m ha hb opposite => ?_, fun n m ha hb same => ?_, fun h => ?_, fun h => ?_, fun ha hb strict => ?_⟩
  · exact invalidGives_of_fpInvalid (add.trans (by rw [fpAdd_reserved _ _ h])) usable
  · have negated := h.imp_right (reserved_negate b).trans
    exact invalidGives_of_fpInvalid (sub.trans (by rw [fpAdd_reserved _ _ negated])) usable
  · exact invalidGives_of_fpInvalid (mul.trans (by rw [fpMul_reserved _ _ h])) usable
  · exact invalidGives_of_fpInvalid (div.trans (by rw [fpDiv_invalid _ _ (.inl h)])) usable
  · exact does_of_reservedToInt (cmp.trans (by rw [fpCompare_reserved _ h]; rfl))
  · exact does_of_reservedToInt (cmpu.trans (by rw [fpCompare_reserved _ h]; rfl))
  · exact invalidGives_of_fpInvalid (cvt.trans (by rw [fpConvert, if_pos h])) usable
  · obtain ⟨rm, ends⟩ := toInt i hi
    exact does_of_reservedToInt (ends.trans (by rw [hb]; rfl))
  · obtain ⟨rm, ends⟩ := toInt i hi
    exact does_of_reservedToInt (ends.trans (by rw [hb]; rfl))
  · exact invalidGives_of_fpInvalid (add.trans (by rw [ha, hb, fpAdd_inf_opposite _ _ opposite])) usable
  · have opposite : n ≠ !m := by rw [same]; cases m <;> decide
    exact invalidGives_of_fpInvalid
      (sub.trans (by rw [ha, hb, FpVal.negate, fpAdd_inf_opposite _ _ opposite])) usable
  · exact invalidGives_of_fpInvalid (mul.trans (by rw [fpMul_invalid _ _ h])) usable
  · exact invalidGives_of_fpInvalid (div.trans (by rw [fpDiv_invalid _ _ (.inr h)])) usable
  · exact does_of_fpFinish_trap (div.trans (by rw [fpDiv_byZero _ _ ha hb strict])) rfl

end Sys2Proof.Machine

/-! ## Conversion to an integer -/

namespace Sys2Proof.Machine

/-! ### The integer of each rounding mode (43_floating_point.md R492, R508 to R510) -/

/-- The integer of a sign and a magnitude. -/
def signedInteger (neg : Bool) (c : Nat) : Int := if neg then -(c : Int) else (c : Int)

theorem signedInteger_cast (neg : Bool) (c : Nat) : (signedInteger neg c : ℚ) = fpSign neg * c := by
  cases neg <;> simp [signedInteger]

theorem signedInteger_even {neg : Bool} {c : Nat} (even : c % 2 = 0) : signedInteger neg c % 2 = 0 := by
  cases neg <;> simp only [signedInteger, if_true, Bool.false_eq_true, if_false] <;> omega

section
variable {rm : BitVec 2} {v : ℚ} {n k : Int}

/-- An integer is rounded to itself. -/
theorem roundsToInt_self (rm : BitVec 2) (n : Int) : RoundsToInt rm (n : ℚ) n where
  nearest _ := by norm_num
  towardZero _ := by simp
  down _ := by simp
  up _ := by simp

/-- Every value rounds to one integer. -/
theorem RoundsToInt.unique (hn : RoundsToInt rm v n) (hk : RoundsToInt rm v k) : n = k := by
  obtain rfl | rfl | rfl | rfl := roundingMode_cases rm
  · obtain ⟨nearN, tieN⟩ := hn.nearest rfl
    obtain ⟨nearK, tieK⟩ := hk.nearest rfl
    obtain ⟨lowN, highN⟩ := abs_le.mp nearN
    obtain ⟨lowK, highK⟩ := abs_le.mp nearK
    have above : n ≤ k + 1 := by exact_mod_cast (by linarith : (n : ℚ) ≤ k + 1)
    have below : k ≤ n + 1 := by exact_mod_cast (by linarith : (k : ℚ) ≤ n + 1)
    by_contra other
    obtain rfl | rfl : n = k + 1 ∨ k = n + 1 := by omega
    · push_cast at *
      have evenN := tieN (by rw [abs_of_nonpos (by linarith)]; linarith)
      have evenK := tieK (by rw [abs_of_nonneg (by linarith)]; linarith)
      omega
    · push_cast at *
      have evenN := tieN (by rw [abs_of_nonneg (by linarith)]; linarith)
      have evenK := tieK (by rw [abs_of_nonpos (by linarith)]; linarith)
      omega
  · exact (hn.towardZero rfl).trans (hk.towardZero rfl).symm
  · exact (hn.down rfl).trans (hk.down rfl).symm
  · exact (hn.up rfl).trans (hk.up rfl).symm

/-- Rounding the magnitude q + f to q or to q + 1 rounds the value to an integer. -/
theorem roundsToInt_of_chosen {neg : Bool} {q c : Nat} {f : ℚ} (chosen : Chosen rm neg q f c) (nonneg : 0 ≤ f)
    (below : f < 1) : RoundsToInt rm (fpSign neg * (q + f)) (signedInteger neg c) where
  nearest mode := by
    have distance : |fpSign neg * (q + f) - signedInteger neg c| = |(q + f) - (c : ℚ)| := by
      rw [signedInteger_cast, ← mul_sub]
      cases neg
      · rw [fpSign_false, one_mul]
      · rw [fpSign_true, neg_one_mul, abs_neg]
    rw [distance]
    refine ⟨?_, fun tie => signedInteger_even ?_⟩
    · cases chosen with
      | lower nearest =>
        have := (nearest mode).1
        rw [add_sub_cancel_left, abs_of_nonneg nonneg]; exact this
      | upper _ nearest =>
        have := (nearest mode).1
        push_cast
        rw [abs_of_nonpos (by linarith)]; linarith
    · refine chosen.even mode ?_
      cases chosen with
      | lower => rwa [add_sub_cancel_left, abs_of_nonneg nonneg] at tie
      | upper =>
        push_cast at tie
        rw [abs_of_nonpos (by linarith)] at tie; linarith
  towardZero mode := by
    cases chosen with
    | upper _ _ towardZero => exact absurd mode towardZero
    | lower =>
      have magnitude : (0 : ℚ) ≤ q + f := by positivity
      cases neg
      · rw [fpSign_false, one_mul, if_neg (not_lt.mpr magnitude), eq_comm, Int.floor_eq_iff]
        exact ⟨by simpa [signedInteger] using nonneg, by simpa [signedInteger] using below⟩
      · rw [fpSign_true, neg_one_mul]
        have value : signedInteger true q = -(q : Int) := rfl
        rw [value]
        split
        · rw [eq_comm, Int.ceil_eq_iff]
          push_cast
          constructor <;> linarith
        · rw [eq_comm, Int.floor_eq_iff]
          push_cast
          constructor <;> linarith
  down mode := by
    rw [eq_comm, Int.floor_eq_iff, signedInteger_cast]
    cases chosen with
    | lower _ down =>
      cases neg
      · rw [fpSign_false]; constructor <;> linarith
      · rw [fpSign_true, down mode rfl]; constructor <;> linarith
    | upper inexact _ _ down =>
      have positive : 0 < f := lt_of_le_of_ne nonneg (Ne.symm inexact)
      rw [down mode, fpSign_true]; push_cast; constructor <;> linarith
  up mode := by
    rw [eq_comm, Int.ceil_eq_iff, signedInteger_cast]
    cases chosen with
    | lower _ _ up =>
      cases neg
      · rw [fpSign_false, up mode rfl]; constructor <;> linarith
      · rw [fpSign_true]; constructor <;> linarith
    | upper inexact _ _ _ up =>
      have positive : 0 < f := lt_of_le_of_ne nonneg (Ne.symm inexact)
      rw [up mode, fpSign_false]; push_cast; constructor <;> linarith

end

/-! ### The conversions -/

section
variable {rm : BitVec 2} {neg : Bool} {m : Nat} {e : Int}

/-- The magnitude rounded to an integer, and whether that is inexact. -/
theorem roundToInteger_spec (rm : BitVec 2) (neg : Bool) (m : Nat) (e : Int) :
    RoundsToInt rm (fpRat (.num neg m e)) (signedInteger neg (roundToInteger rm neg m e).1)
      ∧ ((roundToInteger rm neg m e).2 = true
        ↔ (signedInteger neg (roundToInteger rm neg m e).1 : ℚ) ≠ fpRat (.num neg m e)) := by
  by_cases whole : 0 ≤ e
  · obtain ⟨k, rfl⟩ := Int.eq_ofNat_of_zero_le whole
    have value : fpRat (.num neg m k) = (signedInteger neg (m * 2 ^ k) : ℚ) := by
      rw [fpRat_num, signedInteger_cast, zpow_natCast]; push_cast; ring
    have result : roundToInteger rm neg m k = (m * 2 ^ k, false) := by
      rw [roundToInteger, if_pos whole, Int.toNat_natCast]
    rw [result, value]
    exact ⟨roundsToInt_self rm _, by simp⟩
  · obtain ⟨k, rfl, positive⟩ : ∃ k : Nat, e = -(k : Int) ∧ 1 ≤ k := ⟨(-e).toNat, by omega, by omega⟩
    have dropped := dropped_of_standsFor (M := m) (.inl ⟨rfl, positive⟩)
    have value : fpRat (.num neg m (-(k : Int)))
        = fpSign neg * ((m / 2 ^ k : Nat) + ((m : ℚ) / 2 ^ k - (m / 2 ^ k : Nat))) := by
      rw [fpRat_num, add_sub_cancel, zpow_neg, zpow_natCast, div_eq_mul_inv, mul_assoc]
    have result : roundToInteger rm neg m (-(k : Int))
        = (roundedMagnitude rm neg (m / 2 ^ k) (m % 2 ^ k) (2 ^ (k - 1)), decide (m % 2 ^ k ≠ 0)) := by
      rw [roundToInteger, if_neg whole, neg_neg, Int.toNat_natCast]
      rfl
    rw [result, value, signedInteger_cast]
    exact ⟨roundsToInt_of_chosen (chosen_of_dropped dropped rm neg _) dropped.nonneg dropped.lt_one,
      decide_eq_true_iff.trans
        (not_congr ((fpSign_mul_inj neg).trans (roundedMagnitude_eq_iff dropped rm neg _)).symm)⟩

end

/-- An integer that fits delivered, or the inexact exception. -/
def intRounded (fpcr : Word) (v : Word) (inexact : Bool) : IntOut :=
  if inexact then (fpInexact fpcr).elim (.trap 0x01#32) (.value v) else .value v false

theorem fpToIntNum_eq (fpcr : Word) (rm : BitVec 2) (neg : Bool) (m : Nat) (e : Int) {n : Int}
    (h : signedInteger neg (roundToInteger rm neg m e).1 = n) :
    fpToIntNum fpcr rm neg m e = if n < -2147483648 ∨ 2147483647 < n then intOverflowOut fpcr neg
      else intRounded fpcr (BitVec.ofInt 32 n) (roundToInteger rm neg m e).2 := by
  subst h
  simp only [fpToIntNum, intRounded, signedInteger]
  cases fpInexact fpcr <;> rfl

/-- A finite operand becomes the integer it rounds to, if that fits (R508, 92_eei_decisions.md D32). -/
theorem fpToInt_finite {a : FpVal} {n : Int} {rm : BitVec 2} (fpcr : Word) (finite : a.isFinite = true)
    (rounds : RoundsToInt rm (fpRat a) n) :
    fpToInt fpcr rm a = if n < -2147483648 ∨ 2147483647 < n then intOverflowOut fpcr a.sign
      else intRounded fpcr (BitVec.ofInt 32 n) (decide ((n : ℚ) ≠ fpRat a)) := by
  obtain ⟨k, rfl⟩ | ⟨k, m, e, rfl⟩ := isFinite_cases finite
  · have zero : fpRat (.zero k) = ((0 : Int) : ℚ) := rfl
    rw [zero] at rounds ⊢
    obtain rfl := rounds.unique (roundsToInt_self rm 0)
    simp [fpToInt, intRounded]
  · obtain ⟨result, inexact⟩ := roundToInteger_spec rm k m e
    obtain rfl := result.unique rounds
    have flag := Bool.eq_iff_iff.mpr (inexact.trans decide_eq_true_iff.symm)
    rw [← flag]
    exact fpToIntNum_eq fpcr rm k m e rfl

section
variable {i : Instr} {s : State} {d : RegNum}

theorem intRounded_allowed {v : Word} {inexact : Bool} (allowed : InexactAllowed s = true ∨ inexact = false) :
    intRounded s.fpcr v inexact = .value v inexact := by
  cases inexact
  · rfl
  · rw [intRounded, if_pos rfl, fpInexact_allowed (allowed.resolve_right (by decide))]
    rfl

/-- Conversion overflow: the exception, or in time-critical mode the large integer (R498, R508). -/
theorem does_of_intOverflow {neg : Bool} (h : exec i s = intFinish d (intOverflowOut s.fpcr neg) s) :
    if fpcrTcfp s.fpcr then Does i s (IntWrites d (largeInteger neg) false s) else Does i s (EntersSfu1 0x80#32 s) := by
  rw [intOverflowOut] at h
  split
  · next critical =>
    rw [if_pos critical] at h
    exact does_of_intFinish_value h
  · next strict =>
    rw [if_neg strict] at h
    exact does_of_intFinish_trap h rfl

end

/-- Settles O31: each conversion ends with the integer of its mode, which is unique. -/
theorem floatingToIntegerConversions : Obligations.FloatingToIntegerConversions := by
  unfold Obligations.FloatingToIntegerConversions
  intro s x t2 d s2 n enabled usable2 src a fits puts tooLarge goes
  have writes {v : Word} {f : Bool} {t : State} (h : IntWrites d v f s t) : puts v t := ⟨h.fpsr, h.sets⟩
  have overflow {i : Instr} (h : exec i s = intFinish d (intOverflowOut s.fpcr src.sign) s) : tooLarge i := by
    have ends := does_of_intOverflow h
    simp only [tooLarge]
    split at ends
    · next critical =>
      rw [if_pos critical]
      exact ends.imp fun _ => writes
    · next strict => rwa [if_neg strict]
  have finite {i : Instr} {rm : BitVec 2} (hf : src.isFinite = true) (rounds : RoundsToInt rm a n)
      (h : exec i s = intFinish d (fpToInt s.fpcr rm src) s) : goes i := by
    rw [fpToInt_finite s.fpcr hf rounds] at h
    refine ⟨fun inside allowed => ?_, fun inside refused inexact => ?_, fun outside => ?_⟩
    · obtain ⟨low, high⟩ : -2147483648 ≤ n ∧ n ≤ 2147483647 := inside
      rw [if_neg (by omega), intRounded_allowed (by simpa using allowed)] at h
      exact (does_of_intFinish_value h).imp fun _ written =>
        ⟨_, ofInt_toInt ⟨low, high⟩, written.afinx, writes written⟩
    · obtain ⟨low, high⟩ : -2147483648 ≤ n ∧ n ≤ 2147483647 := inside
      rw [if_neg (by omega), intRounded, decide_eq_true inexact, if_pos rfl, fpInexact_trapped refused] at h
      exact does_of_intFinish_trap h rfl
    · have outside : ¬ (-2147483648 ≤ n ∧ n ≤ 2147483647) := outside
      rw [if_pos (by omega)] at h
      exact overflow h
  refine ⟨fun hf => ⟨fun rounds => ?_, fun rounds => ?_, fun rounds => ?_⟩, fun hi => ?_⟩
  · exact finite hf rounds (exec_int_passed enabled usable2)
  · exact finite hf rounds (exec_nint_passed enabled usable2)
  · exact finite hf rounds (exec_trnc_passed enabled usable2)
  · have infinite (rm : BitVec 2) : fpToInt s.fpcr rm src = intOverflowOut s.fpcr src.sign := by
      obtain ⟨k, hk⟩ := isInf_cases hi
      rw [hk]; rfl
    exact ⟨overflow (infinite _ ▸ exec_int_passed enabled usable2),
      overflow (infinite _ ▸ exec_nint_passed enabled usable2),
      overflow (infinite _ ▸ exec_trnc_passed enabled usable2)⟩

end Sys2Proof.Machine

/-! ## Graphics -/

namespace Sys2Proof.Machine

/-! ### The check and the pair written -/

theorem gfxChecked_passed {usable : Bool} {s : State} {k : State → Host.Outcome State Fault Refusal}
    (enabled : psrSfd2 s = false) (passes : usable = true) : gfxChecked usable s k = k s := by
  simp [gfxChecked, enabled, passes]

theorem oddReg_of_even {d : RegNum} (even : d.toNat % 2 = 0) : oddReg d = false := by
  rw [oddReg_eq, decide_eq_false (by omega)]

section
variable {s : State} {d s1 s2 : RegNum} (enabled : psrSfd2 s = false)
include enabled

theorem pixelOp_passed {f : Nat → Nat → Nat → Nat} {p : PackSize} (legal : p.addLegal = true)
    (evenD : d.toNat % 2 = 0) (even1 : s1.toNat % 2 = 0) (even2 : s2.toNat % 2 = 0) :
    pixelOp f d s1 p s2 s = done (writePair s d (onFields p f (readPair s s1) (readPair s s2))) :=
  gfxChecked_passed enabled (by simp [oddReg_of_even, *])

theorem execPcmp_passed (even1 : s1.toNat % 2 = 0) (even2 : s2.toNat % 2 = 0) :
    execPcmp d s1 s2 s = result d (pixelCompare (readPair s s1) (readPair s s2)) s :=
  gfxChecked_passed enabled (by simp [oddReg_of_even, *])

theorem execPmul_passed (evenD : d.toNat % 2 = 0) (even2 : s2.toNat % 2 = 0) :
    execPmul d s1 s2 s = done (writePair s d (BitVec.ofNat 64 ((readReg s s1).toNat * (readPair s s2).toNat))) :=
  gfxChecked_passed enabled (by simp [oddReg_of_even, *])

theorem execPpack_passed {p : PackSize} {r : BitVec 4} (legal : ppackLegal r p = true) (evenD : d.toNat % 2 = 0)
    (even1 : s1.toNat % 2 = 0) (even2 : s2.toNat % 2 = 0) : execPpack d s1 r p s2 s
      = done (writePair s d (packResult (4 * r.toNat) (fieldBits p) (readPair s s1) (readPair s s2))) :=
  gfxChecked_passed enabled (by simp [oddReg_of_even, *])

theorem execPunpk_passed {p : PackSize} (legal : p.unpackLegal = true) (evenD : d.toNat % 2 = 0) : execPunpk d s1 p s
      = done (writePair s d (BitVec.ofNat 64 (unpackFields (fieldBits p) (32 / fieldBits p) (readReg s s1).toNat))) :=
  gfxChecked_passed enabled (by simp [oddReg_of_even, *])

theorem execProtImm_passed {r : BitVec 4} (evenD : d.toNat % 2 = 0) (even1 : s1.toNat % 2 = 0) :
    execProtImm d s1 r s = done (writePair s d (rotateNibbles (readPair s s1) r)) :=
  gfxChecked_passed enabled (by simp [oddReg_of_even, *])

theorem execProtReg_passed (evenD : d.toNat % 2 = 0) (even1 : s1.toNat % 2 = 0) : execProtReg d s1 s2 s
      = done (writePair s d (rotateNibbles (readPair s s1) ((readReg s s2).extractLsb' 2 4))) :=
  gfxChecked_passed enabled (by simp [oddReg_of_even, *])

end

/-- An instruction that writes a double word to a pair: what holds of the double word holds of the halves that the
registers receive. -/
theorem does_of_writePair {i : Instr} {s : State} {d : RegNum} {v : DWord} {P : Nat → Prop}
    (h : exec i s = done (writePair s d v)) (even : d.toNat % 2 = 0) (holds : P v.toNat) :
    ∃ hi lo : Word, Does i s (SetsPair d hi lo s) ∧ P (hi.toNat * 4294967296 + lo.toNat) := by
  have written : exec i s = done (writePair s d (BitVec.ofNat 64 v.toNat)) := by
    rw [h, BitVec.ofNat_toNat, BitVec.setWidth_eq]
  obtain ⟨hi, lo, value, sets⟩ := does_of_pairResult written v.isLt even
  exact ⟨hi, lo, sets, value ▸ holds⟩

/-! ### Fields put together

zipFields, packFields and unpackFields build a number from its fields in the same way, so that each is joinFields of what
its fields are, and how a field is read back is said once, of joinFields. -/

/-- Field k of w bits of a number. -/
def field (w x k : Nat) : Nat := x / 2 ^ (w * k) % 2 ^ w

/-- The number with the n fields g 0, g 1, … of w bits, the lowest first. -/
def joinFields (w : Nat) : Nat → (Nat → Nat) → Nat
  | 0, _ => 0
  | n + 1, g => g 0 + 2 ^ w * joinFields w n fun k => g (k + 1)

theorem field_zero (w x : Nat) : field w x 0 = x % 2 ^ w := by simp [field]

theorem field_succ (w x k : Nat) : field w x (k + 1) = field w (x / 2 ^ w) k := by
  rw [field, field, Nat.div_div_eq_div_mul, ← pow_add, Nat.mul_succ, Nat.add_comm w]

theorem field_lt (w x k : Nat) : field w x k < 2 ^ w := Nat.mod_lt _ (Nat.two_pow_pos w)

/-- n fields of w bits take no more than w * n bits. -/
theorem joinFields_lt {w n : Nat} {g : Nat → Nat} (fits : ∀ k, g k < 2 ^ w) : joinFields w n g < 2 ^ (w * n) := by
  induction n generalizing g with
  | zero => exact Nat.one_pos
  | succ n ih =>
    calc g 0 + 2 ^ w * joinFields w n (fun k => g (k + 1))
      _ < 2 ^ w * (joinFields w n (fun k => g (k + 1)) + 1) := by rw [Nat.mul_succ]; have := fits 0; omega
      _ ≤ 2 ^ w * 2 ^ (w * n) := Nat.mul_le_mul_left _ (ih fun k => fits (k + 1))
      _ = 2 ^ (w * (n + 1)) := by rw [← pow_add, Nat.mul_succ, Nat.add_comm w]

/-- A field of the joined number is the one put there, whatever stands above the n fields. -/
theorem field_joinFields {w n k : Nat} {g : Nat → Nat} (fits : ∀ k, g k < 2 ^ w) (hk : k < n) (above : Nat) :
    field w (joinFields w n g + 2 ^ (w * n) * above) k = g k := by
  induction n generalizing g k with
  | zero => exact absurd hk (Nat.not_lt_zero k)
  | succ n ih =>
    have split : joinFields w (n + 1) g + 2 ^ (w * (n + 1)) * above
        = g 0 + 2 ^ w * (joinFields w n (fun k => g (k + 1)) + 2 ^ (w * n) * above) := by
      rw [joinFields, Nat.mul_succ, Nat.add_comm (w * n), pow_add]; ring
    rw [split]
    cases k with
    | zero => rw [field_zero, Nat.add_mul_mod_self_left, Nat.mod_eq_of_lt (fits 0)]
    | succ k =>
      rw [field_succ, Nat.add_mul_div_left _ _ (Nat.two_pow_pos w), Nat.div_eq_of_lt (fits 0), Nat.zero_add]
      exact ih (fun k => fits (k + 1)) (by omega)

theorem zipFields_eq (t : Nat) (f : Nat → Nat → Nat) (n a b : Nat) :
    zipFields t f n a b = joinFields t n fun k => f (field t a k) (field t b k) := by
  induction n generalizing a b with
  | zero => rfl
  | succ n ih => simp only [zipFields, joinFields, ih, field_zero, field_succ]

theorem packFields_eq (t m n b : Nat) : packFields t m n b = joinFields m n fun k => field t b k / 2 ^ (t - m) := by
  induction n generalizing b with
  | zero => rfl
  | succ n ih => simp only [packFields, joinFields, ih, field_zero, field_succ]

theorem unpackFields_eq (t n v : Nat) : unpackFields t n v = joinFields (2 * t) n fun k => field t v k := by
  induction n generalizing v with
  | zero => rfl
  | succ n ih => simp only [unpackFields, joinFields, ih, field_zero, field_succ]

/-- The double word made of fields that fill 64 bits has these fields. -/
theorem field_ofNat_joinFields {w n k : Nat} {g : Nat → Nat} (fits : ∀ k, g k < 2 ^ w) (whole : w * n = 64)
    (hk : k < n) : field w (BitVec.ofNat 64 (joinFields w n g)).toNat k = g k := by
  rw [BitVec.toNat_ofNat, ← whole, Nat.mod_eq_of_lt (joinFields_lt fits)]
  exact field_joinFields fits hk 0

/-! ### Operations on one field

2^w and 2^(w - 1) are made opaque before the case splits, so that every case is linear. -/

/-- The two's complement value of a field. -/
def signedField (w : Nat) (a : Int) : Int := if 2 ^ (w - 1) ≤ a then a - 2 ^ w else a

/-- Clamped to the unsigned range (44_graphics.md R564). -/
def clampUnsigned (w : Nat) (a : Int) : Int := max 0 (min a (2 ^ w - 1))

/-- Clamped to the signed range, as a field (R564). -/
def clampSigned (w : Nat) (a : Int) : Int := max (-(2 ^ (w - 1))) (min a (2 ^ (w - 1) - 1)) % 2 ^ w

theorem emod_two_pow_lt (w : Nat) (a : Int) : a % 2 ^ w < 2 ^ w := Int.emod_lt_of_pos a (by positivity)

theorem clampUnsigned_lt (w : Nat) (a : Int) : clampUnsigned w a < 2 ^ w := by
  have : (0 : Int) < 2 ^ w := by positivity
  rw [clampUnsigned]; omega

theorem fieldSigned_eq (w a : Nat) : fieldSigned w a = signedField w a := by
  have half : 2 ^ (w - 1) ≤ a ↔ (2 : Int) ^ (w - 1) ≤ a := by norm_cast
  simp only [fieldSigned, fieldMsb, signedField, decide_eq_true_eq, half]

theorem fieldAdd_cast (w a b : Nat) : (fieldAdd w a b : Int) = ((a : Int) + b) % 2 ^ w := by
  rw [fieldAdd]; push_cast; rfl

theorem fieldSub_cast {w b : Nat} (a : Nat) (hb : b < 2 ^ w) : (fieldSub w a b : Int) = ((a : Int) - b) % 2 ^ w := by
  rw [fieldSub]; push_cast [hb.le]
  rw [show (a : Int) + (2 ^ w - b) = a - b + 2 ^ w by ring, Int.add_emod_right]

theorem cast_two_pow (w : Nat) : (2 : Int) ^ w = (2 ^ w : Nat) := by norm_cast

theorem two_pow_pred (w : Nat) (pos : 0 < w) : 2 ^ w = 2 * 2 ^ (w - 1) := by
  rw [← pow_succ', Nat.sub_add_cancel pos]

/-- The remainder below the top bit. -/
theorem mod_two_pow_pred {w a : Nat} (pos : 0 < w) (ha : a < 2 ^ w) :
    a % 2 ^ (w - 1) = if 2 ^ (w - 1) ≤ a then a - 2 ^ (w - 1) else a := by
  have whole := two_pow_pred w pos
  split
  · next high => rw [Nat.mod_eq_sub_mod high, Nat.mod_eq_of_lt (by omega)]
  · next low => exact Nat.mod_eq_of_lt (by omega)

theorem signedField_modEq (w a : Nat) : signedField w a ≡ a [ZMOD 2 ^ w] := by
  rw [signedField]
  split
  · exact Int.sub_emod_right ..
  · rfl

theorem clampSigned_eq {w : Nat} (pos : 0 < w) (x : Int) : clampSigned w x =
    if x < -2 ^ (w - 1) then 2 ^ (w - 1) else if 2 ^ (w - 1) ≤ x then 2 ^ (w - 1) - 1 else x % 2 ^ w := by
  have whole : (2 : Int) ^ w = 2 * 2 ^ (w - 1) := by rw [cast_two_pow, two_pow_pred w pos]; push_cast; rfl
  have : (0 : Int) < 2 ^ (w - 1) := by positivity
  rw [clampSigned, whole]
  generalize (2 : Int) ^ (w - 1) = h at *
  split_ifs
  · rw [show max (-h) (min x (h - 1)) = h - 2 * h by omega, Int.sub_emod_right, Int.emod_eq_of_lt (by omega) (by omega)]
  · rw [show max (-h) (min x (h - 1)) = h - 1 by omega, Int.emod_eq_of_lt (by omega) (by omega)]
  · rw [show max (-h) (min x (h - 1)) = x by omega]

section
variable {w a b : Nat} (ha : a < 2 ^ w) (hb : b < 2 ^ w)
include ha hb

theorem fieldAdd_eq : fieldAdd w a b = if a + b < 2 ^ w then a + b else a + b - 2 ^ w := by
  rw [fieldAdd]
  split
  · next low => exact Nat.mod_eq_of_lt low
  · next high => rw [Nat.mod_eq_sub_mod (by omega), Nat.mod_eq_of_lt (by omega)]

theorem fieldSub_eq : fieldSub w a b = if b ≤ a then a - b else a + 2 ^ w - b := by
  rw [fieldSub]
  split
  · next le => rw [show a + (2 ^ w - b) = a - b + 2 ^ w by omega, Nat.add_mod_right, Nat.mod_eq_of_lt (by omega)]
  · next lt => rw [Nat.mod_eq_of_lt (by omega)]; omega

theorem fieldAddU_cast : (fieldAddU w a b : Int) = clampUnsigned w (a + b) := by
  rw [fieldAddU, fieldAdd_eq ha hb, clampUnsigned, cast_two_pow]
  generalize 2 ^ w = top at *
  split_ifs <;> omega

theorem fieldSubU_cast : (fieldSubU w a b : Int) = clampUnsigned w (a - b) := by
  rw [fieldSubU, fieldSub_eq ha hb, clampUnsigned, cast_two_pow]
  generalize 2 ^ w = top at *
  split_ifs <;> omega

theorem fieldSubUs_cast : (fieldSubUs w a b : Int) = clampUnsigned w (a - signedField w b) := by
  rw [fieldSubUs, fieldSub_eq ha hb, ← fieldSigned_eq, clampUnsigned, fieldSigned, cast_two_pow]
  generalize 2 ^ w = top at *
  split_ifs <;> omega

variable (pos : 0 < w)
include pos

/-- The sum leaves the unsigned range where the operands' top bits differ and the sum has that of the signed one (R566). -/
theorem fieldAddUs_cast : (fieldAddUs w a b : Int) = clampUnsigned w (a + signedField w b) := by
  simp only [fieldAddUs, fieldAdd_eq ha hb, ← fieldSigned_eq, clampUnsigned, fieldSigned, fieldMsb, cast_two_pow,
    Bool.and_eq_true, bne_iff_ne, beq_iff_eq, ne_eq, decide_eq_decide, decide_eq_true_eq]
  have whole := two_pow_pred w pos
  generalize 2 ^ (w - 1) = h, 2 ^ w = top at *
  split_ifs <;> omega

/-- The sum leaves the signed range where the carries into and out of its top bit differ, below it where the latter is
one (R564). -/
theorem fieldAddS_cast : (fieldAddS w a b : Int) = clampSigned w (signedField w a + signedField w b) := by
  rw [clampSigned_eq pos, (signedField_modEq w a).add (signedField_modEq w b), ← fieldAdd_cast]
  simp only [fieldAddS, mod_two_pow_pred pos ha, mod_two_pow_pred pos hb, ← fieldSigned_eq, fieldSigned, fieldMsb,
    cast_two_pow, bne_iff_ne, ne_eq, decide_eq_decide, decide_eq_true_eq]
  have whole := two_pow_pred w pos
  generalize 2 ^ (w - 1) = h, 2 ^ w = top, fieldAdd w a b = sum at *
  split_ifs <;> omega

end

theorem fieldSubS_cast {w b : Nat} (a : Nat) (hb : b < 2 ^ w) (pos : 0 < w) :
    (fieldSubS w a b : Int) = clampSigned w (signedField w a - signedField w b) := by
  rw [clampSigned_eq pos, (signedField_modEq w a).sub (signedField_modEq w b), ← fieldSub_cast a hb, fieldSubS,
    fieldSigned_eq, fieldSigned_eq]
  have positive := Nat.two_pow_pos (w - 1)
  simp only [cast_two_pow]
  generalize 2 ^ (w - 1) = h, fieldSub w a b = difference at *
  split_ifs <;> omega

/-! ### Operations on pairs -/

/-- An instruction on the fields of two pairs does on each field what its operation does on one. -/
theorem onFields_of_pixelOp {i : Instr} {s : State} {d s1 s2 : RegNum} {p : PackSize} {w : Nat}
    {f : Nat → Nat → Nat → Nat} {F : Int → Int → Int} (h : exec i s = pixelOp f d s1 p s2 s)
    (enabled : psrSfd2 s = false) (legal : p.addLegal = true) (size : fieldBits p = w) (whole : w * (64 / w) = 64)
    (evenD : d.toNat % 2 = 0) (even1 : s1.toNat % 2 = 0) (even2 : s2.toNat % 2 = 0)
    (range : ∀ x y, F x y < 2 ^ w) (one : ∀ a b, a < 2 ^ w → b < 2 ^ w → (f w a b : Int) = F a b) :
    OnFields w F d s1 s2 i s := by
  have fits (k : Nat) : f w (field w (pairValue s s1) k) (field w (pairValue s s2) k) < 2 ^ w := by
    have := range (field w (pairValue s s1) k) (field w (pairValue s s2) k)
    rw [← one _ _ (field_lt ..) (field_lt ..)] at this
    exact_mod_cast this
  refine does_of_writePair (h.trans (pixelOp_passed enabled legal evenD even1 even2)) evenD
    (P := fun v => ∀ k, k < 64 / w → (field w v k : Int) = F (field w (pairValue s s1) k) (field w (pairValue s s2) k))
    fun k hk => ?_
  rw [onFields, size, readPair_toNat, readPair_toNat, zipFields_eq]
  exact (congrArg _ (field_ofNat_joinFields fits whole hk)).trans (one _ _ (field_lt ..) (field_lt ..))

/-- Settles O37: the operation of each instruction on one field is the one stated. -/
theorem pixelAddAndSubtract : Obligations.PixelAddAndSubtract := by
  unfold Obligations.PixelAddAndSubtract
  intro s d s1 s2 p w enabled evenD even1 even2 sizes signed u sg
  obtain ⟨legal, size, pos, whole⟩ : p.addLegal = true ∧ fieldBits p = w ∧ 0 < w ∧ w * (64 / w) = 64 := by
    obtain ⟨rfl, rfl⟩ | ⟨rfl, rfl⟩ | ⟨rfl, rfl⟩ := sizes <;> decide
  have each {i : Instr} {f : Nat → Nat → Nat → Nat} {F : Int → Int → Int} (h : exec i s = pixelOp f d s1 p s2 s)
      (range : ∀ x y, F x y < 2 ^ w) (one : ∀ a b, a < 2 ^ w → b < 2 ^ w → (f w a b : Int) = F a b) :
      OnFields w F d s1 s2 i s :=
    onFields_of_pixelOp h enabled legal size whole evenD even1 even2 range one
  refine ⟨?padd, ?psub, ?paddsU, ?paddsUs, ?paddsS, ?psubsU, ?psubsUs, ?psubsS⟩
  case padd => exact each rfl (fun _ _ => emod_two_pow_lt w _) fun a b _ _ => fieldAdd_cast w a b
  case psub => exact each rfl (fun _ _ => emod_two_pow_lt w _) fun a _ _ hb => fieldSub_cast a hb
  case paddsU => exact each rfl (fun _ _ => clampUnsigned_lt w _) fun _ _ ha hb => fieldAddU_cast ha hb
  case paddsUs => exact each rfl (fun _ _ => clampUnsigned_lt w _) fun _ _ ha hb => fieldAddUs_cast ha hb pos
  case paddsS => exact each rfl (fun _ _ => emod_two_pow_lt w _) fun _ _ ha hb => fieldAddS_cast ha hb pos
  case psubsU => exact each rfl (fun _ _ => clampUnsigned_lt w _) fun _ _ ha hb => fieldSubU_cast ha hb
  case psubsUs => exact each rfl (fun _ _ => clampUnsigned_lt w _) fun _ _ ha hb => fieldSubUs_cast ha hb
  case psubsS => exact each rfl (fun _ _ => emod_two_pow_lt w _) fun a _ _ hb => fieldSubS_cast a hb pos

/-! ### Compare and multiply -/

theorem readPair_high (s : State) (r : RegNum) : (readPair s r).extractLsb' 32 32 = readReg s r := by
  rw [readPair, slice_high _ _ _ _ le_rfl, Nat.sub_self, slice_all]

theorem readPair_low (s : State) (r : RegNum) : (readPair s r).extractLsb' 0 32 = readReg s (r + 1#5) := by
  rw [readPair, slice_low _ _ _ _ le_rfl, slice_all]

/-- The result string by the comparisons of the high and of the low words (44_graphics.md R569). -/
def pixelString (hi lo : Bool) : Word :=
  if hi then (if lo then 0x00000E10#32 else 0x00000B40#32) else if lo then 0x00000780#32 else 0x00000D20#32

theorem pixelCompare_eq (a b : DWord) : pixelCompare a b =
    pixelString (decide ((b.extractLsb' 32 32).toNat ≤ (a.extractLsb' 32 32).toNat))
      (decide ((b.extractLsb' 0 32).toNat ≤ (a.extractLsb' 0 32).toNat)) := by
  rw [pixelCompare]
  generalize decide ((b.extractLsb' 32 32).toNat ≤ _) = hi, decide ((b.extractLsb' 0 32).toNat ≤ _) = lo
  cases hi <;> cases lo <;> rfl

/-- Settles O38: both instructions pass the check, pcmp writes one register and pmul a pair. -/
theorem pixelCompareAndMultiply : Obligations.PixelCompareAndMultiply := by
  unfold Obligations.PixelCompareAndMultiply
  intro s d s1 s2 enabled even2 hi lo string
  refine ⟨fun even1 => ?pcmp, fun evenD => ?pmul⟩
  case pcmp =>
    have passed : execPcmp d s1 s2 s = _ := execPcmp_passed enabled even1 even2
    rw [pixelCompare_eq, readPair_high, readPair_high, readPair_low, readPair_low] at passed
    exact does_of_result passed
  case pmul =>
    have product : (BitVec.ofNat 64 ((readReg s s1).toNat * (readPair s s2).toNat)).toNat
        = (readReg s s1).toNat * pairValue s s2 % 18446744073709551616 := by
      rw [BitVec.toNat_ofNat, readPair_toNat, pairValue]
    obtain ⟨h, l, sets, value⟩ := does_of_writePair (i := .pmul d s1 s2) (P := (· = _))
      (execPmul_passed enabled evenD even2) evenD product
    exact ⟨h, l, value, sets⟩

/-! ### Unpack, pack and rotate -/

theorem shiftLeft_or_toNat (a : DWord) {r low : Nat} (hr : r ≤ 64) (fits : low < 2 ^ r) :
    ((a <<< r) ||| BitVec.ofNat 64 low).toNat = low + 2 ^ r * (a.toNat % 2 ^ (64 - r)) := by
  have lowFits : low < 2 ^ 64 := fits.trans_le (Nat.pow_le_pow_right (by decide) hr)
  have split : 2 ^ 64 = 2 ^ r * 2 ^ (64 - r) := by rw [← pow_add, Nat.add_sub_cancel' hr]
  rw [BitVec.toNat_or, BitVec.toNat_shiftLeft, BitVec.toNat_ofNat, Nat.mod_eq_of_lt lowFits, Nat.shiftLeft_eq, split,
    Nat.mul_comm a.toNat, Nat.mul_mod_mul_left, ← Nat.two_pow_add_eq_or_of_lt fits, Nat.add_comm]

/-- A rotation left by c nibbles: bit k is the bit 4 * c places below it, and below bit 0 comes bit 63. -/
theorem rotateNibbles_testBit (v : DWord) (c : BitVec 4) {k : Nat} (hk : k < 64) :
    (rotateNibbles v c).toNat.testBit k = v.toNat.testBit ((k + 64 - 4 * c.toNat) % 64) := by
  have count := c.isLt
  rw [BitVec.testBit_toNat, BitVec.testBit_toNat, rotateNibbles, BitVec.getLsbD_or, BitVec.getLsbD_shiftLeft,
    BitVec.getLsbD_ushiftRight]
  by_cases low : k < 4 * c.toNat
  · have wrapped : (k + 64 - 4 * c.toNat) % 64 = 64 - 4 * c.toNat + k := by omega
    simp [low, wrapped]
  · have moved : (k + 64 - 4 * c.toNat) % 64 = k - 4 * c.toNat := by omega
    have gone : v.getLsbD (64 - 4 * c.toNat + k) = false := BitVec.getLsbD_of_ge _ _ (by omega)
    simp [low, moved, gone, hk]

/-- For the defined sizes and rotations of ppack, what the fields keep fills exactly the bits that the rotation frees (R572). -/
theorem packFields_fit {p : PackSize} {w : Nat} {r : BitVec 4}
    (h : (p = .byte ∧ w = 8 ∧ r = 8#4) ∨ (p = .half ∧ w = 16 ∧ (r = 4#4 ∨ r = 8#4))
      ∨ (p = .word ∧ w = 32 ∧ (r = 2#4 ∨ r = 4#4 ∨ r = 8#4))) :
    ppackLegal r p = true ∧ fieldBits p = w ∧ w * (4 * r.toNat) / 64 = w * r.toNat / 16 ∧ w * r.toNat / 16 ≤ w
      ∧ w * r.toNat / 16 * (64 / w) = 4 * r.toNat := by
  obtain ⟨rfl, rfl, rfl⟩ | ⟨rfl, rfl, rfl | rfl⟩ | ⟨rfl, rfl, rfl | rfl | rfl⟩ := h <;> decide

theorem field_high_lt {w m : Nat} (h : m ≤ w) (x k : Nat) : field w x k / 2 ^ (w - m) < 2 ^ m := by
  rw [Nat.div_lt_iff_lt_mul (Nat.two_pow_pos _), ← pow_add, Nat.add_sub_cancel' h]
  exact field_lt w x k

/-- Settles O39: each instruction writes the pair of its operation's double word, whose fields or bits are those stated. -/
theorem pixelUnpackPackAndRotate : Obligations.PixelUnpackPackAndRotate := by
  unfold Obligations.PixelUnpackPackAndRotate
  intro s d s1 s2 enabled evenD sets
  have puts {i : Instr} {v : DWord} {P : Nat → Prop} (h : exec i s = done (writePair s d v)) (holds : P v.toNat) :
      sets i P := does_of_writePair h evenD holds
  clear_value sets
  refine ⟨fun p w sizes => ?punpk, fun r p w even1 even2 sizes => ?ppack, fun even1 => ⟨fun r => ?protImm, ?protReg⟩⟩
  case punpk =>
    obtain ⟨legal, size, whole⟩ : p.unpackLegal = true ∧ fieldBits p = w ∧ 2 * w * (32 / w) = 64 := by
      obtain ⟨rfl, rfl⟩ | ⟨rfl, rfl⟩ | ⟨rfl, rfl⟩ := sizes <;> decide
    have fits (k : Nat) : field w (readReg s s1).toNat k < 2 ^ (2 * w) :=
      (field_lt ..).trans_le (Nat.pow_le_pow_right (by decide) (by omega))
    refine puts (i := .punpk d s1 p) (execPunpk_passed enabled legal evenD) fun k hk => ?_
    rw [size, unpackFields_eq]
    exact field_ofNat_joinFields fits whole hk
  case ppack =>
    obtain ⟨legal, size, kept, le, below⟩ := packFields_fit sizes
    generalize w * r.toNat / 16 = m at *
    have fits := field_high_lt le (pairValue s s2)
    have packed : (packResult (4 * r.toNat) (fieldBits p) (readPair s s1) (readPair s s2)).toNat
        = joinFields m (64 / w) (fun k => field w (pairValue s s2) k / 2 ^ (w - m))
          + 2 ^ (m * (64 / w)) * (pairValue s s1 % 2 ^ (64 - 4 * r.toNat)) := by
      rw [packResult, size, kept, packFields_eq, readPair_toNat s s2, below, ← pairValue, shiftLeft_or_toNat _ (by omega),
        readPair_toNat s s1, ← pairValue]
      exact below ▸ joinFields_lt fits
    refine puts (i := .ppack d s1 r p s2) (execPpack_passed enabled legal evenD even1 even2) ?_
    rw [packed]
    refine ⟨?_, fun k hk => field_joinFields fits hk _⟩
    rw [← below, Nat.add_mul_div_left _ _ (Nat.two_pow_pos _), Nat.div_eq_of_lt (joinFields_lt fits), Nat.zero_add]
  case protImm =>
    refine puts (i := .protImm d s1 r) (execProtImm_passed enabled evenD even1) fun k hk => ?_
    rw [rotateNibbles_testBit _ _ hk, readPair_toNat, pairValue]
  case protReg =>
    have count : ((readReg s s2).extractLsb' 2 4).toNat = (readReg s s2).toNat / 4 % 16 := by
      rw [BitVec.extractLsb'_toNat, Nat.shiftRight_eq_div_pow]
    refine puts (i := .protReg d s1 s2) (execProtReg_passed enabled evenD even1) fun k hk => ?_
    rw [rotateNibbles_testBit _ _ hk, count, readPair_toNat, pairValue]

end Sys2Proof.Machine


/-! ## The checks of the floating-point control registers -/

namespace Sys2Proof.Machine

section
variable {s t : State} {n : BitVec 6}

/-- The unit is disabled (45_load_store.md R638, the first check). -/
theorem fcrFault_of_disabled (disabled : psrSfd1 s = true) : fcrFault n s = some (setFunimp s) := by
  simp only [fcrFault, disabled, if_true]

/-- User mode reaches fcr62 and fcr63 alone (R638, the second check). -/
theorem fcrFault_of_user (enabled : psrSfd1 s = false) (user : psrMode s = false) (low : n.toNat ≤ 61) :
    fcrFault n s = some (setFpecr s 0x20#32) := by
  simp [fcrFault, enabled, user, low]

/-- fcr1 to fcr61 are no registers in supervisor mode either (R638, the third check). -/
theorem fcrFault_of_unimplemented (enabled : psrSfd1 s = false) (supervisor : psrMode s = true) (above : 1 ≤ n.toNat)
    (low : n.toNat ≤ 61) : fcrFault n s = some (setFunimp s) := by
  simp [fcrFault, enabled, supervisor, above, low]

/-- A failed check is the exception of each of the three instructions, before any access. -/
theorem exec_of_fcrFault (h : fcrFault n s = some t) (d s1 : RegNum) {i : Instr}
    (hi : i ∈ [.fldcr d n, .fstcr s1 n s1, .fxcr d s1 n s1]) : exec i s = raise .sfu1 t := by
  simp only [List.mem_cons, List.not_mem_nil, or_false] at hi
  obtain rfl | rfl | rfl := hi
  · change execFldcr d n s = _
    simp only [execFldcr, h]
  · change execFstcr s1 n s1 s = _
    simp only [execFstcr, if_true, h]
  · change execFxcr d s1 n s1 s = _
    simp only [execFxcr, if_true, h]

end

/-- Settles O23: each cause fails one of the checks, and that check's FPECR is the state's when the exception is taken. -/
theorem fpControlRegisterTraps : Obligations.FpControlRegisterTraps := by
  unfold Obligations.FpControlRegisterTraps
  intro s d s1 n raises
  have raisesFunimp (h : fcrFault n s = some (setFunimp s)) : raises fun c => c.getLsbD 6 = true := fun _ hi =>
    ⟨(setFunimp s).fpecr, s.draws + 1, (entersUnimplemented_setFunimp s).funimp, exec_of_fcrFault h d s1 hi⟩
  refine ⟨fun disabled => raisesFunimp (fcrFault_of_disabled disabled), fun enabled user low i hi => ?_,
    fun enabled supervisor above low => raisesFunimp (fcrFault_of_unimplemented enabled supervisor above low)⟩
  exact ⟨0x20#32, s.draws, by decide, exec_of_fcrFault (fcrFault_of_user enabled user low) d s1 hi⟩

end Sys2Proof.Machine


/-! ## Unconditional branches and the return from an exception -/

namespace Sys2Proof.Machine

/-! ### Targets -/

/-- The target of br and bsr in signed arithmetic (46_flow_control.md R660). -/
theorem target26_eq (a : Word) (disp : BitVec 26) : target26 a disp = BitVec.ofInt 32 (a.toInt + 4 * disp.toInt) := by
  have four : BitVec.twoPow 32 2 = BitVec.ofInt 32 4 := by decide
  rw [target26, BitVec.shiftLeft_eq_mul_twoPow, four, BitVec.signExtend, BitVec.mul_comm, ← BitVec.ofInt_mul,
    BitVec.ofInt_add, BitVec.ofInt_toInt]

/-- A word's address: the upper 30 bits, two zeros below. -/
theorem wordAddress_eq (v : Word) : v &&& 0xFFFFFFFC#32 = v.extractLsb' 2 30 ++ 0#2 := by
  refine BitVec.eq_of_getLsbD_eq fun i hi => ?_
  rw [and_lit_bit (p := (2 ≤ ·)) (by decide) v hi, BitVec.getLsbD_append, BitVec.getLsbD_extractLsb']
  by_cases low : i < 2
  · simp [low]
  · simp [low, show 2 ≤ i by omega, show i - 2 < 30 by omega, show 2 + (i - 2) = i by omega]

/-! ### A branch that is taken -/

section
variable {i : Instr} {s u v : State} {n : Bool} {target : Word}

/-- A branch may write general registers and the bookkeeping of the TIC before it goes to its target (R661, R690). -/
theorem branches_of_frame
    (frame : v = { s with gpr := v.gpr, ticSupply := v.ticSupply, ticFill := v.ticFill, draws := v.draws }) :
    Branches n target s (branchTo v n target) where
  xip := by rw [branchTo_xip, frame]
  nip := branchTo_nip ..
  ds := branchTo_ds ..
  frame := by rw [branchTo_frame, frame]
  memory := readByte_congr (by rw [branchTo_mem, frame])

/-- An instruction that writes general registers, which gives u, then tells the TIC, which gives v, and branches. -/
theorem does_of_branchTo (h : exec i s = .next (branchTo v n target)) (written : u = { s with gpr := u.gpr })
    (told : v = { u with ticSupply := v.ticSupply, ticFill := v.ticFill, draws := v.draws }) :
    Does i s fun t => Branches n target s t ∧ ∀ r, readReg t r = readReg u r := by
  refine ⟨_, h, branches_of_frame ?_, readReg_congr ?_⟩
  · rw [told, written]
  · rw [branchTo_gpr, told]

/-- br and bsr end in a branch that the TIC takes part in. -/
theorem does_of_takeBranch (h : exec i s = takeBranch n target u) (written : u = { s with gpr := u.gpr }) :
    Does i s fun t => Branches n target s t ∧ ∀ r, readReg t r = readReg u r :=
  does_of_branchTo h written (ticTaken_frame n target u)

/-- jmp and jsr end in a branch that the TIC takes no part in. -/
theorem does_of_takeJump (h : exec i s = takeJump n target u) (written : u = { s with gpr := u.gpr }) :
    Does i s fun t => Branches n target s t ∧ ∀ r, readReg t r = readReg u r :=
  does_of_branchTo h written rfl

/-- The link register is r1, which is no r0: the write is not discarded (R664, R672). -/
theorem readReg_writeReg_link (s : State) (back : Word) (r : RegNum) :
    readReg (writeReg s 1#5 back) r = if r = 1#5 then back else readReg s r :=
  (readReg_writeReg s 1#5 r back).trans (if_congr (and_iff_left (by decide)) rfl rfl)

end

/-- Settles O15: the target is read first, r1 is written or nothing, and the branch is taken. -/
theorem unconditionalBranches : Obligations.UnconditionalBranches := by
  unfold Obligations.UnconditionalBranches
  intro s n disp s2 _ near far back linked
  have nearTarget : target26 s.xip disp = near := target26_eq s.xip disp
  have farTarget : targetReg (readReg s s2) = far := wordAddress_eq (readReg s s2)
  have links {i : Instr} {target : Word}
      (h : Does i s fun t => Branches n target s t ∧ ∀ r, readReg t r = readReg (writeReg s 1#5 back) r) :
      Does i s fun t => Branches n target s t ∧ linked t :=
    h.imp fun _ ⟨branches, registers⟩ => ⟨branches, fun r => (registers r).trans (readReg_writeReg_link s back r)⟩
  rw [← nearTarget, ← farTarget]
  have written := writeReg_frame s 1#5 back
  exact ⟨does_of_takeBranch rfl rfl, links (does_of_takeBranch rfl written), does_of_takeJump rfl rfl,
    links (does_of_takeJump rfl written)⟩

/-! ### rte -/

/-- Settles O18: the return restores PSR and both pointers in supervisor mode, and is a privilege violation else. -/
theorem rteReturnsFromException : Obligations.ReturnFromException := by
  unfold Obligations.ReturnFromException
  intro s _
  split
  case isTrue supervisor =>
    have returns : exec .rte s = .next (returnFromException s) := if_pos supervisor
    have nip : (returnFromException s).nip = if s.exip.getLsbD 0 then s.enip.extractLsb' 2 30 ++ 0#2
        else (returnFromException s).xip + 4#32 := by
      rw [← wordAddress_eq]; rfl
    exact ⟨_, returns, psrLegal_bit s.epsr, wordAddress_eq s.exip, rfl, nip, rfl, fun _ => rfl⟩
  case isFalse user => exact does_of_raise (e := .privilege) (if_neg user)

end Sys2Proof.Machine


/-! ## Interrupts -/

namespace Sys2Proof.Machine

section
variable {s : State} {e : Exc}

/-! ### Which interrupt is pending (60_exceptions.md R706, R740, R741) -/

theorem pendingInterrupt_nmi (pending : s.nmiPending = true ∧ psrEfrz s = false) :
    pendingInterrupt s = some .nonmaskableInterrupt := by
  simp [pendingInterrupt, pending]

theorem pendingInterrupt_int (pending : s.intPin = true ∧ psrInd s = false)
    (first : ¬ (s.nmiPending = true ∧ psrEfrz s = false)) : pendingInterrupt s = some .maskableInterrupt := by
  simp [pendingInterrupt, pending, first]

theorem pendingInterrupt_none (int : ¬ (s.intPin = true ∧ psrInd s = false))
    (nmi : ¬ (s.nmiPending = true ∧ psrEfrz s = false)) : pendingInterrupt s = none := by
  simp [pendingInterrupt, int, nmi]

/-! ### Taking it -/

/-- A pending interrupt is taken in place of the instruction at XIP, unless that raises a data access exception
(R706). -/
theorem step_interrupt (snooped : (boundary s).1 = false) (running : (boundary s).2.stuck = false)
    (pending : pendingInterrupt (boundary s).2 = some e)
    (noDataAccess : tookDataAccess (runInstruction (boundary s).2) = false) :
    step s = endStep (boundary s).2
      (.next (waivedLoads historyDepth (boundary s).2 (takeInterrupt e (boundary s).2))) := by
  simp only [step, runStep, snooped, running, pending, noDataAccess, Bool.false_eq_true, if_false]

theorem takeInterrupt_halted (e : Exc) (s : State) : (takeInterrupt e s).halted = s.halted := by
  unfold takeInterrupt; split <;> rfl

/-- Without loads behind the interrupt, and with no transaction that cuts the step short, the entry is the whole
step. -/
theorem endStep_takeInterrupt_quiet (b : State) (quiet : b.script.waived = []) (running : b.halted = none) :
    endStep b (.next (waivedLoads historyDepth b (takeInterrupt e b))) = .next (takeInterrupt e b) := by
  rw [waivedLoads_quiet historyDepth quiet, endStep_running b ((takeInterrupt_halted e b).trans running)]

/-- The mark of the exception before, which the boundary clears, is no part of what entering one leaves. -/
theorem Enters.of_mark {n : BitVec 9} {t : State} (h : Enters n { s with lastExc := none } t) : Enters n s t :=
  ⟨h.exip, h.enip, h.epsr, h.psr, h.xip, h.nip, h.ds, h.frame, h.memory⟩

/-- Taking NMI clears its latch (R741). -/
theorem enters_takeInterrupt_nmi (s : State) :
    Enters 11#9 { s with nmiPending := false } (takeInterrupt .nonmaskableInterrupt s) :=
  enters_takeException .nonmaskableInterrupt { s with nmiPending := false }

theorem enters_takeInterrupt_int (s : State) : Enters 1#9 s (takeInterrupt .maskableInterrupt s) :=
  enters_takeException .maskableInterrupt s

end

/-- Settles O55: the boundary leaves the state as it was, and a pending interrupt is entered there. -/
theorem interruptsAreTakenBetweenInstructions : Obligations.InterruptsAreTakenBetweenInstructions := by
  unfold Obligations.InterruptsAreTakenBetweenInstructions
  intro s inputs snoop running noDataAccess nmi int b goes
  have bound : boundary s = (false, b) := boundary_quiet inputs snoop
  have taken {e : Exc} (pending : pendingInterrupt b = some e) : goes (takeInterrupt e b) := by
    have interrupted := step_interrupt (s := s) (by rw [bound]) (by rw [bound]; exact running)
      (by rw [bound]; exact pending) (by rw [bound]; exact noDataAccess)
    rw [bound] at interrupted
    exact ⟨interrupted, fun quiet halted => interrupted.trans (endStep_takeInterrupt_quiet b quiet halted)⟩
  refine ⟨fun hasNmi => ?_, fun hasInt noNmi => ?_, fun noInt noNmi => ?_⟩
  · exact ⟨_, taken (pendingInterrupt_nmi hasNmi), (enters_takeInterrupt_nmi b).of_mark⟩
  · exact ⟨_, taken (pendingInterrupt_int hasInt noNmi), (enters_takeInterrupt_int b).of_mark⟩
  · have passed := step_instruction (s := s) (by rw [bound]) (by rw [bound]; exact running)
      (by rw [bound]; exact pendingInterrupt_none noInt noNmi)
    rwa [bound] at passed

end Sys2Proof.Machine
